-- ==== Sys2Proof/Word.lean ====
section
/-! DEFINITION. The words of the machine and the index and field types of its units (spec 00 R2, R4, R7; 04 R73, R80, R84, R88, R89). -/

namespace Sys2Proof

/-- A 64-bit register or doubleword. -/
abbrev Word := BitVec 64

/-- A byte. -/
abbrev Byte := BitVec 8

/-- A 48-bit virtual address, as the PC holds it (R73, R162). -/
abbrev VA := BitVec 48

/-- A vector register of 128 bytes (R74). -/
abbrev VReg := BitVec 1024

/-- A domain number (R18). -/
abbrev Dom := BitVec 8

/-- A physical global core (R7). -/
abbrev CoreId := Fin 768

/-- A slot of a core (R7). -/
abbrev SlotId := Fin 16

/-- A compute die (R2). -/
abbrev DieId := Fin 6

/-- A partition entry of a core (R40). -/
abbrev PartId := Fin 4

/-- An engine queue: 0 copy, 1 matrix, 2 gather, 3 front end (R254). -/
abbrev QueueId := Fin 4

/-- The operation types of an instruction (R88). -/
inductive Ty where
  | s8 | s16 | s32 | s64 | n8 | n16 | n32 | n64 | f16 | bf16 | f32 | f64
  deriving DecidableEq, Repr

/-- The rounding modes of MOD[15:13]; `frm` takes the slot's FRM at issue (R89). -/
inductive RMode where
  | rne | rtz | rdn | rup | frm
  deriving DecidableEq, Repr

/-- ORD of a memory instruction (R84). -/
inductive MOrd where
  | plain | acq | rel | acqrel
  deriving DecidableEq, Repr

/-- SCOPE of a memory instruction (R84, R212). -/
inductive Scope where
  | slot | core | quad | die | pkg | pod
  deriving DecidableEq, Repr

/-- An operand specifier (R80): kind in [7:6], index in [5:0]. -/
inductive Spec where
  /-- Kind 00: a vector register; 0x00 also stands in an unused field. -/
  | v (n : BitVec 6)
  /-- Kind 01: an x register; index bit 5 is zero. -/
  | x (n : BitVec 5)
  /-- Kind 10: a k register as a source, a p register as a destination. -/
  | c (n : BitVec 6)
  /-- Kind 11: a literal from -32 to 31. -/
  | lit (n : BitVec 6)
  deriving DecidableEq, Repr

/-- The unused specifier 0x00 (R80). -/
abbrev Spec.none : Spec := .v 0

end Sys2Proof
end

