-- ==== Sys2Proof/Syntax.lean ====
section
/-! DEFINITION. The steps of the device as plain syntax: the instructions of Chonov 1.0 in their five formats
(R82 to R86), the tile commands (R99, R100, R267 to R281) and the device events of the opcode table. -/

namespace Sys2Proof

/-- Format B (R85). -/
structure FmtB where
  sa : Spec
  sb : Spec
  pn : Bool
  pred : BitVec 3
  disp : BitVec 32
  deriving DecidableEq, Repr

/-- Format R (R82). -/
structure FmtR where
  dst : Spec
  sa : Spec
  sb : Spec
  sc : Spec
  pn : Bool
  pred : BitVec 3
  ty : Ty
  mode : RMode
  sat : Bool
  imm : BitVec 12
  deriving DecidableEq, Repr

/-- Format I (R83). -/
structure FmtI where
  dst : Spec
  sa : Spec
  pn : Bool
  pred : BitVec 3
  imm : BitVec 32
  deriving DecidableEq, Repr

/-- Format M (R84), but for FENCE. -/
structure FmtM where
  data : Spec
  base : Spec
  aux : Spec
  pn : Bool
  pred : BitVec 3
  ord : MOrd
  scope : Scope
  sz : BitVec 2
  len : BitVec 8
  off : BitVec 12
  deriving DecidableEq, Repr

/-- The fields of FENCE: its two class masks and its scope (R250). -/
structure FmtF where
  pm : BitVec 8
  sm : BitVec 8
  scope : Scope
  deriving DecidableEq, Repr

/-- Format S (R86). -/
structure FmtS where
  dst : Spec
  sa : Spec
  sb : Spec
  sc : Spec
  imm : BitVec 24
  deriving DecidableEq, Repr

/-- The common header of a tile command, less its operation (R99). -/
structure Hdr where
  ord : Bool
  ntfy : Bool
  cscope : BitVec 2
  tag : BitVec 8
  bar : BitVec 8
  deriving DecidableEq, Repr

/-- COPY (R267), and XCOPY with its mode (R272). -/
structure CopyCmd where
  hdr : Hdr
  src : VA
  dst : VA
  len : BitVec 32
  deriving DecidableEq, Repr

/-- COPY2 (R268). -/
structure Copy2Cmd where
  hdr : Hdr
  rows : BitVec 16
  rb : BitVec 16
  src : VA
  dst : VA
  dstr : BitVec 32
  sstr : BitVec 32
  deriving DecidableEq, Repr

/-- FILL (R269). -/
structure FillCmd where
  hdr : Hdr
  dst : VA
  pat : Word
  len : BitVec 32
  deriving DecidableEq, Repr

/-- Element types of ACCUM, SCATTER with add and GSUM (R270, R278). -/
inductive EType where
  | f32 | bf16 | s32
  deriving DecidableEq, Repr

/-- ACCUM (R270); COUNT and SLICE are used in ordered mode only (R271). -/
structure AccumCmd where
  hdr : Hdr
  ety : EType
  src : VA
  dst : VA
  count : BitVec 16
  slice : BitVec 16
  len : BitVec 32
  deriving DecidableEq, Repr

/-- MMA (R274). -/
structure MmaCmd where
  hdr : Hdr
  acc : BitVec 4
  neg : Bool
  ta : Bool
  tb : Bool
  tida : BitVec 8
  tidb : BitVec 8
  kb : BitVec 7
  acol : BitVec 32
  arow : BitVec 32
  bcol : BitVec 32
  brow : BitVec 32
  skva : VA
  deriving DecidableEq, Repr

/-- MLDA (R277). -/
structure MldaCmd where
  hdr : Hdr
  acc : BitVec 4
  tr : Bool
  tid : BitVec 8
  col : BitVec 32
  row : BitVec 32
  deriving DecidableEq, Repr

/-- MSTA (R277). -/
structure MstaCmd where
  hdr : Hdr
  acc : BitVec 4
  mode : RMode
  sat : Bool
  tid : BitVec 8
  tr : Bool
  clr : Bool
  col : BitVec 32
  row : BitVec 32
  deriving DecidableEq, Repr

/-- MZERO (R277). -/
structure MzeroCmd where
  hdr : Hdr
  mask : BitVec 16
  deriving DecidableEq, Repr

/-- MSAVE and MRSTR (R277). -/
structure MsaveCmd where
  hdr : Hdr
  acc : BitVec 4
  va : VA
  deriving DecidableEq, Repr

/-- GATHER, SCATTER and GSUM (R278); `ety` is used by SCATTER with add and by GSUM. -/
structure GatherCmd where
  hdr : Hdr
  wide : Bool
  ety : EType
  rb : BitVec 16
  tbl : VA
  dense : VA
  count : BitVec 16
  idx : VA
  deriving DecidableEq, Repr

/-- DISPATCH (R280). -/
structure DispatchCmd where
  hdr : Hdr
  desc : VA
  deriving DecidableEq, Repr

/-- The class of a fabric node (R353). -/
inductive NodeClass where
  | absent | host | peer | mgmt
  deriving DecidableEq, Repr

/-- An entry of the node table (R353). -/
structure NodeEntry where
  cls : NodeClass
  vf : BitVec 7
  apertures : List (Nat × Nat)
  mask : BitVec 256
  refused : Nat
  deriving DecidableEq, Repr

/-- A request of another fabric node (R354). -/
inductive HostReq where
  | read (n : Nat)
  | write (data : List Byte)
  | add (v : Word)
  | swap (v : Word)
  | cas (old new : Word)
  /-- The atomics of 4 bytes that the fabric carries besides (R245). -/
  | add4 (v : BitVec 32)
  | swap4 (v : BitVec 32)
  | cas4 (old new : BitVec 32)
  /-- The bitwise ones, of 8 bytes. -/
  | and (v : Word)
  | or (v : Word)
  | xor (v : Word)
  /-- A read of the grain that the address lies in, of a grain size (R185), of which the host keeps a clean copy (R354). -/
  | cached (grain : Nat)
  deriving DecidableEq, Repr

/-- Where an arriving message comes from: the device's own networks, or a peer node over the fabric (R291, R295). -/
inductive ArrivalSrc where
  | transit (n : Nat)
  | fabric (node : BitVec 10) (core : Nat) (rec : List Word)
  deriving DecidableEq, Repr

/-- Where the front end takes a launch from: a core's front-end port or a launch queue (R280, R356). -/
inductive LaunchSrc where
  | port (g : CoreId)
  | queue (d : Dom) (q : Fin 4)
  deriving DecidableEq, Repr

/-- What befalls a pod barrier, as the devices of the pod tell each other (R299, R300). -/
inductive PodNews where
  | arrival
  /-- A phase has passed; the barrier's phase since. -/
  | passed (ph : BitVec 32)
  /-- It has been given to a domain, with an expected count. -/
  | alloc (d : Dom) (e : Nat)
  | free
  deriving DecidableEq, Repr

/-- A soft error and its place (R374): one corrected in a core's SRAMs, an uncorrectable one in the L1 data of an address, one that tag parity
finds in the n-th L1 entry; one corrected in a slice, an uncorrectable one of memory or the L2, and a parity error in filter tags. -/
inductive SoftErr where
  | coreCorrected (g : CoreId)
  | coreUncorrectable (g : CoreId) (pa : Nat)
  | coreTagParity (g : CoreId) (n : Nat)
  | dieCorrected (d : DieId) (slice : Fin 16)
  | uncorrectable (pa : Nat)
  | filterParity (d : DieId) (set : Nat)
  deriving DecidableEq, Repr

/-- What a warm start finds (R368). -/
structure WarmCtx where
  paramsOk : Bool
  linksUp : Bool
  eccRetained : Bool
  failedStep : Option (Fin 9)
  deriving DecidableEq, Repr

/-- Why the firmware flushes (R361). -/
inductive FlushWhy where
  | reset | halt | gate (d : DieId)
  deriving DecidableEq, Repr

/-- One step of the device: an instruction, a tile command or a device event, one constructor for each row of
the opcode table (spec/opcode_table.json). -/
inductive Instr where
  /-- NOP: R128 Does nothing; the only NOP word is all zeros. -/
  | nop
  /-- J: R128 Jumps unconditionally to PC + 8·DISP32. -/
  | j (f : FmtB)
  /-- JL: R128 Jumps to a PC-relative target and writes PC + 8 to the link register. -/
  | jl (f : FmtB)
  /-- JR: R128 Jumps to a register value plus a word offset; a misaligned target raises ALIGN. -/
  | jr (f : FmtB)
  /-- JLR: R128 Jumps as JR and writes PC + 8 to the link register after computing the target. -/
  | jlr (f : FmtB)
  /-- BEQ: R128 Branches when the two 64-bit operands are equal. -/
  | beq (f : FmtB)
  /-- BNE: R128 Branches when the two operands differ. -/
  | bne (f : FmtB)
  /-- BLT: R128 Branches when a is less than b as signed values. -/
  | blt (f : FmtB)
  /-- BGE: R128 Branches when a is at least b as signed values. -/
  | bge (f : FmtB)
  /-- BLTN: R128 Branches when a is less than b as unsigned values. -/
  | bltn (f : FmtB)
  /-- BGEN: R128 Branches when a is at least b as unsigned values. -/
  | bgen (f : FmtB)
  /-- BP: R128 Branches when the effective predicate mask is nonzero. -/
  | bp (f : FmtB)
  /-- BNP: R128 Branches when the effective predicate mask is zero. -/
  | bnp (f : FmtB)
  /-- BVANY: R128 Branches when some predicated lane of the vector is nonzero. -/
  | bvany (f : FmtB)
  /-- BVALL: R128 Branches when every predicated lane of the vector is nonzero. -/
  | bvall (f : FmtB)
  /-- LOOP: R128 Decrements the count register and branches while the result is nonzero. -/
  | loop (f : FmtB)
  /-- ADD: R129 Adds two integers of the type, wrapping or saturating. -/
  | add (f : FmtR)
  /-- SUB: R129 Subtracts two integers of the type, wrapping or saturating. -/
  | sub (f : FmtR)
  /-- MUL: R129 Multiplies two integers of the type, wrapping or saturating. -/
  | mul (f : FmtR)
  /-- MULH: R129 Writes the signed high half of the product. -/
  | mulh (f : FmtR)
  /-- MULHN: R129 Writes the unsigned high half of the product. -/
  | mulhn (f : FmtR)
  /-- DIV: R129 Divides signed integers, truncating, with fixed results for zero divisors and overflow. -/
  | div (f : FmtR)
  /-- DIVN: R129 Divides unsigned integers, giving all ones for a zero divisor. -/
  | divn (f : FmtR)
  /-- REM: R129 Writes the signed remainder with the sign of the dividend. -/
  | rem (f : FmtR)
  /-- REMN: R129 Writes the unsigned remainder. -/
  | remn (f : FmtR)
  /-- AND: R129 Writes the bitwise AND of the operands. -/
  | andR (f : FmtR)
  /-- OR: R129 Writes the bitwise OR of the operands. -/
  | orR (f : FmtR)
  /-- XOR: R129 Writes the bitwise XOR of the operands. -/
  | xorR (f : FmtR)
  /-- SHL: R129 Shifts left by the count modulo the width. -/
  | shl (f : FmtR)
  /-- SHR: R129 Shifts right logically by the count modulo the width. -/
  | shr (f : FmtR)
  /-- SRA: R129 Shifts right arithmetically by the count modulo the width. -/
  | sra (f : FmtR)
  /-- SLT: R129 Writes 1 if a is less than b as signed values, else 0. -/
  | slt (f : FmtR)
  /-- ADDI: R130 Adds a sign-extended 32-bit immediate modulo 2^64. -/
  | addi (f : FmtI)
  /-- ANDI: R130 ANDs with a sign-extended immediate. -/
  | andi (f : FmtI)
  /-- ORI: R130 ORs with a sign-extended immediate. -/
  | ori (f : FmtI)
  /-- XORI: R130 XORs with a sign-extended immediate. -/
  | xori (f : FmtI)
  /-- SHLI: R130 Shifts left by an immediate count from 0 to 63. -/
  | shli (f : FmtI)
  /-- SHRI: R130 Shifts right logically by an immediate count. -/
  | shri (f : FmtI)
  /-- SRAI: R130 Shifts right arithmetically by an immediate count. -/
  | srai (f : FmtI)
  /-- SLTI: R130 Writes 1 if a is less than the signed immediate. -/
  | slti (f : FmtI)
  /-- SLTN: R129 Writes 1 if a is less than b as unsigned values. -/
  | sltn (f : FmtR)
  /-- LI: R130 Writes the sign-extended 32-bit immediate. -/
  | li (f : FmtI)
  /-- LIH: R130 Writes the immediate into bits 63:32 and keeps bits 31:0. -/
  | lih (f : FmtI)
  /-- ADPC: R130 Writes PC plus the signed immediate modulo 2^48. -/
  | adpc (f : FmtI)
  /-- MIN: R129 Writes the smaller operand as signed values. -/
  | min (f : FmtR)
  /-- MAX: R129 Writes the larger operand as signed values. -/
  | max (f : FmtR)
  /-- MINN: R129 Writes the smaller operand as unsigned values. -/
  | minn (f : FmtR)
  /-- MAXN: R129 Writes the larger operand as unsigned values. -/
  | maxn (f : FmtR)
  /-- CLZ: R131 Counts leading zero bits. -/
  | clz (f : FmtR)
  /-- CTZ: R131 Counts trailing zero bits. -/
  | ctz (f : FmtR)
  /-- POPC: R131 Counts set bits. -/
  | popc (f : FmtR)
  /-- BREV: R131 Reverses the bit order of the w-bit pattern. -/
  | brev (f : FmtR)
  /-- BSWAP: R131 Reverses the byte order of the w-bit pattern. -/
  | bswap (f : FmtR)
  /-- EXTR: R131 Extracts a bit field and extends it by the type's signedness. -/
  | extr (f : FmtR)
  /-- INS: R131 Inserts the low bits of a into a field of the destination. -/
  | ins (f : FmtR)
  /-- ROL: R131 Rotates left by the count modulo the width. -/
  | rol (f : FmtR)
  /-- ROR: R131 Rotates right by the count modulo the width. -/
  | ror (f : FmtR)
  /-- CSEL: R131 Selects a or b by whether the third operand is nonzero. -/
  | csel (f : FmtR)
  /-- MOVP: R132 Copies a predicate register, zero-extended, into an x register. -/
  | movp (f : FmtR)
  /-- PMOV: R132 Writes a predicate from the bits of a scalar under the mask. -/
  | pmov (f : FmtR)
  /-- PAND: R132 Writes the masked AND of two predicates. -/
  | pand (f : FmtR)
  /-- POR: R132 Writes the masked OR of two predicates. -/
  | por (f : FmtR)
  /-- PXOR: R132 Writes the masked XOR of two predicates. -/
  | pxor (f : FmtR)
  /-- PNOT: R132 Writes the masked complement of a predicate. -/
  | pnot (f : FmtR)
  /-- FADD: R133 Adds two floats with one rounding. -/
  | fadd (f : FmtR)
  /-- FSUB: R133 Subtracts two floats with one rounding. -/
  | fsub (f : FmtR)
  /-- FMUL: R133 Multiplies two floats with one rounding. -/
  | fmul (f : FmtR)
  /-- FFMA: R133 Computes a·b + c with one rounding. -/
  | ffma (f : FmtR)
  /-- FDIV: R133 Divides two floats, correctly rounded. -/
  | fdiv (f : FmtR)
  /-- FSQRT: R133 Takes the correctly rounded square root. -/
  | fsqrt (f : FmtR)
  /-- FMIN: R134 Writes the IEEE minimumNumber of two floats. -/
  | fmin (f : FmtR)
  /-- FMAX: R134 Writes the IEEE maximumNumber of two floats. -/
  | fmax (f : FmtR)
  /-- FCMP: R134 Writes 1 if the float condition holds, else 0. -/
  | fcmp (f : FmtR)
  /-- FCLASS: R134 Writes a one-hot class mask of a float. -/
  | fclass (f : FmtR)
  /-- FCVTI: R134 Converts a float to an integer under the mode. -/
  | fcvti (f : FmtR)
  /-- FCVTF: R134 Converts an integer to a float under the mode. -/
  | fcvtf (f : FmtR)
  /-- FCVTW: R134 Converts between float types. -/
  | fcvtw (f : FmtR)
  /-- FSGNJ: R134 Writes a with the sign of b. -/
  | fsgnj (f : FmtR)
  /-- FSGNJN: R134 Writes a with the inverse of b's sign. -/
  | fsgnjn (f : FmtR)
  /-- FSGNJX: R134 Writes a with its sign XOR b's sign. -/
  | fsgnjx (f : FmtR)
  /-- FRINT: R134 Rounds a float to an integral value under the mode. -/
  | frint (f : FmtR)
  /-- FSCAL: R133 Computes a·2^n with one rounding. -/
  | fscal (f : FmtR)
  /-- VADD: R146 Adds integer elements modulo 2^w. -/
  | vadd (f : FmtR)
  /-- VSUB: R146 Subtracts integer elements modulo 2^w. -/
  | vsub (f : FmtR)
  /-- VMUL: R146 Multiplies integer elements, keeping the low bits. -/
  | vmul (f : FmtR)
  /-- VMULH: R146 Writes the high half of each element product. -/
  | vmulh (f : FmtR)
  /-- VMAD: R146 Computes a·b + c per element modulo 2^w. -/
  | vmad (f : FmtR)
  /-- VMIN: R146 Writes the smaller element in the type's signedness. -/
  | vmin (f : FmtR)
  /-- VMAX: R146 Writes the larger element in the type's signedness. -/
  | vmax (f : FmtR)
  /-- VABS: R146 Writes the absolute value of signed elements. -/
  | vabs (f : FmtR)
  /-- VAND: R146 ANDs elements. -/
  | vand (f : FmtR)
  /-- VOR: R146 ORs elements. -/
  | vor (f : FmtR)
  /-- VXOR: R146 XORs elements. -/
  | vxor (f : FmtR)
  /-- VSHL: R146 Shifts elements left by counts modulo w. -/
  | vshl (f : FmtR)
  /-- VSHR: R146 Shifts elements right logically. -/
  | vshr (f : FmtR)
  /-- VSRA: R146 Shifts elements right arithmetically. -/
  | vsra (f : FmtR)
  /-- VADDS: R146 Adds elements with saturation. -/
  | vadds (f : FmtR)
  /-- VSUBS: R146 Subtracts elements with saturation. -/
  | vsubs (f : FmtR)
  /-- VFADD: R147 Adds float elements with one rounding. -/
  | vfadd (f : FmtR)
  /-- VFSUB: R147 Subtracts float elements. -/
  | vfsub (f : FmtR)
  /-- VFMUL: R147 Multiplies float elements. -/
  | vfmul (f : FmtR)
  /-- VFFMA: R147 Computes a·b + c per element with one rounding. -/
  | vffma (f : FmtR)
  /-- VFDIV: R147 Divides float elements, correctly rounded. -/
  | vfdiv (f : FmtR)
  /-- VFSQRT: R147 Takes the square root of float elements. -/
  | vfsqrt (f : FmtR)
  /-- VFRCP: R148 Takes the correctly rounded reciprocal of each element. -/
  | vfrcp (f : FmtR)
  /-- VFRSQ: R148 Takes the correctly rounded reciprocal square root. -/
  | vfrsq (f : FmtR)
  /-- VFEXP2: R148 Computes 2^a per element, correctly rounded. -/
  | vfexp2 (f : FmtR)
  /-- VFLOG2: R148 Computes log2 a per element, correctly rounded. -/
  | vflog2 (f : FmtR)
  /-- VFMIN: R147 Writes minimumNumber per element. -/
  | vfmin (f : FmtR)
  /-- VFMAX: R147 Writes maximumNumber per element. -/
  | vfmax (f : FmtR)
  /-- VFABS: R147 Clears the sign bit of each element. -/
  | vfabs (f : FmtR)
  /-- VFNEG: R147 Inverts the sign bit of each element. -/
  | vfneg (f : FmtR)
  /-- VFRINT: R147 Rounds each element to an integral value. -/
  | vfrint (f : FmtR)
  /-- VFCLAMP: R147 Clamps each element between b and c. -/
  | vfclamp (f : FmtR)
  /-- VCMP: R149 Compares integer elements into a predicate. -/
  | vcmp (f : FmtR)
  /-- VFCMP: R149 Compares float elements into a predicate. -/
  | vfcmp (f : FmtR)
  /-- VSEL: R150 Selects elements of a or b by a named predicate. -/
  | vsel (f : FmtR)
  /-- VCVT: R152 Converts elements between standard types, packing or widening. -/
  | vcvt (f : FmtR)
  /-- VCVTQ: R154 Encodes elements into a TID's narrow format and updates its statistics. -/
  | vcvtq (f : FmtR)
  /-- VCVTX: R155 Decodes packed narrow codes of a TID into a standard type. -/
  | vcvtx (f : FmtR)
  /-- VPACK: R153 Packs byte elements into narrow code layout. -/
  | vpack (f : FmtR)
  /-- VUNPK: R153 Unpacks narrow codes into byte elements. -/
  | vunpk (f : FmtR)
  /-- VMOV: R150 Copies elements as bit patterns. -/
  | vmov (f : FmtR)
  /-- VIOTA: R150 Writes a + j·b into element j. -/
  | viota (f : FmtR)
  /-- VCLZ: R150 Counts leading zeros per element. -/
  | vclz (f : FmtR)
  /-- VPOPC: R150 Counts set bits per element. -/
  | vpopc (f : FmtR)
  /-- VFCLASS: R150 Writes the float class mask per element. -/
  | vfclass (f : FmtR)
  /-- VSETP: R151 Builds a predicate covering the first cnt elements. -/
  | vsetp (f : FmtR)
  /-- VGETP: R150 Expands a predicate into all-ones or zero elements. -/
  | vgetp (f : FmtR)
  /-- VSCAL: R150 Computes a·2^n per element with one rounding. -/
  | vscal (f : FmtR)
  /-- VPERM: R157 Permutes elements by an index vector. -/
  | vperm (f : FmtR)
  /-- VROTL: R157 Rotates elements across the register. -/
  | vrotl (f : FmtR)
  /-- VSLIDEUP: R157 Slides elements up, filling from c. -/
  | vslideup (f : FmtR)
  /-- VSLIDEDN: R157 Slides elements down, filling from c. -/
  | vslidedn (f : FmtR)
  /-- VREDSUM: R158 Reduces integer elements to their sum in a scalar. -/
  | vredsum (f : FmtR)
  /-- VFREDSUM: R158 Reduces float elements by the fixed tree of sums. -/
  | vfredsum (f : FmtR)
  /-- VREDMAX: R158 Reduces integer elements to their maximum. -/
  | vredmax (f : FmtR)
  /-- VREDMIN: R158 Reduces integer elements to their minimum. -/
  | vredmin (f : FmtR)
  /-- VFREDMAX: R158 Reduces float elements by maximumNumber. -/
  | vfredmax (f : FmtR)
  /-- VFREDMIN: R158 Reduces float elements by minimumNumber. -/
  | vfredmin (f : FmtR)
  /-- VSCAN: R159 Forms the inclusive integer prefix sum. -/
  | vscan (f : FmtR)
  /-- VFSCAN: R159 Forms the inclusive float prefix sum in Hillis-Steele order. -/
  | vfscan (f : FmtR)
  /-- VEXTR: R160 Moves one element into a scalar register. -/
  | vextr (f : FmtR)
  /-- VINSR: R160 Inserts a scalar into one element. -/
  | vinsr (f : FmtR)
  /-- VCOMPR: R161 Compresses selected elements to the bottom and zeroes the rest. -/
  | vcompr (f : FmtR)
  /-- VEXPND: R161 Expands consecutive elements into selected positions. -/
  | vexpnd (f : FmtR)
  /-- LD: R233 Loads one element into an x register, extended as EXT states. -/
  | ld (f : FmtM)
  /-- ST: R233 Stores the low bytes of a source into one element. -/
  | st (f : FmtM)
  /-- LDV: R234 Loads n consecutive elements into a vector register. -/
  | ldv (f : FmtM)
  /-- STV: R234 Stores n consecutive elements from a vector register. -/
  | stv (f : FmtM)
  /-- LDVS: R234 Loads elements at a register stride. -/
  | ldvs (f : FmtM)
  /-- STVS: R234 Stores elements at a register stride. -/
  | stvs (f : FmtM)
  /-- LDVG: R234 Gathers elements at base plus vector offsets. -/
  | ldvg (f : FmtM)
  /-- STVG: R234 Scatters elements at base plus vector offsets. -/
  | stvg (f : FmtM)
  /-- LDX: R240 Loads data and tile existence together into a vector and a predicate. -/
  | ldx (f : FmtM)
  /-- XTEST: R241 Reads the existence of up to 64 tiles into a bit mask. -/
  | xtest (f : FmtM)
  /-- ERASE: R242 Erases the tiles of an extent in ascending order. -/
  | erase (f : FmtM)
  /-- PREF: R237 Asks the L1 to fill the holes of an extent. -/
  | pref (f : FmtM)
  /-- FLUSH: R238 Writes back owned-dirty bytes of the extent, which become owned-clean. -/
  | flush (f : FmtM)
  /-- INVAL: R239 Drops the domain's clean L1 bytes of the extent. -/
  | inval (f : FmtM)
  /-- LDK: R235 Loads up to 8 doublewords into consecutive constant registers. -/
  | ldk (f : FmtM)
  /-- ZERO: R236 Writes zero to every byte of the extent. -/
  | zero (f : FmtM)
  /-- AMOADD: R244 Atomically adds and returns the old value. -/
  | amoadd (f : FmtM)
  /-- AMOAND: R244 Atomically ANDs and returns the old value. -/
  | amoand (f : FmtM)
  /-- AMOOR: R244 Atomically ORs and returns the old value. -/
  | amoor (f : FmtM)
  /-- AMOXOR: R244 Atomically XORs and returns the old value. -/
  | amoxor (f : FmtM)
  /-- AMOMIN: R244 Atomically keeps the signed minimum. -/
  | amomin (f : FmtM)
  /-- AMOMAX: R244 Atomically keeps the signed maximum. -/
  | amomax (f : FmtM)
  /-- AMOMINN: R244 Atomically keeps the unsigned minimum. -/
  | amominn (f : FmtM)
  /-- AMOMAXN: R244 Atomically keeps the unsigned maximum. -/
  | amomaxn (f : FmtM)
  /-- AMOSWP: R244 Atomically swaps in a new value. -/
  | amoswp (f : FmtM)
  /-- AMOCAS: R244 Atomically compares with xD and writes s on equality. -/
  | amocas (f : FmtM)
  /-- AMOFADD: R244 Atomically adds a float, rounding RNE. -/
  | amofadd (f : FmtM)
  /-- LR: R246 Loads at the coherence point and places the slot's reservation. -/
  | lr (f : FmtM)
  /-- SC: R246 Stores only if the slot holds a matching reservation, and writes the status. -/
  | sc (f : FmtM)
  /-- VAMOADD: R249 Atomically adds each governed element into its gather address. -/
  | vamoadd (f : FmtM)
  /-- VAMOFADD: R249 Atomically adds float elements into their gather addresses. -/
  | vamofadd (f : FmtM)
  /-- FENCE: R250 Orders predecessor-class accesses before successor-class accesses at a scope. -/
  | fence (f : FmtF)
  /-- SPAWN: R135 Creates a task record and pushes it at the bottom of the domain's deque. -/
  | spawn (f : FmtS)
  /-- SEND: R289 Places an uncommitted request-network message to a virtual core of the domain. -/
  | send (f : FmtS)
  /-- SENDR: R289 Places an uncommitted reply-network message to a virtual core of the domain. -/
  | sendr (f : FmtS)
  /-- SENDR_GATE: R298 Answers a gate call once through the slot's reply grant. -/
  | sendrGate (f : FmtS)
  /-- GATE: R297 Checks a gate entry of another domain and places a cross-domain call message. -/
  | gate (f : FmtS)
  /-- END: R136 Commits messages, waits for loads and sends, and frees the slot. -/
  | endTask
  /-- YIELD: R137 Parks the task with an immediate wake condition. -/
  | yield (f : FmtS)
  /-- YIELD_CYCLES: R137 Parks the task until n cycles have passed. -/
  | yieldCycles (f : FmtS)
  /-- YIELD_WATCH: R137 Parks the task on a watched word with an expected value. -/
  | yieldWatch (f : FmtS)
  /-- YIELD_PHASE: R137 Parks the task until a barrier phase passes. -/
  | yieldPhase (f : FmtS)
  /-- WAITC: R138 Holds the slot until each counter is at most its field. -/
  | waitc (f : FmtS)
  /-- BARA: R300 Commits messages and arrives at a barrier, returning the phase. -/
  | bara (f : FmtS)
  /-- BARA_ALLOC: R300 Allocates the lowest free barrier of a scope to the domain. -/
  | baraAlloc (f : FmtS)
  /-- BARA_FREE: R300 Returns an owned barrier to the free set. -/
  | baraFree (f : FmtS)
  /-- BARW: R302 Arrives at a barrier and waits until its phase passes. -/
  | barw (f : FmtS)
  /-- BART: R303 Tests whether a barrier phase has passed. -/
  | bart (f : FmtS)
  /-- ENQ: R254 Checks a tile command and enqueues it, stalling while full, returning its sequence number. -/
  | enq (f : FmtS)
  /-- ENQT: R254 Checks and enqueues a tile command or returns 1 if the queue is full. -/
  | enqt (f : FmtS)
  /-- QSEQ: R256 Returns the retirement count of a queue and acquires those completions. -/
  | qseq (f : FmtS)
  /-- QSEQ_ERR: R256 Returns the count of retired commands whose status was not OK. -/
  | qseqErr (f : FmtS)
  /-- IDENT: R139 Returns the identity value chosen by the selector. -/
  | ident (f : FmtS)
  /-- CLOCK: R140 Returns CYCLE or TIME sampled at issue. -/
  | clock (f : FmtS)
  /-- RNG: R141 Returns a stateless hash of a counter and a key. -/
  | rng (f : FmtS)
  /-- TRAP: R332 Raises SWTRAP with an address and a code. -/
  | trap (f : FmtS)
  /-- CSRR: R142 Reads a CSR into an x register. -/
  | csrr (f : FmtS)
  /-- CSRW: R142 Writes a CSR and returns its old value. -/
  | csrw (f : FmtS)
  /-- CSRS: R142 Sets CSR bits and returns the old value. -/
  | csrs (f : FmtS)
  /-- CSRC: R142 Clears CSR bits and returns the old value. -/
  | csrc (f : FmtS)
  /-- TLBINV: R337 Drops translations of a range within a scope and waits for accesses through them. -/
  | tlbinv (f : FmtS)
  /-- FENCEI: R143 Waits for the slot's stores and discards fetched instruction words. -/
  | fencei (f : FmtS)
  /-- RESUME_TASK: R334 Makes a suspended frame's task startable, optionally on another core. -/
  | resumeTask (f : FmtS)
  /-- RESUME_CMD: R334 Continues a stopped tile command named by its handle. -/
  | resumeCmd (f : FmtS)
  /-- ABORT_TASK: R334 Aborts the task of a suspended frame and frees the frame. -/
  | abortTask (f : FmtS)
  /-- ABORT_CMD: R334 Completes a stopped tile command with status ABORTED. -/
  | abortCmd (f : FmtS)
  /-- POOLADD: R243 Adds tiles to a depot of the domain and returns the number added. -/
  | pooladd (f : FmtS)
  /-- TIDW: R263 Writes a 64-byte TID entry and invalidates the core's cached copy. -/
  | tidw (f : FmtS)
  /-- TIDR: R264 Reads a TID entry at its home into eight registers. -/
  | tidr (f : FmtS)
  /-- TIDAMX: R265 Reads and resets a TID's AMAX and NANCNT as one atomic event. -/
  | tidamx (f : FmtS)
  /-- SCRUB: R341 Releases every package-wide resource of an evicted domain. -/
  | scrub (f : FmtS)
  /-- DOMSET: R338 Reads or writes a partition entry of a core, with state changes, saves and restores. -/
  | domset (f : FmtS)
  /-- BKPT: R332 Raises a breakpoint that suspends the task. -/
  | bkpt (f : FmtS)
  /-- COPY: R267 Copies LEN bytes from source to destination. -/
  | copy (c : CopyCmd)
  /-- COPY2: R268 Copies rows with source and destination strides. -/
  | copy2 (c : Copy2Cmd)
  /-- FILL: R269 Fills a destination with an 8-byte pattern. -/
  | fill (c : FillCmd)
  /-- ACCUM: R270 Adds contribution elements into destination elements in arrival order. -/
  | accum (c : AccumCmd)
  /-- ACCUM_ORDERED: R271 Contributes a slice to per-granule rounds applied in ascending slice order. -/
  | accumOrdered (c : AccumCmd)
  /-- XCOPY: R272 Copies a sparse-existence region tile by tile, skipping or mirroring absence. -/
  | xcopy (mirror : Bool) (c : CopyCmd)
  /-- MMA: R274 Multiplies two tensor blocks into an accumulator, skipping absent K-blocks. -/
  | mma (c : MmaCmd)
  /-- MLDA: R277 Loads a 64x64 tensor block into an accumulator. -/
  | mlda (c : MldaCmd)
  /-- MSTA: R277 Converts an accumulator into a tensor block and updates statistics. -/
  | msta (c : MstaCmd)
  /-- MZERO: R277 Sets the accumulators named by a mask to +0. -/
  | mzero (c : MzeroCmd)
  /-- MSAVE: R277 Stores the raw bits of an accumulator. -/
  | msave (c : MsaveCmd)
  /-- MRSTR: R277 Loads raw bits into an accumulator. -/
  | mrstr (c : MsaveCmd)
  /-- GATHER: R279 Gathers indexed table rows into dense rows. -/
  | gather (c : GatherCmd)
  /-- SCATTER: R279 Stores dense rows into indexed table rows. -/
  | scatter (c : GatherCmd)
  /-- SCATTER_ADD: R279 Adds dense rows into indexed table rows atomically per element. -/
  | scatterAdd (c : GatherCmd)
  /-- GSUM: R279 Sums runs of indexed table rows into segment rows. -/
  | gsum (c : GatherCmd)
  /-- DISPATCH: R280 Submits a launch descriptor to the package front end. -/
  | dispatch (c : DispatchCmd)
  /-- SIGNAL: R281 Completes once every earlier command of its queue has completed. -/
  | signal (h : Hdr)
  /-- COMMAND_COMPLETION: R258 A command completes with a status, releases, arrives at its barrier and frees its queue entry and ranges. -/
  | commandCompletion (g : CoreId) (q : QueueId) (pos : Nat)
  /-- ACCUM_CONTRIBUTION: R271 A granule's home takes an ordered contribution, applies, stages or refuses it. -/
  | accumContribution (n : Nat)
  /-- ACCUM_STAGING_RETRY: R271 The engine retries a refused contribution after 256 cycles. -/
  | accumStagingRetry (n : Nat)
  /-- L1_FILL_RESPONSE: R170 Fill data arrives and becomes a clean entry, coalesced, delivering waiting accesses. -/
  | l1FillResponse (n : Nat)
  /-- HOME_FILL_REQUEST: R177 A home slice serves a fill from owner, L2 or HBM. -/
  | homeFillRequest (n : Nat)
  /-- HBM_READ: R177 HBM data arrives at a slice and is allocated in L2. -/
  | hbmRead (n : Nat)
  /-- REGISTRATION: R176 A home records a new owner, recalling bytes from any old owner first. -/
  | registration (n : Nat)
  /-- REGISTRATION_ACK: R171 A registration's acknowledgement arrives and the store is performed. -/
  | registrationAck (n : Nat)
  /-- RECALL: R176 An old owner writes back recalled dirty bytes, which become clean. -/
  | recall (n : Nat)
  /-- WRITE_BACK: R174 A home performs written-back bytes, with any deregistration. -/
  | writeBack (n : Nat)
  /-- DEREGISTRATION: R174 A home drops the ownership record of evicted owned-clean bytes. -/
  | deregistration (n : Nat)
  /-- FORWARDED_READ: R177 An owning core supplies current bytes for a fill, keeping ownership. -/
  | forwardedRead (n : Nat)
  /-- RDS: R308 The true home serves a visitor's shared read request. -/
  | rds (n : Nat)
  /-- RDOWN: R308 The true home serves a visitor's ownership request after invalidations. -/
  | rdown (n : Nat)
  /-- RDNA: R308 The true home serves a non-allocating coherence-point read. -/
  | rdna (n : Nat)
  /-- SNOOP_FORWARD: R308 An owning visitor supplies a grain, recalling its L1s, and changes state. -/
  | snoopForward (n : Nat)
  /-- INVALIDATION: R308 A holding visitor drops a grain after recalling its L1s and acknowledges. -/
  | invalidation (n : Nat)
  /-- VISITOR_EVICTION: R185 A visitor evicts a grain, writing back M or O bytes or sending a notice. -/
  | visitorEviction (d : DieId) (n : Nat)
  /-- PAGE_MIGRATION: R225 The home of a page's bytes moves to a new frame. -/
  | pageMigration (d : Dom) (va : VA) (newPa : Nat)
  /-- PULL_ATTEMPT_TIMEOUT: R365 A pull attempt fails after 20 µs and retries on another route. -/
  | pullAttemptTimeout (n : Nat)
  /-- PULL_COMPLETE: R365 Pulled data is performed, PULL clears and waiting accesses walk again. -/
  | pullComplete (n : Nat)
  /-- PLACEMENT_SLOT: R383 Every 8 cycles the dispatcher tries waiting domains round-robin. -/
  | placementSlot (d : DieId)
  /-- TEAM_RECORD_DELIVERY: R51 A team record reaches its reserved slot and starts. -/
  | teamRecordDelivery (d : DieId) (n : Nat)
  /-- SLOT_START: R59 A freed slot chooses a domain and starts its first available item. -/
  | slotStart (g : CoreId) (i : SlotId)
  /-- STEAL_REQUEST: R61 A victim answers a steal request from the top of its deque. -/
  | stealRequest (n : Nat)
  /-- STEAL_ANSWER: R60 A thief receives a record or empty and continues its round. -/
  | stealAnswer (n : Nat)
  /-- STEAL_ROUND_WAIT: R60 After 512 cycles an idle core begins its next steal round. -/
  | stealRoundWait (g : CoreId)
  /-- SLICE_ROUND_START: R62 A new slice round opens the slices of RUN entries. -/
  | sliceRoundStart (g : CoreId)
  /-- SLICE_CLOSE: R63 A domain's slice closes and its debt is reduced. -/
  | sliceClose (g : CoreId) (e : PartId)
  /-- SLICE_DEFERRED_OPEN: R349 A deferred slice opens once its overrun ends, charging the debt. -/
  | sliceDeferredOpen (g : CoreId) (e : PartId)
  /-- BUDGET_EXPIRY: R331 A task past its budget is aborted with BUDGET. -/
  | budgetExpiry (g : CoreId) (i : SlotId)
  /-- EGRESS_WINDOW: R348 A new 1,024-cycle egress window renews each domain's quota. -/
  | egressWindow (g : CoreId)
  /-- WAKE_CYCLES: R69 A parked continuation's cycle count expires and it becomes startable. -/
  | wakeCycles (n : Nat)
  /-- WATCH_REREAD: R69 Every 1,024 cycles the home core re-reads an overflow watch. -/
  | watchReread (n : Nat)
  /-- NETWORK_ACCEPTANCE: R292 The network accepts a committed message once the target has room. -/
  | networkAcceptance (g : CoreId) (n : Nat)
  /-- MESSAGE_ARRIVAL: R295 An arriving message is placed in the inbox share or the waystation. -/
  | messageArrival (a : ArrivalSrc)
  /-- WAYSTATION_RELOAD: R295 Waystation entries move into the inbox in rank order while the share has room. -/
  | waystationReload (g : CoreId) (d : Dom) (vn : Bool)
  /-- WAYSTATION_RETRY: R296 A failed waystation write or read is retried every 1,024 cycles. -/
  | waystationRetry (g : CoreId) (d : Dom) (vn : Bool)
  /-- FABRIC_MESSAGE_REFUSAL: R291 A refused fabric message is removed from the sender's buffer with a KIND 6 notice. -/
  | fabricMessageRefusal (g : CoreId) (n : Nat)
  /-- SUPERVISOR_RECORD_RELEASE: R329 A held supervisor record or notice is sent once its target entry is valid. -/
  | supervisorRecordRelease (g : CoreId) (n : Nat)
  /-- DESCRIPTOR_PACKET: R356 A 512-byte doorbell write submits a launch descriptor to a queue. -/
  | descriptorPacket (node : BitVec 10) (off : Nat) (ws : List Word)
  /-- REFERENCE_PACKET: R356 An 8-byte doorbell write submits a descriptor by reference. -/
  | referencePacket (node : BitVec 10) (off : Nat) (w : Word)
  /-- LAUNCH_ACCEPTANCE: R29 The front end checks a descriptor, assigns an id, splits teams and forwards them. -/
  | launchAcceptance (a : LaunchSrc)
  /-- TEAM_RETIREMENT: R344 A team's retirement is reported once its accesses and commands are done. -/
  | teamRetirement (l : Nat) (team : Nat)
  /-- REMOTE_ACKNOWLEDGEMENT: R344 A peer or host store is acknowledged, lowering counts. -/
  | remoteAcknowledgement (n : Nat)
  /-- LAUNCH_COMPLETION: R32 The front end writes the bitmap, completion record and notification. -/
  | launchCompletion (l : Nat)
  /-- EDGE_FAILURE: R345 A die-to-die edge fails and traffic reroutes. -/
  | edgeFailure (e : Fin 7)
  /-- DEAD_LETTER: R327 A record aborted four times is written to the dead-letter queue. -/
  | deadLetter (d : Dom)
  /-- FRAME_FREED_PROCEED: R321 A held park or suspension proceeds when a frame frees. -/
  | frameFreedProceed (g : CoreId) (i : SlotId)
  /-- FRAME_POOL_RETRY: R381 A failed frame-pool access is retried every 1,024 cycles. -/
  | framePoolRetry (g : CoreId) (i : SlotId)
  /-- FAULT_RECORD_WRITE: R325 A fault record or notice is written to the fault queue and TAIL released. -/
  | faultRecordWrite (d : Dom)
  /-- FAULT_QUEUE_RETRY: R326 A record waiting for room is retried on a HEAD write or every 1,024 cycles. -/
  | faultQueueRetry (d : Dom)
  /-- DRAIN: R342 A draining domain's state leaves the core and the entry becomes EMPTY. -/
  | drain (g : CoreId) (e : PartId)
  /-- FRAMEPOOL_WRITE: R320 A write to the frame pool CSRs clears the bitmap and frees every frame. -/
  | framepoolWrite (d : Dom) (size : Bool) (w : Word)
  /-- L1CTL_WBALL: R188 Writing WBALL evicts every L1 entry of every domain. -/
  | l1ctlWball (g : CoreId)
  /-- SFCTL1_FORCE: R187 Writing FORCE back-invalidates every remote holding homed on the die. -/
  | sfctl1Force (d : DieId)
  /-- EVSEL_WRITE: R369 Selecting an event clears its counter and sub-counts. -/
  | evselWrite (g : CoreId) (n : Fin 8) (w : Word)
  /-- EVC_WRITE: R370 A write at H sets a counter's total. -/
  | evcWrite (g : CoreId) (n : Fin 8) (w : Word)
  /-- HOST_ACCESS: R354 A host or peer access to device memory is performed and answered. -/
  | hostAccess (node : BitVec 10) (off : Nat) (r : HostReq)
  /-- HOST_SNOOP: R360 A host snoop of a host grain is answered from the device's state. -/
  | hostSnoop (pa : Nat) (own : Bool)
  /-- DEVICE_FLUSH: R361 Firmware writes back host grains before a reset, halt or die gating. -/
  | deviceFlush (w : FlushWhy)
  /-- COLD_START: R368 The device runs every start-up step. -/
  | coldStart (failed : Option (Fin 9))
  /-- WARM_START: R368 The device starts, skipping steps whose conditions hold. -/
  | warmStart (c : WarmCtx)
  /-- LQCTL_WRITE: R358 The management path enables or privileges a launch queue. -/
  | lqctlWrite (node : BitVec 10) (d : Dom) (q : Fin 4) (w : Word)
  /-- VF_OFFSET_WRITE: R363 A VF's cycle or time offset is set at every core. -/
  | vfOffsetWrite (vf : BitVec 7) (time : Bool) (w : Word)
  /-- NODE_TABLE_WRITE: R353 The management path sets a node's class, apertures and mask. -/
  | nodeTableWrite (n : BitVec 10) (e : NodeEntry)
  /-- MANAGEMENT_REGISTER_WRITE: R352 A write through the fabric to a device register or CSR without its own row. -/
  | managementRegisterWrite (off : Nat) (w : Word)
  /-- POWER_THROTTLE: R376 Measured power above the limit lowers all core clocks by 100 MHz. -/
  | powerThrottle (up : Bool)
  /-- VOLTAGE_REPLAN: R375 Firmware re-plans supply voltage from the path-delay monitors. -/
  | voltageReplan (vdom : Nat) (steps : Int)
  /-- VOLTAGE_STEP: R375 One 2.5 mV voltage step is applied every 10 ms. -/
  | voltageStep (vdom : Nat)
  /-- ATTESTATION_REPORT: R377 The device signs a report of a VF's measurements and configuration. -/
  | attestationReport (vf : BitVec 7) (nonce : List Word)
  /-- DEBUG_UNLOCK: R378 A signed unlock opens debug access until the next cold start. -/
  | debugUnlock (signed : Bool)
  /-- SOFT_ERROR: R374 A soft error is corrected or detected, counted and reported. -/
  | softError (e : SoftErr)
  /-- RESERVATION_TABLE_EVICTION: R247 An LR waiting on a full reservation table evicts an entry once that entry has aged 1,024 cycles, and proceeds. -/
  | reservationTableEviction (n : Nat)
  /-- COHERENCE_POINT_RESPONSE: R232 The answer of a coherence point or target (home slice, sub-bank, tile home, host or MT 11 target) to a load, LR, atomic, SC, statistics update or pass-through store arrives at the core, writing destinations and lowering cnt.ld or cnt.st. -/
  | coherencePointResponse (n : Nat)
  /-- POD_BARRIER_ARRIVAL: R299 An arrival at a pod barrier from another device of the pod, or the notice of a passed phase from device 0, reaches this device over the Tukel fabric. -/
  | podBarrierArrival (b : Fin 8) (x : PodNews)
  /-- FIRMWARE_HALT: R367 The firmware halts the device after its flush, and DEVSTATE.PHASE becomes HALTED. -/
  | firmwareHalt
  /-- DIE_POWER_GATING: R361 The firmware power-gates a die after flushing it, after which host snoops for that die's holdings are answered not present. -/
  | diePowerGating (d : DieId)
  deriving DecidableEq, Repr

end Sys2Proof
end

