-- ==== Sys2Proof/Machine/Entries.lean ====
section
/-! DEFINITION. The codes of the fields (R80, R84, R88, R89) and the entry of each opcode: the operand kinds, types,
MOD, immediate, ordering and length rules that the decode checks of R93 apply, as a decidable check on instructions. -/

namespace Sys2Proof

/-- The die of a core: core number = die * 128 + quad * 4 + core (R7). -/
def CoreId.die (g : CoreId) : DieId := ⟨g.val / 128, by have := g.isLt; omega⟩

/-- The quad of a core within its die. -/
def CoreId.quad (g : CoreId) : Fin 32 := ⟨g.val / 4 % 32, by omega⟩

/-- The number of a core within its quad. -/
def CoreId.inQuad (g : CoreId) : Fin 4 := ⟨g.val % 4, by omega⟩

/-- The core of a die, quad and place in the quad. -/
def CoreId.mk' (d : DieId) (q : Fin 32) (c : Fin 4) : CoreId :=
  ⟨d.val * 128 + q.val * 4 + c.val, by have := d.isLt; have := q.isLt; have := c.isLt; omega⟩

/-- Size of a type in bytes (R74). -/
def Ty.size : Ty → Nat
  | .s8 | .n8 => 1
  | .s16 | .n16 | .f16 | .bf16 => 2
  | .s32 | .n32 | .f32 => 4
  | .s64 | .n64 | .f64 => 8

/-- Width of a type in bits. -/
def Ty.width (t : Ty) : Nat := 8 * t.size

/-- Elements of a type in a vector register (R74). -/
def Ty.elems (t : Ty) : Nat := 128 / t.size

/-- A signed integer type. -/
def Ty.isS : Ty → Bool
  | .s8 | .s16 | .s32 | .s64 => true
  | _ => false

/-- An unsigned integer type. -/
def Ty.isN : Ty → Bool
  | .n8 | .n16 | .n32 | .n64 => true
  | _ => false

/-- An integer type. -/
def Ty.isInt (t : Ty) : Bool := t.isS || t.isN

/-- A floating-point type. -/
def Ty.isFloat (t : Ty) : Bool := !t.isInt

/-- The TYPE code (R88). -/
def Ty.code : Ty → BitVec 4
  | .s8 => 0 | .s16 => 1 | .s32 => 2 | .s64 => 3 | .n8 => 4 | .n16 => 5 | .n32 => 6 | .n64 => 7
  | .f16 => 8 | .bf16 => 9 | .f32 => 10 | .f64 => 11

/-- The type of a TYPE code; 0xC to 0xF are reserved (R88). -/
def Ty.ofCode (c : BitVec 4) : Option Ty :=
  match c.toNat with
  | 0 => some .s8 | 1 => some .s16 | 2 => some .s32 | 3 => some .s64
  | 4 => some .n8 | 5 => some .n16 | 6 => some .n32 | 7 => some .n64
  | 8 => some .f16 | 9 => some .bf16 | 10 => some .f32 | 11 => some .f64
  | _ => none

/-- The code of a rounding mode (R89). -/
def RMode.code : RMode → BitVec 3
  | .rne => 0 | .rtz => 1 | .rdn => 2 | .rup => 3 | .frm => 4

/-- The rounding mode of a code; 101 to 111 are reserved (R89). -/
def RMode.ofCode (c : BitVec 3) : Option RMode :=
  match c.toNat with
  | 0 => some .rne | 1 => some .rtz | 2 => some .rdn | 3 => some .rup | 4 => some .frm
  | _ => none

/-- The code of an ordering (R84). -/
def MOrd.code : MOrd → BitVec 2
  | .plain => 0 | .acq => 1 | .rel => 2 | .acqrel => 3

/-- The ordering of a code (R84). -/
def MOrd.ofCode (c : BitVec 2) : MOrd :=
  match c.toNat with
  | 0 => .plain | 1 => .acq | 2 => .rel | _ => .acqrel

/-- The ordering acquires. -/
def MOrd.isAcq : MOrd → Bool
  | .acq | .acqrel => true
  | _ => false

/-- The ordering releases. -/
def MOrd.isRel : MOrd → Bool
  | .rel | .acqrel => true
  | _ => false

/-- The code of a scope (R84). -/
def Scope.code : Scope → BitVec 3
  | .slot => 0 | .core => 1 | .quad => 2 | .die => 3 | .pkg => 4 | .pod => 5

/-- The scope of a code; 6 and 7 are reserved (R84). -/
def Scope.ofCode (c : BitVec 3) : Option Scope :=
  match c.toNat with
  | 0 => some .slot | 1 => some .core | 2 => some .quad | 3 => some .die | 4 => some .pkg | 5 => some .pod
  | _ => none

/-- Quad scope or wider: the scope takes cache actions (R213). -/
def Scope.wide : Scope → Bool
  | .slot | .core => false
  | _ => true

/-- The byte of a specifier (R80). -/
def Spec.code : Spec → Byte
  | .v n => (0#2 ++ n)
  | .x n => (1#2 ++ (0#1 ++ n))
  | .c n => (2#2 ++ n)
  | .lit n => (3#2 ++ n)

/-- The specifier of a byte; kind 01 with index bit 5 set is illegal (R80). -/
def Spec.ofCode (b : Byte) : Option Spec :=
  match (b.extractLsb' 6 2).toNat with
  | 0 => some (.v (b.extractLsb' 0 6))
  | 1 => if b.extractLsb' 5 1 = 0#1 then some (.x (b.extractLsb' 0 5)) else Option.none
  | 2 => some (.c (b.extractLsb' 0 6))
  | _ => some (.lit (b.extractLsb' 0 6))

/-- The operand kinds an entry accepts in a specifier field (R80, R127, R144). -/
inductive Kind where
  /-- Unused: the field is 0x00. -/
  | none
  /-- An x register. -/
  | x
  /-- x1 to x31 (LOOP). -/
  | xnz
  /-- x0 alone. -/
  | x0
  /-- A p register p1 to p7 as a destination. -/
  | p
  /-- A k register as a destination (LDK). -/
  | kreg
  /-- A v register. -/
  | v
  /-- x or k. -/
  | xk
  /-- x or k, or unused. -/
  | xkOpt
  /-- x, k or a literal. -/
  | xkl
  /-- x, k or a literal, or unused. -/
  | xklOpt
  /-- Any kind of source. -/
  | any
  /-- x8, x16 or x24: a block of payload registers (R93). -/
  | pay
  /-- x4, x8, …, x28: a block of four registers (R93). -/
  | quad4
  deriving DecidableEq, Repr

/-- Does a specifier satisfy a kind? -/
def Kind.ok (k : Kind) (s : Spec) : Bool :=
  match k, s with
  | .none, .v n => n == 0
  | .x, .x _ => true
  | .xnz, .x n => n != 0
  | .x0, .x n => n == 0
  | .p, .c n => 1 ≤ n.toNat && n.toNat ≤ 7
  | .kreg, .c _ => true
  | .v, .v _ => true
  | .xk, .x _ => true
  | .xk, .c _ => true
  | .xkOpt, .x _ => true
  | .xkOpt, .c _ => true
  | .xkOpt, .v n => n == 0
  | .xkl, .x _ => true
  | .xkl, .c _ => true
  | .xkl, .lit _ => true
  | .xklOpt, .x _ => true
  | .xklOpt, .c _ => true
  | .xklOpt, .lit _ => true
  | .xklOpt, .v n => n == 0
  | .any, _ => true
  | .pay, .x n => n == 8 || n == 16 || n == 24
  | .quad4, .x n => n != 0 && n.toNat % 4 == 0
  | _, _ => false

/-- Rules for MOD (R89). -/
inductive ModRule where
  /-- Mode 000, SAT 0. -/
  | fixed
  /-- Mode 000, SAT free. -/
  | sat
  /-- Mode free, SAT 0. -/
  | mode
  /-- Mode and SAT free. -/
  | modeSat
  /-- A conversion: mode 000 where every value converts exactly; no SAT from float to integer (R116, R134, R152). -/
  | convert
  deriving DecidableEq, Repr

/-- Rules for IMM12 (R82 and the entries). -/
inductive ImmRule where
  | zero
  /-- One predicate number, or pS, in [2:0]. -/
  | low3
  /-- Two predicate numbers, or L - 1, in [5:0]. -/
  | low6
  /-- A condition of R90. -/
  | cond
  /-- A result type in [3:0]: integer, float or either. -/
  | toInt | toFloat | toAny
  /-- 0, 1 or 2 (FSGNJ and its variants). -/
  | sign
  /-- A TID in [7:0]. -/
  | tid
  /-- A legal format descriptor byte in [11:4] (R105). -/
  | desc
  deriving DecidableEq, Repr

/-- A legal narrow-format descriptor byte (R105): K, P, N, I, Z. -/
def descLegal (b : Byte) : Bool :=
  let k := b.toNat / 64
  let p := b.toNat / 8 % 8
  let n := b.toNat / 4 % 2
  let i := b.toNat / 2 % 2
  let z := b.toNat % 2
  let kk := if k == 0 then 8 else if k == 1 then 6 else 4
  k != 3 && 1 ≤ p && p ≤ kk - 1 && (z == 0 || (k != 0 && n == 0 && i == 0))

/-- Every value of one type is a value of the other, so that a conversion involves no rounding (R116, R134, R152). -/
def convExact (src res : Ty) : Bool :=
  match src.isInt, res.isInt with
  | true, true => true
  | false, true => false
  | false, false =>
    src == res || (src != .f64 && res == .f64) || ((src == .f16 || src == .bf16) && res == .f32)
  | true, false =>
    match res with
    | .f16 | .bf16 => src.size == 1
    | .f32 => src.size ≤ 2
    | _ => src.size ≤ 4

/-- The conditions defined for a type (R90). -/
def condLegal (t : Ty) (c : Nat) : Bool :=
  if t.isInt then c ≤ 9 else c ≤ 5 || c == 10 || c == 11

/-- The result type of a conversion (R88). -/
def FmtR.resTy (f : FmtR) : Option Ty := Ty.ofCode (f.imm.extractLsb' 0 4)

/-- The IMM12 field obeys its rule. -/
def immOk (r : ImmRule) (f : FmtR) : Bool :=
  let n := f.imm.toNat
  match r with
  | .zero => n == 0
  | .low3 => n < 8
  | .low6 => n < 64
  | .cond => condLegal f.ty n
  | .toInt => n < 8
  | .toFloat => 8 ≤ n && n < 12
  | .toAny => n < 12
  | .sign => n < 3
  | .tid => n < 256
  | .desc => n % 16 == 0 && descLegal (f.imm.extractLsb' 4 8)

/-- The MOD field obeys its rule. -/
def modOk (r : ModRule) (f : FmtR) : Bool :=
  match r with
  | .fixed => f.mode == .rne && !f.sat
  | .sat => f.mode == .rne
  | .mode => !f.sat
  | .modeSat => true
  | .convert =>
    match f.resTy with
    | some res => (f.mode == .rne || !convExact f.ty res) && (!f.sat || f.ty.isInt || res.isFloat)
    | none => false

/-- What an R-format entry accepts. -/
structure RSpec where
  dst : Kind
  sa : Kind
  sb : Kind
  sc : Kind
  tys : Ty → Bool
  mod : ModRule
  imm : ImmRule

/-- PN = 1 with PRED = 0 is illegal (R87). -/
def predOk (pn : Bool) (pred : BitVec 3) : Bool := !pn || pred != 0

/-- The checks of an R-format word against its entry. -/
def RSpec.ok (s : RSpec) (f : FmtR) : Bool :=
  s.dst.ok f.dst && s.sa.ok f.sa && s.sb.ok f.sb && s.sc.ok f.sc && s.tys f.ty &&
    modOk s.mod f && immOk s.imm f && predOk f.pn f.pred

/-- Type n32 only (R132). -/
def isN32 (t : Ty) : Bool := t == .n32
/-- Type n8 only (R153). -/
def isN8 (t : Ty) : Bool := t == .n8
/-- The source types of VCVTQ and result types of VCVTX (R154, R155). -/
def isQSource (t : Ty) : Bool := t == .f16 || t == .bf16 || t == .f32
/-- Every defined type. -/
def anyTy (_ : Ty) : Bool := true

/-- Length rules of the M format (R226, R227). -/
inductive LenRule where
  /-- EXT: 0x00, or 0x01 with SZ 0 to 2. -/
  | ext
  | zero
  /-- A literal n with n * s within the limit, or 0xFF with the length in AUX. -/
  | length (limit : Nat)
  /-- A literal n only. -/
  | literal (limit : Nat)
  /-- XTEST: a literal of at most 64 tiles, or 0xFF. -/
  | tiles
  /-- ERASE: 0xFF. -/
  | fromAux
  /-- LDK: n at most 8, within the bank. -/
  | ldk
  deriving DecidableEq, Repr

/-- Orderings an M-format entry takes (R226). -/
inductive OrdRule where
  | plainOnly | acqOnly | relOnly | all
  deriving DecidableEq, Repr

/-- What an M-format entry accepts. -/
structure MSpec where
  data : Kind
  aux : Kind
  szLo : Nat
  szHi : Nat
  len : LenRule
  ord : OrdRule
  off0 : Bool

/-- The ordering is one the entry takes. -/
def OrdRule.ok (r : OrdRule) (o : MOrd) : Bool :=
  match r, o with
  | _, .plain => true
  | .acqOnly, .acq => true
  | .relOnly, .rel => true
  | .all, _ => true
  | _, _ => false

/-- LEN and AUX obey the entry's length rule (R226, R227, R241). -/
def lenOk (r : LenRule) (k : Kind) (f : FmtM) : Bool :=
  let n := f.len.toNat
  let s := 2 ^ f.sz.toNat
  match r with
  | .ext => k.ok f.aux && (n == 0 || (n == 1 && f.sz != 3))
  | .zero => k.ok f.aux && n == 0
  | .length lim => if n == 255 then Kind.ok .x f.aux else Kind.ok .none f.aux && (n + 1) * s ≤ lim
  | .literal lim => k.ok f.aux && n != 255 && (n + 1) * s ≤ lim
  | .tiles => if n == 255 then Kind.ok .x f.aux else Kind.ok .none f.aux && n < 64
  | .fromAux => k.ok f.aux && n == 255
  | .ldk => k.ok f.aux && n < 8 && (match f.data with | .c i => i.toNat + n + 1 ≤ 64 | _ => false)

/-- The checks of an M-format word against its entry. -/
def MSpec.ok (s : MSpec) (f : FmtM) : Bool :=
  s.data.ok f.data && Kind.ok .x f.base && s.szLo ≤ f.sz.toNat && f.sz.toNat ≤ s.szHi &&
    lenOk s.len s.aux f && s.ord.ok f.ord && (f.ord != .plain || f.scope == .slot) &&
    (!s.off0 || f.off == 0) && predOk f.pn f.pred

/-- The CSR indices of R95. -/
def csrDefined (i : Nat) : Bool :=
  (1 ≤ i && i ≤ 6) || (0x100 ≤ i && i ≤ 0x105) || i == 0x108 || i == 0x109 || i == 0x10C || i == 0x10D ||
  i == 0x110 || i == 0x114 || i == 0x115 || i == 0x118 || i == 0x11C || i == 0x120 || i == 0x121 ||
  (0x124 ≤ i && i ≤ 0x127) || i == 0x130 || i == 0x134 ||
  (0x200 ≤ i && i ≤ 0x20F && i % 4 < 2) || i == 0x210 || (0x300 ≤ i && i ≤ 0x35F) ||
  (0x360 ≤ i && i ≤ 0x363) || (0x400 ≤ i && i ≤ 0x410)

/-- The fields of TLBINV (R336): ALL decides whether the operands are used. -/
def tlbFields (f : FmtS) : Bool :=
  let n := f.imm.toNat
  let all := n / 2 ^ 13 % 2 == 1
  n / 2 ^ 15 % 2 == 0 && n / 2 ^ 12 % 2 == 0 && n / 8 % 32 == 0 && n / 256 % 16 != 0 &&
    1 ≤ n % 8 && n % 8 ≤ 4 &&
    (if all then Kind.ok .none f.sa && Kind.ok .none f.sb else Kind.ok .x f.sa && Kind.ok .xkl f.sb)

/-- The checks of a B-format word: operand kinds and the predicate. -/
def bOk (sa sb : Kind) (f : FmtB) : Bool := sa.ok f.sa && sb.ok f.sb && predOk f.pn f.pred

/-- The checks of an I-format word (R130); `shift` limits IMM32 to 0 to 63. -/
def iOk (sa : Kind) (shift : Bool) (f : FmtI) : Bool :=
  Kind.ok .x f.dst && sa.ok f.sa && predOk f.pn f.pred && (!shift || f.imm.toNat < 64)

/-- The checks of an S-format word: operand kinds, then the entry's own check of IMM24. -/
def sOk (dst sa sb sc : Kind) (f : FmtS) (imm : Bool) : Bool :=
  dst.ok f.dst && sa.ok f.sa && sb.ok f.sb && sc.ok f.sc && imm

/-- The masks of FENCE are not zero (R250). -/
def fenceOk (f : FmtF) : Bool := f.pm != 0 && f.sm != 0

/-- BAR names an index within the limit of its scope (R99). -/
def Hdr.ok (h : Hdr) : Bool :=
  let lim := if h.cscope == 0 then 8 else if h.cscope == 1 then 64 else if h.cscope == 2 then 32 else 8
  h.bar.toNat ≤ lim

/-- Element bytes of an element type (R270). -/
def EType.size : EType → Nat
  | .f32 | .s32 => 4
  | .bf16 => 2

/-- LEN of a copy command (R282). -/
def lenInRange (n : BitVec 32) : Bool := 1 ≤ n.toNat && n.toNat ≤ 2 ^ 24

/-- The field checks of ACCUM (R282). -/
def AccumCmd.ok (c : AccumCmd) : Bool :=
  c.hdr.ok && lenInRange c.len && c.len.toNat % c.ety.size == 0 &&
    c.src.toNat % c.ety.size == 0 && c.dst.toNat % c.ety.size == 0

/-- The field checks of the gather queue (R282). -/
def GatherCmd.ok (c : GatherCmd) (useTy : Bool) : Bool :=
  c.hdr.ok && c.idx.toNat % (if c.wide then 8 else 4) == 0 &&
    (if useTy then (c.rb.toNat + 1) % c.ety.size == 0 else c.ety == .f32)

/-- The entry of each R-format opcode, by opcode (R129 to R134, R146 to R161). -/
def rSpec (op : Nat) : Option RSpec :=
  match op with
  | 0x10 => some ⟨.x, .xkl, .xkl, .none, Ty.isInt, .sat, .zero⟩  -- ADD
  | 0x11 => some ⟨.x, .xkl, .xkl, .none, Ty.isInt, .sat, .zero⟩  -- SUB
  | 0x12 => some ⟨.x, .xkl, .xkl, .none, Ty.isInt, .sat, .zero⟩  -- MUL
  | 0x13 => some ⟨.x, .xkl, .xkl, .none, Ty.isS, .fixed, .zero⟩  -- MULH
  | 0x14 => some ⟨.x, .xkl, .xkl, .none, Ty.isN, .fixed, .zero⟩  -- MULHN
  | 0x15 => some ⟨.x, .xkl, .xkl, .none, Ty.isS, .fixed, .zero⟩  -- DIV
  | 0x16 => some ⟨.x, .xkl, .xkl, .none, Ty.isN, .fixed, .zero⟩  -- DIVN
  | 0x17 => some ⟨.x, .xkl, .xkl, .none, Ty.isS, .fixed, .zero⟩  -- REM
  | 0x18 => some ⟨.x, .xkl, .xkl, .none, Ty.isN, .fixed, .zero⟩  -- REMN
  | 0x19 => some ⟨.x, .xkl, .xkl, .none, Ty.isInt, .fixed, .zero⟩  -- AND
  | 0x1A => some ⟨.x, .xkl, .xkl, .none, Ty.isInt, .fixed, .zero⟩  -- OR
  | 0x1B => some ⟨.x, .xkl, .xkl, .none, Ty.isInt, .fixed, .zero⟩  -- XOR
  | 0x1C => some ⟨.x, .xkl, .xkl, .none, Ty.isInt, .fixed, .zero⟩  -- SHL
  | 0x1D => some ⟨.x, .xkl, .xkl, .none, Ty.isInt, .fixed, .zero⟩  -- SHR
  | 0x1E => some ⟨.x, .xkl, .xkl, .none, Ty.isInt, .fixed, .zero⟩  -- SRA
  | 0x1F => some ⟨.x, .xkl, .xkl, .none, Ty.isS, .fixed, .zero⟩  -- SLT
  | 0x28 => some ⟨.x, .xkl, .xkl, .none, Ty.isN, .fixed, .zero⟩  -- SLTN
  | 0x2C => some ⟨.x, .xkl, .xkl, .none, Ty.isS, .fixed, .zero⟩  -- MIN
  | 0x2D => some ⟨.x, .xkl, .xkl, .none, Ty.isS, .fixed, .zero⟩  -- MAX
  | 0x2E => some ⟨.x, .xkl, .xkl, .none, Ty.isN, .fixed, .zero⟩  -- MINN
  | 0x2F => some ⟨.x, .xkl, .xkl, .none, Ty.isN, .fixed, .zero⟩  -- MAXN
  | 0x30 => some ⟨.x, .xkl, .none, .none, Ty.isInt, .fixed, .zero⟩  -- CLZ
  | 0x31 => some ⟨.x, .xkl, .none, .none, Ty.isInt, .fixed, .zero⟩  -- CTZ
  | 0x32 => some ⟨.x, .xkl, .none, .none, Ty.isInt, .fixed, .zero⟩  -- POPC
  | 0x33 => some ⟨.x, .xkl, .none, .none, Ty.isInt, .fixed, .zero⟩  -- BREV
  | 0x34 => some ⟨.x, .xkl, .none, .none, Ty.isInt, .fixed, .zero⟩  -- BSWAP
  | 0x35 => some ⟨.x, .xkl, .xkl, .none, Ty.isInt, .fixed, .low6⟩  -- EXTR
  | 0x36 => some ⟨.x, .xkl, .xkl, .none, Ty.isInt, .fixed, .low6⟩  -- INS
  | 0x37 => some ⟨.x, .xkl, .xkl, .none, Ty.isInt, .fixed, .zero⟩  -- ROL
  | 0x38 => some ⟨.x, .xkl, .xkl, .none, Ty.isInt, .fixed, .zero⟩  -- ROR
  | 0x39 => some ⟨.x, .xkl, .xkl, .xkl, Ty.isInt, .fixed, .zero⟩  -- CSEL
  | 0x3A => some ⟨.x, .none, .none, .none, isN32, .fixed, .low3⟩  -- MOVP
  | 0x3B => some ⟨.p, .xkl, .none, .none, isN32, .fixed, .zero⟩  -- PMOV
  | 0x3C => some ⟨.p, .none, .none, .none, isN32, .fixed, .low6⟩  -- PAND
  | 0x3D => some ⟨.p, .none, .none, .none, isN32, .fixed, .low6⟩  -- POR
  | 0x3E => some ⟨.p, .none, .none, .none, isN32, .fixed, .low6⟩  -- PXOR
  | 0x3F => some ⟨.p, .none, .none, .none, isN32, .fixed, .low3⟩  -- PNOT
  | 0x40 => some ⟨.x, .xkl, .xkl, .none, Ty.isFloat, .modeSat, .zero⟩  -- FADD
  | 0x41 => some ⟨.x, .xkl, .xkl, .none, Ty.isFloat, .modeSat, .zero⟩  -- FSUB
  | 0x42 => some ⟨.x, .xkl, .xkl, .none, Ty.isFloat, .modeSat, .zero⟩  -- FMUL
  | 0x43 => some ⟨.x, .xkl, .xkl, .xkl, Ty.isFloat, .modeSat, .zero⟩  -- FFMA
  | 0x44 => some ⟨.x, .xkl, .xkl, .none, Ty.isFloat, .modeSat, .zero⟩  -- FDIV
  | 0x45 => some ⟨.x, .xkl, .none, .none, Ty.isFloat, .modeSat, .zero⟩  -- FSQRT
  | 0x46 => some ⟨.x, .xkl, .xkl, .none, Ty.isFloat, .fixed, .zero⟩  -- FMIN
  | 0x47 => some ⟨.x, .xkl, .xkl, .none, Ty.isFloat, .fixed, .zero⟩  -- FMAX
  | 0x48 => some ⟨.x, .xkl, .xkl, .none, Ty.isFloat, .fixed, .cond⟩  -- FCMP
  | 0x49 => some ⟨.x, .xkl, .none, .none, Ty.isFloat, .fixed, .zero⟩  -- FCLASS
  | 0x4A => some ⟨.x, .xkl, .none, .none, Ty.isFloat, .mode, .toInt⟩  -- FCVTI
  | 0x4B => some ⟨.x, .xkl, .none, .none, Ty.isInt, .convert, .toFloat⟩  -- FCVTF
  | 0x4C => some ⟨.x, .xkl, .none, .none, Ty.isFloat, .convert, .toFloat⟩  -- FCVTW
  | 0x4D => some ⟨.x, .xkl, .xkl, .none, Ty.isFloat, .fixed, .sign⟩  -- FSGNJ
  | 0x4E => some ⟨.x, .xkl, .none, .none, Ty.isFloat, .mode, .zero⟩  -- FRINT
  | 0x4F => some ⟨.x, .xkl, .xkl, .none, Ty.isFloat, .modeSat, .zero⟩  -- FSCAL
  | 0x50 => some ⟨.v, .any, .any, .none, Ty.isInt, .fixed, .zero⟩  -- VADD
  | 0x51 => some ⟨.v, .any, .any, .none, Ty.isInt, .fixed, .zero⟩  -- VSUB
  | 0x52 => some ⟨.v, .any, .any, .none, Ty.isInt, .fixed, .zero⟩  -- VMUL
  | 0x53 => some ⟨.v, .any, .any, .none, Ty.isInt, .fixed, .zero⟩  -- VMULH
  | 0x54 => some ⟨.v, .any, .any, .any, Ty.isInt, .fixed, .zero⟩  -- VMAD
  | 0x55 => some ⟨.v, .any, .any, .none, Ty.isInt, .fixed, .zero⟩  -- VMIN
  | 0x56 => some ⟨.v, .any, .any, .none, Ty.isInt, .fixed, .zero⟩  -- VMAX
  | 0x57 => some ⟨.v, .any, .none, .none, Ty.isS, .fixed, .zero⟩  -- VABS
  | 0x58 => some ⟨.v, .any, .any, .none, Ty.isInt, .fixed, .zero⟩  -- VAND
  | 0x59 => some ⟨.v, .any, .any, .none, Ty.isInt, .fixed, .zero⟩  -- VOR
  | 0x5A => some ⟨.v, .any, .any, .none, Ty.isInt, .fixed, .zero⟩  -- VXOR
  | 0x5B => some ⟨.v, .any, .any, .none, Ty.isInt, .fixed, .zero⟩  -- VSHL
  | 0x5C => some ⟨.v, .any, .any, .none, Ty.isInt, .fixed, .zero⟩  -- VSHR
  | 0x5D => some ⟨.v, .any, .any, .none, Ty.isInt, .fixed, .zero⟩  -- VSRA
  | 0x5E => some ⟨.v, .any, .any, .none, Ty.isInt, .fixed, .zero⟩  -- VADDS
  | 0x5F => some ⟨.v, .any, .any, .none, Ty.isInt, .fixed, .zero⟩  -- VSUBS
  | 0x60 => some ⟨.v, .any, .any, .none, Ty.isFloat, .modeSat, .zero⟩  -- VFADD
  | 0x61 => some ⟨.v, .any, .any, .none, Ty.isFloat, .modeSat, .zero⟩  -- VFSUB
  | 0x62 => some ⟨.v, .any, .any, .none, Ty.isFloat, .modeSat, .zero⟩  -- VFMUL
  | 0x63 => some ⟨.v, .any, .any, .any, Ty.isFloat, .modeSat, .zero⟩  -- VFFMA
  | 0x64 => some ⟨.v, .any, .any, .none, Ty.isFloat, .modeSat, .zero⟩  -- VFDIV
  | 0x65 => some ⟨.v, .any, .none, .none, Ty.isFloat, .modeSat, .zero⟩  -- VFSQRT
  | 0x66 => some ⟨.v, .any, .none, .none, Ty.isFloat, .modeSat, .zero⟩  -- VFRCP
  | 0x67 => some ⟨.v, .any, .none, .none, Ty.isFloat, .modeSat, .zero⟩  -- VFRSQ
  | 0x68 => some ⟨.v, .any, .none, .none, Ty.isFloat, .modeSat, .zero⟩  -- VFEXP2
  | 0x69 => some ⟨.v, .any, .none, .none, Ty.isFloat, .modeSat, .zero⟩  -- VFLOG2
  | 0x6A => some ⟨.v, .any, .any, .none, Ty.isFloat, .fixed, .zero⟩  -- VFMIN
  | 0x6B => some ⟨.v, .any, .any, .none, Ty.isFloat, .fixed, .zero⟩  -- VFMAX
  | 0x6C => some ⟨.v, .any, .none, .none, Ty.isFloat, .fixed, .zero⟩  -- VFABS
  | 0x6D => some ⟨.v, .any, .none, .none, Ty.isFloat, .fixed, .zero⟩  -- VFNEG
  | 0x6E => some ⟨.v, .any, .none, .none, Ty.isFloat, .mode, .zero⟩  -- VFRINT
  | 0x6F => some ⟨.v, .any, .any, .any, Ty.isFloat, .fixed, .zero⟩  -- VFCLAMP
  | 0x70 => some ⟨.p, .any, .any, .none, Ty.isInt, .fixed, .cond⟩  -- VCMP
  | 0x71 => some ⟨.p, .any, .any, .none, Ty.isFloat, .fixed, .cond⟩  -- VFCMP
  | 0x72 => some ⟨.v, .any, .any, .none, anyTy, .fixed, .low3⟩  -- VSEL
  | 0x73 => some ⟨.v, .any, .none, .none, anyTy, .convert, .toAny⟩  -- VCVT
  | 0x74 => some ⟨.v, .any, .none, .none, isQSource, .modeSat, .tid⟩  -- VCVTQ
  | 0x75 => some ⟨.v, .any, .none, .none, isQSource, .modeSat, .tid⟩  -- VCVTX
  | 0x76 => some ⟨.v, .any, .none, .none, isN8, .fixed, .desc⟩  -- VPACK
  | 0x77 => some ⟨.v, .any, .none, .none, isN8, .fixed, .desc⟩  -- VUNPK
  | 0x78 => some ⟨.v, .any, .none, .none, anyTy, .fixed, .zero⟩  -- VMOV
  | 0x79 => some ⟨.v, .xkl, .xkl, .none, Ty.isInt, .fixed, .zero⟩  -- VIOTA
  | 0x7A => some ⟨.v, .any, .none, .none, Ty.isInt, .fixed, .zero⟩  -- VCLZ
  | 0x7B => some ⟨.v, .any, .none, .none, Ty.isInt, .fixed, .zero⟩  -- VPOPC
  | 0x7C => some ⟨.v, .any, .none, .none, Ty.isFloat, .fixed, .zero⟩  -- VFCLASS
  | 0x7D => some ⟨.p, .xkl, .none, .none, anyTy, .fixed, .zero⟩  -- VSETP
  | 0x7E => some ⟨.v, .none, .none, .none, anyTy, .fixed, .low3⟩  -- VGETP
  | 0x7F => some ⟨.v, .any, .any, .none, Ty.isFloat, .modeSat, .zero⟩  -- VSCAL
  | 0x80 => some ⟨.v, .v, .any, .none, anyTy, .fixed, .zero⟩  -- VPERM
  | 0x81 => some ⟨.v, .v, .xkl, .none, anyTy, .fixed, .zero⟩  -- VROTL
  | 0x82 => some ⟨.v, .v, .xkl, .v, anyTy, .fixed, .zero⟩  -- VSLIDEUP
  | 0x83 => some ⟨.v, .v, .xkl, .v, anyTy, .fixed, .zero⟩  -- VSLIDEDN
  | 0x84 => some ⟨.x, .v, .none, .none, Ty.isInt, .fixed, .zero⟩  -- VREDSUM
  | 0x85 => some ⟨.x, .v, .none, .none, Ty.isFloat, .modeSat, .zero⟩  -- VFREDSUM
  | 0x86 => some ⟨.x, .v, .none, .none, Ty.isInt, .fixed, .zero⟩  -- VREDMAX
  | 0x87 => some ⟨.x, .v, .none, .none, Ty.isInt, .fixed, .zero⟩  -- VREDMIN
  | 0x88 => some ⟨.x, .v, .none, .none, Ty.isFloat, .fixed, .zero⟩  -- VFREDMAX
  | 0x89 => some ⟨.x, .v, .none, .none, Ty.isFloat, .fixed, .zero⟩  -- VFREDMIN
  | 0x8A => some ⟨.v, .v, .none, .none, Ty.isInt, .fixed, .zero⟩  -- VSCAN
  | 0x8B => some ⟨.v, .v, .none, .none, Ty.isFloat, .modeSat, .zero⟩  -- VFSCAN
  | 0x8C => some ⟨.x, .v, .xkl, .none, anyTy, .fixed, .zero⟩  -- VEXTR
  | 0x8D => some ⟨.v, .xkl, .xkl, .none, anyTy, .fixed, .zero⟩  -- VINSR
  | 0x8E => some ⟨.v, .v, .none, .none, anyTy, .fixed, .zero⟩  -- VCOMPR
  | 0x8F => some ⟨.v, .v, .none, .none, anyTy, .fixed, .zero⟩  -- VEXPND
  | _ => none

/-- The entry of each M-format opcode but FENCE, by opcode (R226). -/
def mSpec (op : Nat) : Option MSpec :=
  match op with
  | 0x90 => some ⟨.x, .none, 0, 3, .ext, .acqOnly, false⟩  -- LD
  | 0x91 => some ⟨.xkl, .none, 0, 3, .zero, .relOnly, false⟩  -- ST
  | 0x92 => some ⟨.v, .none, 0, 3, .length 128, .acqOnly, false⟩  -- LDV
  | 0x93 => some ⟨.v, .none, 0, 3, .length 128, .relOnly, false⟩  -- STV
  | 0x94 => some ⟨.v, .x, 0, 3, .literal 128, .acqOnly, false⟩  -- LDVS
  | 0x95 => some ⟨.v, .x, 0, 3, .literal 128, .relOnly, false⟩  -- STVS
  | 0x96 => some ⟨.v, .v, 2, 3, .literal 128, .acqOnly, true⟩  -- LDVG
  | 0x97 => some ⟨.v, .v, 2, 3, .literal 128, .relOnly, true⟩  -- STVG
  | 0x98 => some ⟨.v, .p, 0, 3, .literal 128, .acqOnly, false⟩  -- LDX
  | 0x99 => some ⟨.x, .none, 3, 3, .tiles, .acqOnly, false⟩  -- XTEST
  | 0x9A => some ⟨.none, .x, 0, 0, .fromAux, .relOnly, false⟩  -- ERASE
  | 0x9B => some ⟨.none, .none, 0, 3, .length 1024, .plainOnly, false⟩  -- PREF
  | 0x9C => some ⟨.none, .none, 0, 3, .length 1024, .plainOnly, false⟩  -- FLUSH
  | 0x9D => some ⟨.none, .none, 0, 3, .length 1024, .plainOnly, false⟩  -- INVAL
  | 0x9E => some ⟨.kreg, .none, 3, 3, .ldk, .plainOnly, false⟩  -- LDK
  | 0x9F => some ⟨.none, .none, 0, 3, .length 1024, .relOnly, false⟩  -- ZERO
  | 0xA0 => some ⟨.x, .xkl, 2, 3, .ext, .all, false⟩  -- AMOADD
  | 0xA1 => some ⟨.x, .xkl, 2, 3, .ext, .all, false⟩  -- AMOAND
  | 0xA2 => some ⟨.x, .xkl, 2, 3, .ext, .all, false⟩  -- AMOOR
  | 0xA3 => some ⟨.x, .xkl, 2, 3, .ext, .all, false⟩  -- AMOXOR
  | 0xA4 => some ⟨.x, .xkl, 2, 3, .ext, .all, false⟩  -- AMOMIN
  | 0xA5 => some ⟨.x, .xkl, 2, 3, .ext, .all, false⟩  -- AMOMAX
  | 0xA6 => some ⟨.x, .xkl, 2, 3, .ext, .all, false⟩  -- AMOMINN
  | 0xA7 => some ⟨.x, .xkl, 2, 3, .ext, .all, false⟩  -- AMOMAXN
  | 0xA8 => some ⟨.x, .xkl, 2, 3, .ext, .all, false⟩  -- AMOSWP
  | 0xA9 => some ⟨.x, .xkl, 2, 3, .ext, .all, false⟩  -- AMOCAS
  | 0xAA => some ⟨.x, .xkl, 2, 3, .ext, .all, false⟩  -- AMOFADD
  | 0xAB => some ⟨.x, .none, 2, 3, .ext, .acqOnly, false⟩  -- LR
  | 0xAC => some ⟨.x, .xkl, 2, 3, .zero, .relOnly, false⟩  -- SC
  | 0xAD => some ⟨.v, .v, 2, 3, .literal 128, .relOnly, true⟩  -- VAMOADD
  | 0xAE => some ⟨.v, .v, 2, 3, .literal 128, .relOnly, true⟩  -- VAMOFADD
  | _ => none

/-- An R-format word obeys the entry of its opcode. -/
def rOk (op : Nat) (f : FmtR) : Bool :=
  match rSpec op with
  | some s => s.ok f
  | none => false

/-- An M-format word obeys the entry of its opcode. -/
def mOk (op : Nat) (f : FmtM) : Bool :=
  match mSpec op with
  | some s => s.ok f
  | none => false

/-- A well-formed step: an instruction passes every decode check of R93, a tile command the field checks of R101 and
R282 that need no tensor entry, and a device event is always well formed. -/
def Instr.wf (i : Instr) : Bool :=
  match i with
  | .nop => true
  | .j f => bOk .none .none f
  | .jl f => bOk .x .none f
  | .jr f => bOk .xk .none f
  | .jlr f => bOk .xk .x f
  | .beq f => bOk .xkl .xkl f
  | .bne f => bOk .xkl .xkl f
  | .blt f => bOk .xkl .xkl f
  | .bge f => bOk .xkl .xkl f
  | .bltn f => bOk .xkl .xkl f
  | .bgen f => bOk .xkl .xkl f
  | .bp f => bOk .none .none f
  | .bnp f => bOk .none .none f
  | .bvany f => bOk .v .none f
  | .bvall f => bOk .v .none f
  | .loop f => bOk .xnz .none f
  | .add f => rOk 0x10 f
  | .sub f => rOk 0x11 f
  | .mul f => rOk 0x12 f
  | .mulh f => rOk 0x13 f
  | .mulhn f => rOk 0x14 f
  | .div f => rOk 0x15 f
  | .divn f => rOk 0x16 f
  | .rem f => rOk 0x17 f
  | .remn f => rOk 0x18 f
  | .andR f => rOk 0x19 f
  | .orR f => rOk 0x1A f
  | .xorR f => rOk 0x1B f
  | .shl f => rOk 0x1C f
  | .shr f => rOk 0x1D f
  | .sra f => rOk 0x1E f
  | .slt f => rOk 0x1F f
  | .addi f => iOk .xk false f
  | .andi f => iOk .xk false f
  | .ori f => iOk .xk false f
  | .xori f => iOk .xk false f
  | .shli f => iOk .xk true f
  | .shri f => iOk .xk true f
  | .srai f => iOk .xk true f
  | .slti f => iOk .xk false f
  | .sltn f => rOk 0x28 f
  | .li f => iOk .none false f
  | .lih f => iOk .none false f
  | .adpc f => iOk .none false f
  | .min f => rOk 0x2C f
  | .max f => rOk 0x2D f
  | .minn f => rOk 0x2E f
  | .maxn f => rOk 0x2F f
  | .clz f => rOk 0x30 f
  | .ctz f => rOk 0x31 f
  | .popc f => rOk 0x32 f
  | .brev f => rOk 0x33 f
  | .bswap f => rOk 0x34 f
  | .extr f => rOk 0x35 f
  | .ins f => rOk 0x36 f
  | .rol f => rOk 0x37 f
  | .ror f => rOk 0x38 f
  | .csel f => rOk 0x39 f
  | .movp f => rOk 0x3A f
  | .pmov f => rOk 0x3B f
  | .pand f => rOk 0x3C f
  | .por f => rOk 0x3D f
  | .pxor f => rOk 0x3E f
  | .pnot f => rOk 0x3F f
  | .fadd f => rOk 0x40 f
  | .fsub f => rOk 0x41 f
  | .fmul f => rOk 0x42 f
  | .ffma f => rOk 0x43 f
  | .fdiv f => rOk 0x44 f
  | .fsqrt f => rOk 0x45 f
  | .fmin f => rOk 0x46 f
  | .fmax f => rOk 0x47 f
  | .fcmp f => rOk 0x48 f
  | .fclass f => rOk 0x49 f
  | .fcvti f => rOk 0x4A f
  | .fcvtf f => rOk 0x4B f
  | .fcvtw f => rOk 0x4C f
  | .fsgnj f => rOk 0x4D f && f.imm == 0
  | .fsgnjn f => rOk 0x4D f && f.imm == 1
  | .fsgnjx f => rOk 0x4D f && f.imm == 2
  | .frint f => rOk 0x4E f
  | .fscal f => rOk 0x4F f
  | .vadd f => rOk 0x50 f
  | .vsub f => rOk 0x51 f
  | .vmul f => rOk 0x52 f
  | .vmulh f => rOk 0x53 f
  | .vmad f => rOk 0x54 f
  | .vmin f => rOk 0x55 f
  | .vmax f => rOk 0x56 f
  | .vabs f => rOk 0x57 f
  | .vand f => rOk 0x58 f
  | .vor f => rOk 0x59 f
  | .vxor f => rOk 0x5A f
  | .vshl f => rOk 0x5B f
  | .vshr f => rOk 0x5C f
  | .vsra f => rOk 0x5D f
  | .vadds f => rOk 0x5E f
  | .vsubs f => rOk 0x5F f
  | .vfadd f => rOk 0x60 f
  | .vfsub f => rOk 0x61 f
  | .vfmul f => rOk 0x62 f
  | .vffma f => rOk 0x63 f
  | .vfdiv f => rOk 0x64 f
  | .vfsqrt f => rOk 0x65 f
  | .vfrcp f => rOk 0x66 f
  | .vfrsq f => rOk 0x67 f
  | .vfexp2 f => rOk 0x68 f
  | .vflog2 f => rOk 0x69 f
  | .vfmin f => rOk 0x6A f
  | .vfmax f => rOk 0x6B f
  | .vfabs f => rOk 0x6C f
  | .vfneg f => rOk 0x6D f
  | .vfrint f => rOk 0x6E f
  | .vfclamp f => rOk 0x6F f
  | .vcmp f => rOk 0x70 f
  | .vfcmp f => rOk 0x71 f
  | .vsel f => rOk 0x72 f
  | .vcvt f => rOk 0x73 f
  | .vcvtq f => rOk 0x74 f
  | .vcvtx f => rOk 0x75 f
  | .vpack f => rOk 0x76 f
  | .vunpk f => rOk 0x77 f
  | .vmov f => rOk 0x78 f
  | .viota f => rOk 0x79 f
  | .vclz f => rOk 0x7A f
  | .vpopc f => rOk 0x7B f
  | .vfclass f => rOk 0x7C f
  | .vsetp f => rOk 0x7D f
  | .vgetp f => rOk 0x7E f
  | .vscal f => rOk 0x7F f
  | .vperm f => rOk 0x80 f
  | .vrotl f => rOk 0x81 f
  | .vslideup f => rOk 0x82 f
  | .vslidedn f => rOk 0x83 f
  | .vredsum f => rOk 0x84 f
  | .vfredsum f => rOk 0x85 f
  | .vredmax f => rOk 0x86 f
  | .vredmin f => rOk 0x87 f
  | .vfredmax f => rOk 0x88 f
  | .vfredmin f => rOk 0x89 f
  | .vscan f => rOk 0x8A f
  | .vfscan f => rOk 0x8B f
  | .vextr f => rOk 0x8C f
  | .vinsr f => rOk 0x8D f
  | .vcompr f => rOk 0x8E f
  | .vexpnd f => rOk 0x8F f
  | .ld f => mOk 0x90 f
  | .st f => mOk 0x91 f
  | .ldv f => mOk 0x92 f
  | .stv f => mOk 0x93 f
  | .ldvs f => mOk 0x94 f
  | .stvs f => mOk 0x95 f
  | .ldvg f => mOk 0x96 f
  | .stvg f => mOk 0x97 f
  | .ldx f => mOk 0x98 f
  | .xtest f => mOk 0x99 f
  | .erase f => mOk 0x9A f
  | .pref f => mOk 0x9B f
  | .flush f => mOk 0x9C f
  | .inval f => mOk 0x9D f
  | .ldk f => mOk 0x9E f
  | .zero f => mOk 0x9F f
  | .amoadd f => mOk 0xA0 f
  | .amoand f => mOk 0xA1 f
  | .amoor f => mOk 0xA2 f
  | .amoxor f => mOk 0xA3 f
  | .amomin f => mOk 0xA4 f
  | .amomax f => mOk 0xA5 f
  | .amominn f => mOk 0xA6 f
  | .amomaxn f => mOk 0xA7 f
  | .amoswp f => mOk 0xA8 f
  | .amocas f => mOk 0xA9 f
  | .amofadd f => mOk 0xAA f
  | .lr f => mOk 0xAB f
  | .sc f => mOk 0xAC f
  | .vamoadd f => mOk 0xAD f
  | .vamofadd f => mOk 0xAE f
  | .fence f => fenceOk f
  | .spawn f => sOk .none .xk .pay .none f (f.imm.toNat < 16)
  | .send f => sOk .none .xkl .xk .pay f (f.imm.toNat < 16 && f.imm.toNat % 2 == 0)
  | .sendr f => sOk .none .xkl .xk .pay f (f.imm.toNat < 16 && f.imm.toNat % 2 == 0)
  | .sendrGate f => sOk .none .none .none .pay f (f.imm.toNat == 16)
  | .gate f => sOk .none .xkl .xkOpt .pay f (f.imm.toNat < 65536)
  | .endTask => true
  | .yield f => sOk .none .none .none .none f (f.imm.toNat == 0)
  | .yieldCycles f => sOk .none .xkl .none .none f (f.imm.toNat == 1)
  | .yieldWatch f => sOk .none .x .xkl .none f (f.imm.toNat % 16 == 2 && 1 ≤ f.imm.toNat / 16 && f.imm.toNat / 16 ≤ 5)
  | .yieldPhase f => sOk .none .xk .xkl .none f (f.imm.toNat == 3)
  | .waitc f => sOk .none .none .none .none f (true)
  | .bara f => sOk .x .xk .none .none f (f.imm.toNat == 0)
  | .baraAlloc f => sOk .x .xk .xkl .none f (f.imm.toNat == 1)
  | .baraFree f => sOk .x0 .xk .none .none f (f.imm.toNat == 2)
  | .barw f => sOk .x .xk .none .none f (f.imm.toNat == 0)
  | .bart f => sOk .x .xk .xkl .none f (f.imm.toNat == 0)
  | .enq f => sOk .x .quad4 .none .none f (f.imm.toNat < 4)
  | .enqt f => sOk .x .quad4 .none .none f (f.imm.toNat < 4)
  | .qseq f => sOk .x .none .none .none f (f.imm.toNat < 4)
  | .qseqErr f => sOk .x .none .none .none f (4 ≤ f.imm.toNat && f.imm.toNat < 8)
  | .ident f => sOk .x .none .none .none f (f.imm.toNat < 12)
  | .clock f => sOk .x .none .none .none f (f.imm.toNat < 2)
  | .rng f => sOk .x .xkl .xkl .none f (f.imm.toNat == 0)
  | .trap f => sOk .none .xklOpt .none .none f (f.imm.toNat < 65536)
  | .csrr f => sOk .x .none .none .none f (csrDefined f.imm.toNat)
  | .csrw f => sOk .x .xkl .none .none f (csrDefined f.imm.toNat)
  | .csrs f => sOk .x .xkl .none .none f (csrDefined f.imm.toNat)
  | .csrc f => sOk .x .xkl .none .none f (csrDefined f.imm.toNat)
  | .tlbinv f => Kind.ok .none f.dst && Kind.ok .none f.sc && tlbFields f
  | .fencei f => sOk .none .none .none .none f (f.imm.toNat == 0)
  | .resumeTask f => sOk .none .x .xklOpt .none f (f.imm.toNat < 65536 && f.imm.toNat % 256 == 0)
  | .resumeCmd f => sOk .none .x .none .none f (f.imm.toNat < 65536 && f.imm.toNat % 256 == 1)
  | .abortTask f => sOk .none .x .none .none f (f.imm.toNat < 65536 && f.imm.toNat % 256 == 0)
  | .abortCmd f => sOk .none .x .none .none f (f.imm.toNat < 65536 && f.imm.toNat % 256 == 1)
  | .pooladd f => sOk .x .x .xkl .none f (f.imm.toNat < 128)
  | .tidw f => sOk .none .pay .none .none f (f.imm.toNat < 256)
  | .tidr f => sOk .pay .none .none .none f (f.imm.toNat < 256)
  | .tidamx f => sOk .x .none .none .none f (f.imm.toNat < 256)
  | .scrub f => sOk .x .xkl .none .none f (f.imm.toNat == 0)
  | .domset f => sOk .x .quad4 .none .none f (f.imm.toNat < 16)
  | .bkpt f => sOk .none .none .none .none f (f.imm.toNat < 65536)
  | .copy c => c.hdr.ok && lenInRange c.len
  | .copy2 c => c.hdr.ok && (c.rows.toNat + 1) * (c.rb.toNat + 1) ≤ 2 ^ 24
  | .fill c => c.hdr.ok && lenInRange c.len
  | .accum c => c.ok && c.count == 0 && c.slice == 0
  | .accumOrdered c => c.ok && 1 ≤ c.count.toNat && c.slice.toNat < c.count.toNat
  | .xcopy _ c => c.hdr.ok && lenInRange c.len
  | .mma c => c.hdr.ok
  | .mlda c => c.hdr.ok
  | .msta c => c.hdr.ok
  | .mzero c => c.hdr.ok && c.mask != 0
  | .msave c => c.hdr.ok && c.va.toNat % 64 == 0
  | .mrstr c => c.hdr.ok && c.va.toNat % 64 == 0
  | .gather c => c.ok false
  | .scatter c => c.ok false
  | .scatterAdd c => c.ok true
  | .gsum c => c.ok true && c.wide
  | .dispatch c => c.hdr.ok && c.desc.toNat % 64 == 0
  | .signal h => h.ok
  | .commandCompletion _ _ _ => true
  | .accumContribution _ => true
  | .accumStagingRetry _ => true
  | .l1FillResponse _ => true
  | .homeFillRequest _ => true
  | .hbmRead _ => true
  | .registration _ => true
  | .registrationAck _ => true
  | .recall _ => true
  | .writeBack _ => true
  | .deregistration _ => true
  | .forwardedRead _ => true
  | .rds _ => true
  | .rdown _ => true
  | .rdna _ => true
  | .snoopForward _ => true
  | .invalidation _ => true
  | .visitorEviction _ _ => true
  | .pageMigration _ _ _ => true
  | .pullAttemptTimeout _ => true
  | .pullComplete _ => true
  | .placementSlot _ => true
  | .teamRecordDelivery _ _ => true
  | .slotStart _ _ => true
  | .stealRequest _ => true
  | .stealAnswer _ => true
  | .stealRoundWait _ => true
  | .sliceRoundStart _ => true
  | .sliceClose _ _ => true
  | .sliceDeferredOpen _ _ => true
  | .budgetExpiry _ _ => true
  | .egressWindow _ => true
  | .wakeCycles _ => true
  | .watchReread _ => true
  | .networkAcceptance _ _ => true
  | .messageArrival _ => true
  | .waystationReload _ _ _ => true
  | .waystationRetry _ _ _ => true
  | .fabricMessageRefusal _ _ => true
  | .supervisorRecordRelease _ _ => true
  | .descriptorPacket _ _ _ => true
  | .referencePacket _ _ _ => true
  | .launchAcceptance _ => true
  | .teamRetirement _ _ => true
  | .remoteAcknowledgement _ => true
  | .launchCompletion _ => true
  | .edgeFailure _ => true
  | .deadLetter _ => true
  | .frameFreedProceed _ _ => true
  | .framePoolRetry _ _ => true
  | .faultRecordWrite _ => true
  | .faultQueueRetry _ => true
  | .drain _ _ => true
  | .framepoolWrite _ _ _ => true
  | .l1ctlWball _ => true
  | .sfctl1Force _ => true
  | .evselWrite _ _ _ => true
  | .evcWrite _ _ _ => true
  | .hostAccess _ _ _ => true
  | .hostSnoop _ _ => true
  | .deviceFlush _ => true
  | .coldStart _ => true
  | .warmStart _ => true
  | .lqctlWrite _ _ _ _ => true
  | .vfOffsetWrite _ _ _ => true
  | .nodeTableWrite _ _ => true
  | .managementRegisterWrite _ _ => true
  | .powerThrottle _ => true
  | .voltageReplan _ _ => true
  | .voltageStep _ => true
  | .attestationReport _ _ => true
  | .debugUnlock _ => true
  | .softError _ => true
  | .reservationTableEviction _ => true
  | .coherencePointResponse _ => true
  | .podBarrierArrival _ _ => true
  | .firmwareHalt => true
  | .diePowerGating _ => true

end Sys2Proof
end

