-- ==== Sys2Proof/Machine/Flags.lean ====
section
/-! DEFINITION. The FFLAGS bits (R96, R120) and the conditions of compares (R90). -/

namespace Sys2Proof.Machine

/-- Invalid operation, FFLAGS[4] (R96). -/
def fNV : BitVec 5 := 16
/-- Division by zero, FFLAGS[3]. -/
def fDZ : BitVec 5 := 8
/-- Overflow, FFLAGS[2]. -/
def fOF : BitVec 5 := 4
/-- Underflow, FFLAGS[1]. -/
def fUF : BitVec 5 := 2
/-- Inexact, FFLAGS[0]. -/
def fNX : BitVec 5 := 1

/-- A flag when a condition holds. -/
def flagIf (c : Bool) (f : BitVec 5) : BitVec 5 := if c then f else 0

/-- An integer condition of R90 on w-bit patterns, in the signedness of the type. -/
def intCond (c : Nat) (a b : Int) (ua ub : Nat) : Bool :=
  match c with
  | 0 => a == b
  | 1 => a != b
  | 2 => decide (a < b)
  | 3 => decide (a ≤ b)
  | 4 => decide (b < a)
  | 5 => decide (b ≤ a)
  | 6 => decide (ua < ub)
  | 7 => decide (ua ≤ ub)
  | 8 => decide (ub < ua)
  | _ => decide (ub ≤ ua)

/-- A float condition of R90, from the order of the operands; no order when one is a NaN. -/
def floatCond (c : Nat) (o : Option Ordering) : Bool :=
  match c, o with
  | 0, some .eq => true
  | 1, some .eq => false
  | 1, _ => true
  | 2, some .lt => true
  | 3, some .lt => true
  | 3, some .eq => true
  | 4, some .gt => true
  | 5, some .gt => true
  | 5, some .eq => true
  | 10, none => true
  | 11, some _ => true
  | _, _ => false

/-- NV of a float compare (R90): any NaN for an ordered condition, a signalling one for the others. -/
def compareNV (c : Nat) (anyNan anySig : Bool) : BitVec 5 :=
  flagIf (if 2 ≤ c && c ≤ 5 then anyNan else anySig) fNV

end Sys2Proof.Machine
end

