-- ==== Sys2Proof/Machine/Numbers.lean ====
section
/-! DEFINITION. Number formats, rounding and exact arithmetic (05 R102 to R126): standard and narrow formats share one
grid of magnitudes, numbered from zero upward, so that rounding is one function. -/

namespace Sys2Proof.Machine

/-- The grid of a format (R107, R112): its precision, the exponent of its smallest normal value, the index of its
largest finite magnitude, and what stands above that (R113). -/
structure Grid where
  prec : Nat
  emin : Int
  maxK : Nat
  inf : Bool
  nanFree : Bool
  deriving DecidableEq, Repr

/-- A value before rounding: `fin neg m e more` lies at m * 2^e, or above it by less than 2^e when `more`. -/
inductive FVal where
  | nan (signalling : Bool)
  | inf (neg : Bool)
  | fin (neg : Bool) (m : Nat) (e : Int) (more : Bool)
  deriving DecidableEq, Repr

/-- A magnitude of a format: an index of its grid, infinity, or NaN. -/
inductive Mag where
  | idx (k : Nat)
  | inf
  | nan
  deriving DecidableEq, Repr

/-- The value of grid index k: mantissa and exponent (R107). -/
def Grid.val (g : Grid) (k : Nat) : Nat × Int :=
  let h := 2 ^ (g.prec - 1)
  let e0 := g.emin - (g.prec : Int) + 1
  if k < h then (k, e0) else (h + k % h, e0 + ((k / h - 1 : Nat) : Int))

/-- The grids of the standard float types (R102). -/
def stdGrid (t : Ty) : Grid :=
  match t with
  | .f16 => ⟨11, -14, 0x7BFF, true, false⟩
  | .bf16 => ⟨8, -126, 0x7F7F, true, false⟩
  | .f32 => ⟨24, -126, 0x7F7FFFFF, true, false⟩
  | _ => ⟨53, -1022, 0x7FEFFFFFFFFFFFFF, true, false⟩

/-- The mode that applies: FRM is resolved at issue (R89, R97). -/
def resolveMode (m : RMode) (frm : BitVec 3) : RMode :=
  match m with
  | .frm => (RMode.ofCode frm).getD .rne
  | m => m

/-- The part of a value below grid position n: nothing, less than half, half, more than half. -/
inductive Rest where
  | none | low | half | high
  deriving DecidableEq, Repr

/-- m divided by 2^sh with the rest classified; a shift past every bit leaves 0 and a low rest. -/
def shiftRest (m : Nat) (sh : Nat) (more : Bool) : Nat × Rest :=
  if sh = 0 then (m, if more then .low else .none)
  else if m.log2 + 1 < sh then (0, if m = 0 && !more then .none else .low)
  else
    let r := m % 2 ^ sh
    let h := 2 ^ (sh - 1)
    (m / 2 ^ sh,
      if r < h then (if r = 0 && !more then .none else .low)
      else if r = h && !more then .half else .high)

/-- The magnitude is rounded up (R112): n is the lower neighbour in units of the spacing. DESIGN CHOICE: a negative tie under RNE goes as
the positive one does, by the magnitude, where the two neighbours lie in binades of different spacing too (P = 1; log 82). -/
def roundsUp (mode : RMode) (neg : Bool) (n : Nat) (r : Rest) : Bool :=
  match r with
  | .none => false
  | r =>
    match mode with
    | .rtz => false
    | .rdn => neg
    | .rup => !neg
    | _ => match r with
      | .high => true
      | .half => n % 2 == 1
      | _ => false

/-- The mode rounds toward zero for this sign. -/
def towardZero (mode : RMode) (neg : Bool) : Bool :=
  match mode with
  | .rtz => true
  | .rdn => !neg
  | .rup => neg
  | _ => false

/-- Overflow(sign, F, mode, SAT) (R113). -/
def overflowMag (g : Grid) (mode : RMode) (sat neg : Bool) : Mag :=
  if sat || towardZero mode neg then .idx g.maxK
  else if g.inf then .inf
  else if g.nanFree then .idx g.maxK
  else .nan

/-- The lower neighbour of a magnitude on the unbounded grid: its index, its multiple of the spacing, the rest, and
whether the value is below the smallest normal (R112, R114). -/
def lowerIndex (g : Grid) (m : Nat) (e : Int) (more : Bool) : Nat × Nat × Rest × Bool :=
  let e0 := g.emin - (g.prec : Int) + 1
  if m = 0 then (0, 0, if more then .low else .none, true)
  else
    let top := (m.log2 : Int) + e
    let q := (if top < g.emin then g.emin else top) - (g.prec : Int) + 1
    let nr := if q ≤ e then (m * 2 ^ (e - q).toNat, if more then Rest.low else Rest.none) else shiftRest m (q - e).toNat more
    (nr.1 + (q - e0).toNat * 2 ^ (g.prec - 1), nr.1, nr.2, top < g.emin)

/-- RoundTo with R113 and the flags of R120: one rounding of a magnitude into a format. -/
def roundMag (g : Grid) (mode : RMode) (sat neg : Bool) (m : Nat) (e : Int) (more : Bool) : Mag × BitVec 5 :=
  let l := lowerIndex g m e more
  let k := if roundsUp mode neg l.2.1 l.2.2.1 then l.1 + 1 else l.1
  let ovf := match mode with
    | .rtz | .rdn | .rup => decide (g.maxK < k)
    | _ => decide (g.maxK < l.1) || (l.1 == g.maxK && (l.2.2.1 == Rest.half || l.2.2.1 == Rest.high))
  if ovf then (overflowMag g mode sat neg, fOF ||| fNX)
  else (.idx k, flagIf (l.2.2.1 != Rest.none) fNX ||| flagIf (l.2.2.1 != Rest.none && l.2.2.2) fUF)

/-- The canonical NaN of a type (R102). -/
def canonNan (t : Ty) : Word :=
  match t with
  | .f16 => 0x7E00
  | .bf16 => 0x7FC0
  | .f32 => 0x7FC00000
  | _ => 0x7FF8000000000000

/-- The sign bit of a w-bit pattern. -/
def signBit (t : Ty) (b : Word) : Bool := b.toNat / 2 ^ (t.width - 1) % 2 == 1

/-- A standard pattern from sign and magnitude index. -/
def packStd (t : Ty) (neg : Bool) (m : Mag) : Word :=
  let s := if neg then 2 ^ (t.width - 1) else 0
  match m with
  | .idx k => BitVec.ofNat 64 (s + k)
  | .inf => BitVec.ofNat 64 (s + ((stdGrid t).maxK + 1))
  | .nan => canonNan t

/-- The value of a w-bit pattern of a standard float type (R102, R103). -/
def decodeStd (t : Ty) (b : Word) : FVal :=
  let mag := b.toNat % 2 ^ (t.width - 1)
  let neg := signBit t b
  let top := (stdGrid t).maxK + 1
  if mag < top then .fin neg ((stdGrid t).val mag).1 ((stdGrid t).val mag).2 false
  else if mag == top then .inf neg
  else .nan (decide (mag < top + 2 ^ ((stdGrid t).prec - 2)))

/-- The value is a NaN. -/
def FVal.isNan : FVal → Bool
  | .nan _ => true
  | _ => false
/-- The value is a signalling NaN. -/
def FVal.isSig : FVal → Bool
  | .nan s => s
  | _ => false
/-- The value is plus or minus zero. -/
def FVal.isZero : FVal → Bool
  | .fin _ m _ more => m == 0 && !more
  | _ => false
/-- The value is infinite. -/
def FVal.isInf : FVal → Bool
  | .inf _ => true
  | _ => false
/-- The sign of the value. -/
def FVal.isNeg : FVal → Bool
  | .nan _ => false
  | .inf n => n
  | .fin n _ _ _ => n
/-- The value with its sign inverted. -/
def FVal.negate : FVal → FVal
  | .nan s => .nan s
  | .inf n => .inf (!n)
  | .fin n m e r => .fin (!n) m e r

/-- One rounding of a value into a standard type; a NaN becomes the canonical one (R103, R112, R113). -/
def roundStd (t : Ty) (mode : RMode) (sat : Bool) (v : FVal) : Word × BitVec 5 :=
  match v with
  | .nan _ => (canonNan t, 0)
  | .inf n => (packStd t n .inf, 0)
  | .fin n m e more =>
    let r := roundMag (stdGrid t) mode sat n m e more
    (packStd t n r.1, r.2)

/-- NV when an operand is a signalling NaN (R103, R120). -/
def sigFlag (l : List FVal) : BitVec 5 := flagIf (l.any FVal.isSig) fNV

/-- m * 2^e as an integer at a common exponent not above e. -/
def scaled (neg : Bool) (m : Nat) (e e0 : Int) : Int :=
  let v : Int := (m * 2 ^ (e - e0).toNat : Nat)
  if neg then -v else v

/-- The exact sum of two values; an exact zero sum takes its sign from R133. -/
def addNum (mode : RMode) (a b : FVal) : FVal × BitVec 5 :=
  match a, b with
  | .fin na ma ea _, .fin nb mb eb _ =>
    let e0 := if ma = 0 then eb else if mb = 0 then ea else min ea eb
    let s := (if ma = 0 then 0 else scaled na ma ea e0) + (if mb = 0 then 0 else scaled nb mb eb e0)
    if s = 0 then (.fin (if na == nb && ma = 0 && mb = 0 then na else mode == .rdn) 0 0 false, 0)
    else (.fin (decide (s < 0)) s.natAbs e0 false, 0)
  | .inf na, .inf nb => if na == nb then (.inf na, 0) else (.nan false, fNV)
  | .inf na, .fin .. => (.inf na, 0)
  | .fin .., .inf nb => (.inf nb, 0)
  | _, _ => (.nan false, sigFlag [a, b])

/-- The exact product of two values; zero times infinity is invalid (R120). -/
def mulNum (a b : FVal) : FVal × BitVec 5 :=
  match a, b with
  | .fin na ma ea _, .fin nb mb eb _ => (.fin (na != nb) (ma * mb) (ea + eb) false, 0)
  | .inf na, .inf nb => (.inf (na != nb), 0)
  | .inf na, .fin nb mb _ _ => if mb = 0 then (.nan false, fNV) else (.inf (na != nb), 0)
  | .fin na ma _ _, .inf nb => if ma = 0 then (.nan false, fNV) else (.inf (na != nb), 0)
  | _, _ => (.nan false, sigFlag [a, b])

/-- The exact a * b + c (R133). -/
def fmaNum (mode : RMode) (a b c : FVal) : FVal × BitVec 5 :=
  let p := mulNum a b
  if p.1.isNan then (.nan false, p.2 ||| sigFlag [c])
  else addNum mode p.1 c

/-- The quotient, to more bits than any format holds, with its remainder noted (R133). -/
def divNum (a b : FVal) : FVal × BitVec 5 :=
  match a, b with
  | .fin na ma ea _, .fin nb mb eb _ =>
    if mb = 0 then (if ma = 0 then (.nan false, fNV) else (.inf (na != nb), fDZ))
    else if ma = 0 then (.fin (na != nb) 0 0 false, 0)
    else
      let sh := 66 + mb.log2 - ma.log2
      let n := ma * 2 ^ sh
      (.fin (na != nb) (n / mb) (ea - eb - (sh : Int)) (n % mb != 0), 0)
  | .inf _, .inf _ => (.nan false, fNV)
  | .inf na, .fin nb _ _ _ => (.inf (na != nb), 0)
  | .fin na _ _ _, .inf nb => (.fin (na != nb) 0 0 false, 0)
  | _, _ => (.nan false, sigFlag [a, b])

/-- The largest r with r * r ≤ n among those that agree with r0 above bit b. -/
def isqrtFrom (n : Nat) : Nat → Nat → Nat
  | 0, r => r
  | b + 1, r => isqrtFrom n b (if (r + 2 ^ b) * (r + 2 ^ b) ≤ n then r + 2 ^ b else r)

/-- The integer square root. -/
def isqrt (n : Nat) : Nat := isqrtFrom n (n.log2 / 2 + 1) 0

/-- The square root (R133): of minus zero, minus zero; of a value below it, invalid. -/
def sqrtNum (a : FVal) : FVal × BitVec 5 :=
  match a with
  | .nan s => (.nan false, flagIf s fNV)
  | .inf n => if n then (.nan false, fNV) else (.inf false, 0)
  | .fin n m e _ =>
    if m = 0 then (.fin n 0 0 false, 0)
    else if n then (.nan false, fNV)
    else
      let sh := 132 + (e % 2).toNat
      let x := m * 2 ^ sh
      (.fin false (isqrt x) ((e - (sh : Int)) / 2) (isqrt x * isqrt x != x), 0)

/-- The reciprocal (R148). -/
def rcpNum (a : FVal) : FVal × BitVec 5 := divNum (.fin false 1 0 false) a

/-- The reciprocal square root (R148). -/
def rsqNum (a : FVal) : FVal × BitVec 5 :=
  match a with
  | .nan s => (.nan false, flagIf s fNV)
  | .inf n => if n then (.nan false, fNV) else (.fin false 0 0 false, 0)
  | .fin n m e _ =>
    if m = 0 then (.inf n, fDZ)
    else if n then (.nan false, fNV)
    else
      let m' := if e % 2 = 0 then m else m * 2
      let e' := if e % 2 = 0 then e else e - 1
      let s := 70 + m'.log2
      let r := isqrt (2 ^ (2 * s) / m')
      (.fin false r (-(e' / 2) - (s : Int)) (r * r * m' != 2 ^ (2 * s)), 0)

/-- Bounds of 2^(0.b1 b2 …) at w fraction bits, bit by bit: c is the bound of 2^(2^-i), p of the product so far. -/
def exp2Bounds (w fm : Nat) : Nat → Nat → Nat → Nat → Nat → Nat × Nat
  | 0, _, _, pl, ph => (pl, ph)
  | i + 1, cl, ch, pl, ph =>
    let cl' := isqrt (cl * 2 ^ w)
    let ch' := isqrt (ch * 2 ^ w) + 1
    if fm / 2 ^ i % 2 = 1 then exp2Bounds w fm i cl' ch' (pl * cl' / 2 ^ w) (ph * ch' / 2 ^ w + 1)
    else exp2Bounds w fm i cl' ch' pl ph

/-- The integer part of 2^(fm / 2^t) * 2^70 for 0 < fm < 2^t: the bounds agree at the first width in practice, and the
width doubles while they do not. -/
def exp2Frac (t fm : Nat) : Nat → Nat → Nat
  | 0, w => (exp2Bounds w fm t (2 * 2 ^ w) (2 * 2 ^ w) (2 ^ w) (2 ^ w)).1 / 2 ^ (w - 70)
  | fuel + 1, w =>
    let b := exp2Bounds w fm t (2 * 2 ^ w) (2 * 2 ^ w) (2 ^ w) (2 ^ w)
    if b.1 / 2 ^ (w - 70) = b.2 / 2 ^ (w - 70) then b.1 / 2 ^ (w - 70) else exp2Frac t fm fuel (2 * w)

/-- 2^a (R148). A non-integer a gives an irrational value, so the rest is never zero. -/
def exp2Num (a : FVal) : FVal × BitVec 5 :=
  match a with
  | .nan s => (.nan false, flagIf s fNV)
  | .inf n => if n then (.fin false 0 0 false, 0) else (.inf false, 0)
  | .fin n m e _ =>
    if 0 ≤ e then (.fin false 1 (scaled n m e 0) false, 0)
    else
      let t := (-e).toNat
      let v : Int := if n then -(m : Int) else (m : Int)
      let fl := v / ((2 ^ t : Nat) : Int)
      let fm := (v % ((2 ^ t : Nat) : Int)).toNat
      if fm = 0 then (.fin false 1 fl false, 0)
      else (.fin false (exp2Frac t fm 6 (t + 140)) (fl - 70) true, 0)

/-- Digits of log2 by repeated squaring of bounds lo, hi of a value in [1, 2) at w fraction bits; none when the bounds
disagree on a digit. -/
def log2Digits (w : Nat) : Nat → Nat → Nat → Nat → Option Nat
  | 0, _, _, acc => some acc
  | i + 1, lo, hi, acc =>
    let l := lo * lo / 2 ^ w
    let h := hi * hi / 2 ^ w + 1
    if 2 * 2 ^ w ≤ l then log2Digits w i (l / 2) (h / 2 + 1) (2 * acc + 1)
    else if h < 2 * 2 ^ w then log2Digits w i l h (2 * acc)
    else none

/-- The first 170 fraction bits of log2 (m / 2^l), for 2^l < m < 2^(l+1). -/
def log2Frac (m l : Nat) : Nat → Nat → Nat
  | 0, _ => 0
  | fuel + 1, w =>
    let x := m * 2 ^ (w - l)
    match log2Digits w 170 x x 0 with
    | some d => d
    | none => log2Frac m l fuel (2 * w)

/-- log2 a (R148): exact for a power of two, irrational otherwise. -/
def log2Num (a : FVal) : FVal × BitVec 5 :=
  match a with
  | .nan s => (.nan false, flagIf s fNV)
  | .inf n => if n then (.nan false, fNV) else (.inf false, 0)
  | .fin n m e _ =>
    if m = 0 then (.inf true, fDZ)
    else if n then (.nan false, fNV)
    else
      let l := m.log2
      let k := e + (l : Int)
      if m = 2 ^ l then (.fin (decide (k < 0)) k.natAbs 0 false, 0)
      else
        let d := log2Frac m l 6 512
        if 0 ≤ k then (.fin false (k.toNat * 2 ^ 170 + d) (-170) true, 0)
        else (.fin true ((-k).toNat * 2 ^ 170 - d - 1) (-170) true, 0)

/-- a * 2^n (R133, R150). -/
def scalNum (a : FVal) (n : Int) : FVal × BitVec 5 :=
  match a with
  | .nan s => (.nan false, flagIf s fNV)
  | .inf g => (.inf g, 0)
  | .fin g m e r => (.fin g m (e + n) r, 0)

/-- The order of two values; none when one is a NaN. Zeros are equal. -/
def cmpNum (a b : FVal) : Option Ordering :=
  match a, b with
  | .nan _, _ => none
  | _, .nan _ => none
  | .inf na, .inf nb => some (compare (if na then (0 : Nat) else 1) (if nb then 0 else 1))
  | .inf na, .fin .. => some (if na then .lt else .gt)
  | .fin .., .inf nb => some (if nb then .gt else .lt)
  | .fin na ma ea _, .fin nb mb eb _ =>
    let e0 := if ma = 0 then eb else if mb = 0 then ea else min ea eb
    some (compare (if ma = 0 then 0 else scaled na ma ea e0) (if mb = 0 then 0 else scaled nb mb eb e0))

/-- minimumNumber (or maximumNumber) of two patterns of a type, with NV for a signalling operand (R134). -/
def minNum (t : Ty) (mx : Bool) (a b : Word) : Word × BitVec 5 :=
  let x := decodeStd t a
  let y := decodeStd t b
  let f := sigFlag [x, y]
  if x.isNan && y.isNan then (canonNan t, f)
  else if x.isNan then (b, f)
  else if y.isNan then (a, f)
  else
    let aFirst := match cmpNum x y with
      | some .lt => true
      | some .gt => false
      | _ => x.isNeg
    (if aFirst != mx then a else b, f)

/-- The class of FCLASS (R134). -/
def classOf (t : Ty) (b : Word) : Word :=
  match decodeStd t b with
  | .nan s => if s then 0x100 else 0x200
  | .inf n => if n then 0x1 else 0x80
  | .fin n m _ _ =>
    if m = 0 then (if n then 0x8 else 0x10)
    else if b.toNat % 2 ^ (t.width - 1) < 2 ^ ((stdGrid t).prec - 1) then (if n then 0x4 else 0x20)
    else (if n then 0x2 else 0x40)

/-- A finite value rounded to an integer under a mode: the magnitude and whether it is exact (R116, R134). -/
def roundInt (mode : RMode) (neg : Bool) (m : Nat) (e : Int) : Nat × Bool :=
  if 0 ≤ e then (m * 2 ^ e.toNat, true)
  else
    let r := shiftRest m (-e).toNat false
    (if roundsUp mode neg r.1 r.2 then r.1 + 1 else r.1, r.2 == Rest.none)

/-- FRINT: a rounded to an integral value of its type (R134). -/
def frintOf (t : Ty) (mode : RMode) (b : Word) : Word × BitVec 5 :=
  match decodeStd t b with
  | .nan s => (canonNan t, flagIf s fNV)
  | .inf _ => (b, 0)
  | .fin n m e _ =>
    let r := roundInt mode n m e
    if r.2 then (b, 0) else ((roundStd t .rtz false (.fin n r.1 0 false)).1, fNX)

/-! ## Integers -/

/-- The integer of a w-bit pattern, in the signedness of its type (R104). -/
def intOf (t : Ty) (b : Word) : Int :=
  let n := b.toNat % 2 ^ t.width
  if t.isS && decide (2 ^ (t.width - 1) ≤ n) then (n : Int) - ((2 ^ t.width : Nat) : Int) else (n : Int)

/-- The w-bit pattern of an integer, modulo 2^w (R104). -/
def patOf (t : Ty) (i : Int) : Word := BitVec.ofNat 64 (i % ((2 ^ t.width : Nat) : Int)).toNat

/-- The least value of an integer type (R104). -/
def minInt (t : Ty) : Int := if t.isS then -((2 ^ (t.width - 1) : Nat) : Int) else 0
/-- The greatest value of an integer type (R104). -/
def maxInt (t : Ty) : Int := if t.isS then ((2 ^ (t.width - 1) : Nat) : Int) - 1 else ((2 ^ t.width : Nat) : Int) - 1
/-- The value clamped to the type's range (R104). -/
def clampInt (t : Ty) (i : Int) : Int := if i < minInt t then minInt t else if maxInt t < i then maxInt t else i

/-- The pattern of an exact integer result: wrapped, or clamped under SAT (R129). -/
def wrapInt (t : Ty) (sat : Bool) (i : Int) : Word := patOf t (if sat then clampInt t i else i)

/-- Float to integer (R116). -/
def floatToInt (t r : Ty) (mode : RMode) (b : Word) : Word × BitVec 5 :=
  match decodeStd t b with
  | .nan _ => (0, fNV)
  | .inf n => (patOf r (if n then minInt r else maxInt r), fNV)
  | .fin n m e _ =>
    let q := roundInt mode n m e
    let i : Int := if n then -(q.1 : Int) else (q.1 : Int)
    if i < minInt r then (patOf r (minInt r), fNV)
    else if maxInt r < i then (patOf r (maxInt r), fNV)
    else (patOf r i, flagIf (!q.2) fNX)

/-- Conversion among standard types (R116). -/
def convert (src res : Ty) (mode : RMode) (sat : Bool) (b : Word) : Word × BitVec 5 :=
  if src.isInt then
    if res.isInt then (wrapInt res sat (intOf src b), 0)
    else roundStd res mode sat (.fin (decide (intOf src b < 0)) (intOf src b).natAbs 0 false)
  else if res.isInt then floatToInt src res mode b
  else
    let v := decodeStd src b
    let r := roundStd res mode sat v
    (r.1, r.2 ||| flagIf v.isSig fNV)

/-! ## The narrow family -/

/-- A narrow format (R105). -/
structure Narrow where
  k : Nat
  p : Nat
  n : Bool
  i : Bool
  z : Bool
  deriving DecidableEq, Repr

/-- The format of a descriptor byte (R105). -/
def Narrow.ofByte (b : Byte) : Narrow :=
  let x := b.toNat
  ⟨if x / 64 = 0 then 8 else if x / 64 = 1 then 6 else 4, x / 8 % 8, x / 4 % 2 == 1, x / 2 % 2 == 1, x % 2 == 1⟩

/-- The grid of a narrow format (R107, R108). -/
def Narrow.grid (f : Narrow) : Grid :=
  let eb := if f.n then f.k - f.p + 1 else f.k - f.p
  let top := if f.n then 2 ^ f.k - 1 else 2 ^ (f.k - 1)
  ⟨f.p, 1 - ((2 ^ (eb - 1) : Nat) : Int), top - 1 - (if f.i then 1 else 0), f.i, f.z⟩

/-- Decode with the special codes of R108. -/
def Narrow.decode (f : Narrow) (c : Nat) : FVal :=
  let g := f.grid
  if f.n then
    if c = 2 ^ f.k - 1 then .nan false
    else if f.i && c == 2 ^ f.k - 2 then .inf false
    else .fin false (g.val c).1 (g.val c).2 false
  else
    let s := decide (2 ^ (f.k - 1) ≤ c)
    let mag := c % 2 ^ (f.k - 1)
    if s && mag == 0 then (if f.z then .fin true 0 0 false else .nan false)
    else if f.i && mag == 2 ^ (f.k - 1) - 1 then .inf s
    else .fin s (g.val mag).1 (g.val mag).2 false

/-- The NaN code of a format that has one (R108). -/
def Narrow.nanCode (f : Narrow) : Nat := if f.n then 2 ^ f.k - 1 else 2 ^ (f.k - 1)

/-- The code of a sign and magnitude; zero has a sign in a z format only (R108, R114). -/
def Narrow.code (f : Narrow) (neg : Bool) (m : Mag) : Nat :=
  match m with
  | .nan => f.nanCode
  | .inf => if f.n then 2 ^ f.k - 2 else (if neg then 2 ^ f.k - 1 else 2 ^ (f.k - 1) - 1)
  | .idx k =>
    if k = 0 then (if f.z && neg then 2 ^ (f.k - 1) else 0)
    else if neg then 2 ^ (f.k - 1) + k else k

/-- Encode(x, F, mode, SAT, e) (R114): the code, the flags and the NaN count. DESIGN CHOICE: a negative x and a format without negative
values are rounded on the grid of its magnitudes mirrored, and what then is not 0 is out of range (R107; log 83). -/
def Narrow.encode (f : Narrow) (mode : RMode) (sat : Bool) (e : Int) (x : FVal) : Nat × BitVec 5 × Nat :=
  match x with
  | .nan s => if f.z then (0, fNV, 1) else (f.nanCode, flagIf s fNV, 1)
  | .inf neg =>
    if f.n && neg then (if sat then 0 else f.nanCode, fNV, 0)
    else if f.i then (f.code neg .inf, 0, 0)
    else (f.code neg (overflowMag f.grid mode sat neg), fOF ||| fNX, 0)
  | .fin neg m ex more =>
    let r := roundMag f.grid mode sat neg m (ex - e) more
    if f.n && neg && m != 0 then
      (if r.1 = .idx 0 then (0, fNX ||| fUF, 0) else (if sat then 0 else f.nanCode, fNV, 0))
    else (f.code (neg && !f.n) r.1, r.2, 0)

/-- The value of a code with a scale exponent (R115, R118). -/
def Narrow.value (f : Narrow) (e : Int) (c : Nat) : FVal := (scalNum (f.decode c) e).1

/-- |x| as an f32 pattern, for AMAX (R119). -/
def absF32 (t : Ty) (b : Word) : BitVec 32 :=
  ((convert t .f32 .rne false b).1.extractLsb' 0 32) &&& 0x7FFFFFFF

/-! ## Sums in a fixed order -/

/-- The identity of addition in a mode, for a governed-off element (R121). -/
def sumIdentity (t : Ty) (mode : RMode) : Word :=
  if mode = .rdn then 0 else BitVec.ofNat 64 (2 ^ (t.width - 1))

/-- a + b rounded into the type, with its flags. -/
def addStd (t : Ty) (mode : RMode) (sat : Bool) (a b : Word) : Word × BitVec 5 :=
  let r := addNum mode (decodeStd t a) (decodeStd t b)
  let q := roundStd t mode sat r.1
  (q.1, q.2 ||| r.2)

/-- One level of a reduction tree (R121). -/
def treeLevel (op : Word → Word → Word × BitVec 5) : List Word → List Word × BitVec 5
  | a :: b :: l =>
    let r := op a b
    let t := treeLevel op l
    (r.1 :: t.1, r.2 ||| t.2)
  | l => (l, 0)

/-- ReduceTree (R121), with one unit of fuel for each level. -/
def reduceTree (op : Word → Word → Word × BitVec 5) : Nat → List Word → BitVec 5 → Word × BitVec 5
  | 0, l, fl => (l.headD 0, fl)
  | n + 1, l, fl =>
    match l with
    | [] => (0, fl)
    | [a] => (a, fl)
    | _ => let t := treeLevel op l; reduceTree op n t.1 (fl ||| t.2)

/-- One step of VFSCAN at distance d (R122): the new values, and the flags that each value's addition raised. -/
def scanStep (op : Word → Word → Word × BitVec 5) (d : Nat) (y : List (Word × BitVec 5)) : List (Word × BitVec 5) :=
  y.zipIdx.map (fun p =>
    if d ≤ p.2 then
      let b := y.getD (p.2 - d) (0, 0)
      let r := op b.1 p.1.1
      (r.1, r.2 ||| b.2 ||| p.1.2)
    else p.1)

/-- VFSCAN (R122): every step; each value carries the flags of the additions it depends on. -/
def scanSteps (op : Word → Word → Word × BitVec 5) : Nat → Nat → List (Word × BitVec 5) → List (Word × BitVec 5)
  | 0, _, y => y
  | n + 1, d, y => if y.length ≤ d then y else scanSteps op n (2 * d) (scanStep op d y)

/-- The exact sum of many values (R123): NaN operands, opposite infinities, and a zero sum that is minus zero only if
every term is. -/
def sumNums (l : List FVal) : FVal :=
  if l.any FVal.isNan then .nan false
  else
    let pos := l.any (fun x => x.isInf && !x.isNeg)
    let neg := l.any (fun x => x.isInf && x.isNeg)
    if pos && neg then .nan false
    else if pos || neg then .inf neg
    else
      let r := l.foldl (fun a x => (addNum .rne a x).1) (.fin true 0 0 false)
      match r with
      | .fin n m e more => if m = 0 then .fin (l.all FVal.isNeg) 0 0 false else .fin n m e more
      | r => r

end Sys2Proof.Machine
end

