-- ==== Sys2Proof/Config.lean ====
section
/-! DEFINITION. What an implementation or the world outside fixes, and the free values of the model: opaque constants
without a body, so that nothing can be proved of their value (log entries 4, 5, 6, 7, 8). -/

namespace Sys2Proof.Config

/-- Core cycles that pass with step n (log 4: the spec gives no cycle count that a result may depend on, R67). -/
opaque cyclesOf : Nat → Nat
/-- Nanoseconds that pass with step n (log 4). -/
opaque nanosOf : Nat → Nat
/-- Whether a translation or fetched word held from before is used once more (log 6; R143, R195). -/
opaque useHeld : Nat → Bool
/-- A byte of the fabric window that this device has not written: host or peer memory (log 5; R166). -/
opaque fabricByte : Nat → Byte
/-- This device's number in its pod, assigned at fabric training (log 7; R139, R352). -/
opaque nodeNumber : BitVec 10
/-- The device serial number of an attestation report (log 7; R377). -/
opaque serial : BitVec 128
/-- A measurement or signature word of a report (log 7; R377). -/
opaque measurement : Nat → Word
/-- A byte of HBM under a byte of L2 that was dropped without being written back, at an address and a step (log 70; R201). -/
opaque staleByte : Nat → Nat → Byte
/-- What hosts and peers store in their own memory with step n: addresses of the fabric window and bytes (log 59; R204, R206, R224). -/
opaque outside : Nat → List (Nat × Byte)
/-- The phase of a pod barrier at device 0 when another device's arrival is counted there, at a step (log 11; R299, R300). -/
opaque podPhase : Nat → BitVec 32
/-- The number of the free pod barrier that device 0 gives another device at a step; 8 and more are none (log 11). -/
opaque podFree : Nat → Nat
/-- Whether device 0 has counted arrivals of an open phase of a pod barrier, at a step (log 11). -/
opaque podArrived : Nat → Bool
/-- The node and the word of its entry of the node table that a place among the device registers names (log 42; R352). -/
opaque nodePlace : Nat → Option (BitVec 10 × Nat)
/-- The counter of a slice or die, eighty to a die, that a place among the device registers names (log 42; R373). -/
opaque counterPlace : Nat → Option Nat
/-- The way of an L2 set that a fill takes, among the allowed ones (log 8; R182 names no policy). -/
opaque l2Way : Nat → Nat
/-- Flits that a crossing between dies adds to a counter of a die: step, die, counter (log 42; R373 gives them no size). -/
opaque dieFlits : Nat → Nat → Nat → Word
/-- A reading of a path-delay monitor: step, quad, monitor (R375). -/
opaque pathDelay : Nat → Nat → Nat → Word

end Sys2Proof.Config
end

