-- ==== Sys2Proof/WellFormed.lean ====
section
/-! DEFINITION. Well-formed steps: an instruction that passes every decode check of R93, a tile command that passes the
field checks of R101 and R282, any device event. The checks themselves stand in Machine/Entries.lean. -/

namespace Sys2Proof

/-- The step is one the device's encodings and field rules admit (R93, R101). -/
abbrev Instr.WellFormed (i : Instr) : Prop := i.wf = true

end Sys2Proof
end

