-- ==== Sys2Proof/Decode.lean ====
section
/-! DEFINITION. Decoding (total on any bytes, rejecting by name) and encoding, both from the format tables R79 to R86,
the opcode map R91, the tile-command maps R99, R100, R267 to R281 and the decode checks R93. -/

namespace Sys2Proof

/-- Why a word is not an instruction (R93). Each of these raises ILLEGAL when fetched. -/
inductive Reject where
  /-- Fewer bytes than a word. -/
  | truncated
  /-- OP in a cell marked "—" of R91, or a tile operation marked "—" of R100. -/
  | reservedOpcode
  /-- Kind 01 with index bit 5 set (R80). -/
  | badSpecifier
  /-- A reserved TYPE, MOD, SCOPE or ETYPE code, or a nonzero bit of a zero field (R82 to R89). -/
  | reservedField
  /-- A check of the opcode's own entry fails (R93). -/
  | entryCheck
  deriving DecidableEq, Repr

/-- Take a field that must be defined. -/
def need {α : Type} (o : Option α) (r : Reject) : Except Reject α :=
  match o with
  | some a => .ok a
  | none => .error r

/-- A bit as a Bool. -/
def bitAt {n : Nat} (w : BitVec n) (i : Nat) : Bool := w.getLsbD i
/-- A Bool as one bit. -/
def bit1 (b : Bool) : BitVec 1 := BitVec.ofBool b

/-- OP, in bits [63:56] of every format (R79). -/
def opOf (w : Word) : Byte := w.extractLsb' 56 8

/-- Read the fields of format B (R85). -/
def parseB (w : Word) : Except Reject FmtB := do
  let sa ← need (Spec.ofCode (w.extractLsb' 48 8)) .badSpecifier
  let sb ← need (Spec.ofCode (w.extractLsb' 40 8)) .badSpecifier
  if w.extractLsb' 32 4 = 0#4 then
    .ok ⟨sa, sb, bitAt w 39, w.extractLsb' 36 3, w.extractLsb' 0 32⟩
  else .error .reservedField

/-- Read the fields of format R (R82). -/
def parseR (w : Word) : Except Reject FmtR := do
  let dst ← need (Spec.ofCode (w.extractLsb' 48 8)) .badSpecifier
  let sa ← need (Spec.ofCode (w.extractLsb' 40 8)) .badSpecifier
  let sb ← need (Spec.ofCode (w.extractLsb' 32 8)) .badSpecifier
  let sc ← need (Spec.ofCode (w.extractLsb' 24 8)) .badSpecifier
  let ty ← need (Ty.ofCode (w.extractLsb' 16 4)) .reservedField
  let mode ← need (RMode.ofCode (w.extractLsb' 13 3)) .reservedField
  .ok ⟨dst, sa, sb, sc, bitAt w 23, w.extractLsb' 20 3, ty, mode, bitAt w 12, w.extractLsb' 0 12⟩

/-- Read the fields of format I (R83). -/
def parseI (w : Word) : Except Reject FmtI := do
  let dst ← need (Spec.ofCode (w.extractLsb' 48 8)) .badSpecifier
  let sa ← need (Spec.ofCode (w.extractLsb' 40 8)) .badSpecifier
  if w.extractLsb' 32 4 = 0#4 then
    .ok ⟨dst, sa, bitAt w 39, w.extractLsb' 36 3, w.extractLsb' 0 32⟩
  else .error .reservedField

/-- Read the fields of format M (R84). SZ codes 4 to 7 are reserved. -/
def parseM (w : Word) : Except Reject FmtM := do
  let data ← need (Spec.ofCode (w.extractLsb' 48 8)) .badSpecifier
  let base ← need (Spec.ofCode (w.extractLsb' 40 8)) .badSpecifier
  let aux ← need (Spec.ofCode (w.extractLsb' 32 8)) .badSpecifier
  let scope ← need (Scope.ofCode (w.extractLsb' 23 3)) .reservedField
  if w.extractLsb' 22 1 = 0#1 then
    .ok ⟨data, base, aux, bitAt w 31, w.extractLsb' 28 3, MOrd.ofCode (w.extractLsb' 26 2), scope,
      w.extractLsb' 20 2, w.extractLsb' 12 8, w.extractLsb' 0 12⟩
  else .error .reservedField

/-- Read the fields of FENCE (R250): BASE, PN, PRED, SZ, LEN and OFF12 are zero and ORD is 11. -/
def parseF (w : Word) : Except Reject FmtF := do
  let scope ← need (Scope.ofCode (w.extractLsb' 23 3)) .reservedField
  if w.extractLsb' 40 8 = 0#8 ∧ w.extractLsb' 26 6 = 3#6 ∧ w.extractLsb' 0 23 = 0#23 then
    .ok ⟨w.extractLsb' 48 8, w.extractLsb' 32 8, scope⟩
  else .error .reservedField

/-- Read the fields of format S (R86). -/
def parseS (w : Word) : Except Reject FmtS := do
  let dst ← need (Spec.ofCode (w.extractLsb' 48 8)) .badSpecifier
  let sa ← need (Spec.ofCode (w.extractLsb' 40 8)) .badSpecifier
  let sb ← need (Spec.ofCode (w.extractLsb' 32 8)) .badSpecifier
  let sc ← need (Spec.ofCode (w.extractLsb' 24 8)) .badSpecifier
  .ok ⟨dst, sa, sb, sc, w.extractLsb' 0 24⟩

/-- The word of format B (R85). -/
def packB (op : Byte) (f : FmtB) : Word :=
  op ++ (f.sa.code ++ (f.sb.code ++ (bit1 f.pn ++ (f.pred ++ (0#4 ++ f.disp)))))
/-- The word of format R (R82). -/
def packR (op : Byte) (f : FmtR) : Word :=
  op ++ (f.dst.code ++ (f.sa.code ++ (f.sb.code ++ (f.sc.code ++ (bit1 f.pn ++ (f.pred ++ (f.ty.code ++
    (f.mode.code ++ (bit1 f.sat ++ f.imm)))))))))
/-- The word of format I (R83). -/
def packI (op : Byte) (f : FmtI) : Word :=
  op ++ (f.dst.code ++ (f.sa.code ++ (bit1 f.pn ++ (f.pred ++ (0#4 ++ f.imm)))))
/-- The word of format M (R84). -/
def packM (op : Byte) (f : FmtM) : Word :=
  op ++ (f.data.code ++ (f.base.code ++ (f.aux.code ++ (bit1 f.pn ++ (f.pred ++ (f.ord.code ++ (f.scope.code ++
    (0#1 ++ (f.sz ++ (f.len ++ f.off))))))))))
/-- The word of FENCE (R250). -/
def packF (op : Byte) (f : FmtF) : Word :=
  op ++ (f.pm ++ (0#8 ++ (f.sm ++ (3#6 ++ (f.scope.code ++ 0#23)))))
/-- The word of format S (R86). -/
def packS (op : Byte) (f : FmtS) : Word :=
  op ++ (f.dst.code ++ (f.sa.code ++ (f.sb.code ++ (f.sc.code ++ f.imm))))

/-- The instructions of row 0x0 but NOP (R91, R128). -/
def bCtor (op : Nat) : Option (FmtB → Instr) :=
  match op with
  | 0x01 => some .j
  | 0x02 => some .jl
  | 0x03 => some .jr
  | 0x04 => some .jlr
  | 0x05 => some .beq
  | 0x06 => some .bne
  | 0x07 => some .blt
  | 0x08 => some .bge
  | 0x09 => some .bltn
  | 0x0A => some .bgen
  | 0x0B => some .bp
  | 0x0C => some .bnp
  | 0x0D => some .bvany
  | 0x0E => some .bvall
  | 0x0F => some .loop
  | _ => none

/-- The format-I instructions of row 0x2 (R91, R130). -/
def iCtor (op : Nat) : Option (FmtI → Instr) :=
  match op with
  | 0x20 => some .addi
  | 0x21 => some .andi
  | 0x22 => some .ori
  | 0x23 => some .xori
  | 0x24 => some .shli
  | 0x25 => some .shri
  | 0x26 => some .srai
  | 0x27 => some .slti
  | 0x29 => some .li
  | 0x2A => some .lih
  | 0x2B => some .adpc
  | _ => none

/-- The format-R instructions (R91). FSGNJ, FSGNJN and FSGNJX share 0x4D and differ in IMM12[1:0] (R134). -/
def rCtor (op : Nat) (imm : BitVec 12) : Option (FmtR → Instr) :=
  match op with
  | 0x10 => some .add
  | 0x11 => some .sub
  | 0x12 => some .mul
  | 0x13 => some .mulh
  | 0x14 => some .mulhn
  | 0x15 => some .div
  | 0x16 => some .divn
  | 0x17 => some .rem
  | 0x18 => some .remn
  | 0x19 => some .andR
  | 0x1A => some .orR
  | 0x1B => some .xorR
  | 0x1C => some .shl
  | 0x1D => some .shr
  | 0x1E => some .sra
  | 0x1F => some .slt
  | 0x28 => some .sltn
  | 0x2C => some .min
  | 0x2D => some .max
  | 0x2E => some .minn
  | 0x2F => some .maxn
  | 0x30 => some .clz
  | 0x31 => some .ctz
  | 0x32 => some .popc
  | 0x33 => some .brev
  | 0x34 => some .bswap
  | 0x35 => some .extr
  | 0x36 => some .ins
  | 0x37 => some .rol
  | 0x38 => some .ror
  | 0x39 => some .csel
  | 0x3A => some .movp
  | 0x3B => some .pmov
  | 0x3C => some .pand
  | 0x3D => some .por
  | 0x3E => some .pxor
  | 0x3F => some .pnot
  | 0x40 => some .fadd
  | 0x41 => some .fsub
  | 0x42 => some .fmul
  | 0x43 => some .ffma
  | 0x44 => some .fdiv
  | 0x45 => some .fsqrt
  | 0x46 => some .fmin
  | 0x47 => some .fmax
  | 0x48 => some .fcmp
  | 0x49 => some .fclass
  | 0x4A => some .fcvti
  | 0x4B => some .fcvtf
  | 0x4C => some .fcvtw
  | 0x4D => if imm == 0 then some .fsgnj else if imm == 1 then some .fsgnjn else some .fsgnjx
  | 0x4E => some .frint
  | 0x4F => some .fscal
  | 0x50 => some .vadd
  | 0x51 => some .vsub
  | 0x52 => some .vmul
  | 0x53 => some .vmulh
  | 0x54 => some .vmad
  | 0x55 => some .vmin
  | 0x56 => some .vmax
  | 0x57 => some .vabs
  | 0x58 => some .vand
  | 0x59 => some .vor
  | 0x5A => some .vxor
  | 0x5B => some .vshl
  | 0x5C => some .vshr
  | 0x5D => some .vsra
  | 0x5E => some .vadds
  | 0x5F => some .vsubs
  | 0x60 => some .vfadd
  | 0x61 => some .vfsub
  | 0x62 => some .vfmul
  | 0x63 => some .vffma
  | 0x64 => some .vfdiv
  | 0x65 => some .vfsqrt
  | 0x66 => some .vfrcp
  | 0x67 => some .vfrsq
  | 0x68 => some .vfexp2
  | 0x69 => some .vflog2
  | 0x6A => some .vfmin
  | 0x6B => some .vfmax
  | 0x6C => some .vfabs
  | 0x6D => some .vfneg
  | 0x6E => some .vfrint
  | 0x6F => some .vfclamp
  | 0x70 => some .vcmp
  | 0x71 => some .vfcmp
  | 0x72 => some .vsel
  | 0x73 => some .vcvt
  | 0x74 => some .vcvtq
  | 0x75 => some .vcvtx
  | 0x76 => some .vpack
  | 0x77 => some .vunpk
  | 0x78 => some .vmov
  | 0x79 => some .viota
  | 0x7A => some .vclz
  | 0x7B => some .vpopc
  | 0x7C => some .vfclass
  | 0x7D => some .vsetp
  | 0x7E => some .vgetp
  | 0x7F => some .vscal
  | 0x80 => some .vperm
  | 0x81 => some .vrotl
  | 0x82 => some .vslideup
  | 0x83 => some .vslidedn
  | 0x84 => some .vredsum
  | 0x85 => some .vfredsum
  | 0x86 => some .vredmax
  | 0x87 => some .vredmin
  | 0x88 => some .vfredmax
  | 0x89 => some .vfredmin
  | 0x8A => some .vscan
  | 0x8B => some .vfscan
  | 0x8C => some .vextr
  | 0x8D => some .vinsr
  | 0x8E => some .vcompr
  | 0x8F => some .vexpnd
  | _ => none

/-- The format-M instructions but FENCE (R91, R226). -/
def mCtor (op : Nat) : Option (FmtM → Instr) :=
  match op with
  | 0x90 => some .ld
  | 0x91 => some .st
  | 0x92 => some .ldv
  | 0x93 => some .stv
  | 0x94 => some .ldvs
  | 0x95 => some .stvs
  | 0x96 => some .ldvg
  | 0x97 => some .stvg
  | 0x98 => some .ldx
  | 0x99 => some .xtest
  | 0x9A => some .erase
  | 0x9B => some .pref
  | 0x9C => some .flush
  | 0x9D => some .inval
  | 0x9E => some .ldk
  | 0x9F => some .zero
  | 0xA0 => some .amoadd
  | 0xA1 => some .amoand
  | 0xA2 => some .amoor
  | 0xA3 => some .amoxor
  | 0xA4 => some .amomin
  | 0xA5 => some .amomax
  | 0xA6 => some .amominn
  | 0xA7 => some .amomaxn
  | 0xA8 => some .amoswp
  | 0xA9 => some .amocas
  | 0xAA => some .amofadd
  | 0xAB => some .lr
  | 0xAC => some .sc
  | 0xAD => some .vamoadd
  | 0xAE => some .vamofadd
  | _ => none

/-- The format-S instructions but END (R91). One opcode may hold several forms, told apart by IMM24. -/
def sCtor (op : Nat) (imm : BitVec 24) : Option (FmtS → Instr) :=
  match op with
  | 0xB0 => some .spawn
  | 0xB1 => some .send
  | 0xB2 => if imm == 16 then some .sendrGate else some .sendr
  | 0xB3 => some .gate
  | 0xB5 => if imm.extractLsb' 0 4 == 0 then some .yield else if imm.extractLsb' 0 4 == 1 then some .yieldCycles
      else if imm.extractLsb' 0 4 == 2 then some .yieldWatch else some .yieldPhase
  | 0xB6 => some .waitc
  | 0xB7 => if imm == 0 then some .bara else if imm == 1 then some .baraAlloc else some .baraFree
  | 0xB8 => some .barw
  | 0xB9 => some .bart
  | 0xBA => some .enq
  | 0xBB => some .enqt
  | 0xBC => if imm.toNat < 4 then some .qseq else some .qseqErr
  | 0xBD => some .ident
  | 0xBE => some .clock
  | 0xBF => some .rng
  | 0xC0 => some .trap
  | 0xC1 => some .csrr
  | 0xC2 => some .csrw
  | 0xC3 => some .csrs
  | 0xC4 => some .csrc
  | 0xC5 => some .tlbinv
  | 0xC6 => some .fencei
  | 0xC7 => if imm.getLsbD 0 then some .resumeCmd else some .resumeTask
  | 0xC8 => if imm.getLsbD 0 then some .abortCmd else some .abortTask
  | 0xC9 => some .pooladd
  | 0xCA => some .tidw
  | 0xCB => some .tidr
  | 0xCC => some .tidamx
  | 0xCD => some .scrub
  | 0xCE => some .domset
  | 0xCF => some .bkpt
  | _ => none

/-- Read the instruction of a word, before the checks of its entry: its format follows from OP (R79, R91, R92). -/
def build (w : Word) : Except Reject Instr := do
  let op := (opOf w).toNat
  if op = 0 then (if w = 0#64 then .ok .nop else .error .reservedField)
  else if op < 0x10 then
    let c ← need (bCtor op) .reservedOpcode
    let f ← parseB w
    .ok (c f)
  else if op < 0x90 then
    match iCtor op with
    | some c =>
      let f ← parseI w
      .ok (c f)
    | none =>
      let c ← need (rCtor op (w.extractLsb' 0 12)) .reservedOpcode
      let f ← parseR w
      .ok (c f)
  else if op = 0xAF then
    let f ← parseF w
    .ok (.fence f)
  else if op < 0xB0 then
    let c ← need (mCtor op) .reservedOpcode
    let f ← parseM w
    .ok (c f)
  else if op = 0xB4 then (if w = 0xB400000000000000#64 then .ok .endTask else .error .reservedField)
  else
    let c ← need (sCtor op (w.extractLsb' 0 24)) .reservedOpcode
    let f ← parseS w
    .ok (c f)

/-- Decode a 64-bit word: read its fields, then apply the checks of its entry (R93). -/
def decode (w : Word) : Except Reject Instr := do
  let i ← build w
  if i.wf then .ok i else .error .entryCheck

/-- A little-endian word of the first eight bytes (R4). -/
def wordOfBytes (b : List Byte) : Option (Word × List Byte) :=
  match b with
  | b0 :: b1 :: b2 :: b3 :: b4 :: b5 :: b6 :: b7 :: rest =>
    some (b7 ++ (b6 ++ (b5 ++ (b4 ++ (b3 ++ (b2 ++ (b1 ++ b0)))))), rest)
  | _ => none

/-- The eight bytes of a word, little-endian (R4). -/
def bytesOfWord (w : Word) : List Byte :=
  [w.extractLsb' 0 8, w.extractLsb' 8 8, w.extractLsb' 16 8, w.extractLsb' 24 8,
   w.extractLsb' 32 8, w.extractLsb' 40 8, w.extractLsb' 48 8, w.extractLsb' 56 8]

/-- Decode the instruction at the head of a list of bytes; the rest of the bytes follow it. -/
def decodeBytes (b : List Byte) : Except Reject (Instr × List Byte) :=
  match wordOfBytes b with
  | none => .error .truncated
  | some (w, rest) => do
    let i ← decode w
    .ok (i, rest)

/-! ## Tile commands -/

/-- The four words of a tile command (R99). -/
structure Tcw where
  w0 : Word
  w1 : Word
  w2 : Word
  w3 : Word
  deriving DecidableEq, Repr

/-- The operation of a tile command (R99). -/
def Tcw.op (c : Tcw) : BitVec 6 := c.w0.extractLsb' 58 6

/-- The common header (R99). -/
def Tcw.hdr (c : Tcw) : Hdr :=
  ⟨bitAt c.w0 57, bitAt c.w0 56, c.w0.extractLsb' 54 2, c.w0.extractLsb' 40 8, c.w0.extractLsb' 32 8⟩

/-- The queue that accepts an operation; SIGNAL is accepted by every queue; none for a reserved operation (R100). -/
def tcwQueue (op : BitVec 6) (q : QueueId) : Bool :=
  let n := op.toNat
  n == 63 ||
  (match q.val with
   | 0 => 1 ≤ n && n ≤ 5
   | 1 => 16 ≤ n && n ≤ 21
   | 2 => 32 ≤ n && n ≤ 34
   | _ => n == 48)

/-- w0[63:32] of a command (R99). -/
def packHdr (op : BitVec 6) (h : Hdr) : BitVec 32 :=
  op ++ (bit1 h.ord ++ (bit1 h.ntfy ++ (h.cscope ++ (0#6 ++ (h.tag ++ h.bar)))))

/-- The code of an element type (R270). -/
def EType.code : EType → BitVec 2
  | .f32 => 0 | .bf16 => 1 | .s32 => 2
/-- The element type of a code; 11 is reserved (R270). -/
def EType.ofCode (c : BitVec 2) : Option EType :=
  match c.toNat with
  | 0 => some .f32 | 1 => some .bf16 | 2 => some .s32 | _ => none

/-- w1 or w2 when it holds a VA in [47:0] and zero above. -/
def vaField (w : Word) : Except Reject VA :=
  if w.extractLsb' 48 16 = 0#16 then .ok (w.extractLsb' 0 48) else .error .reservedField

/-- A word that must be zero. -/
def zeroWord (w : Word) : Except Reject Unit := if w = 0#64 then .ok () else .error .reservedField

/-- A field that must be zero. -/
def zeroField {n : Nat} (w : BitVec n) : Except Reject Unit := if w = 0#n then .ok () else .error .reservedField

/-- Read COPY or XCOPY (R267, R272). -/
def parseCopy (c : Tcw) : Except Reject CopyCmd := do
  let src ← vaField c.w1
  let dst ← vaField c.w2
  zeroField (c.w3.extractLsb' 32 32)
  .ok ⟨c.hdr, src, dst, c.w3.extractLsb' 0 32⟩

/-- Read ACCUM (R270). -/
def parseAccum (c : Tcw) : Except Reject AccumCmd := do
  let ety ← need (EType.ofCode (c.w0.extractLsb' 30 2)) .reservedField
  let src ← vaField c.w1
  let dst ← vaField c.w2
  zeroField (c.w0.extractLsb' 0 29)
  .ok ⟨c.hdr, ety, src, dst, c.w3.extractLsb' 48 16, c.w3.extractLsb' 32 16, c.w3.extractLsb' 0 32⟩

/-- Read a gather-queue command (R278). -/
def parseGather (c : Tcw) : Except Reject GatherCmd := do
  let ety ← need (EType.ofCode (c.w0.extractLsb' 27 2)) .reservedField
  let tbl ← vaField c.w1
  let dense ← vaField c.w2
  zeroField (c.w0.extractLsb' 16 11)
  zeroField (c.w0.extractLsb' 31 1)
  .ok ⟨c.hdr, bitAt c.w0 30, ety, c.w0.extractLsb' 0 16, tbl, dense, c.w3.extractLsb' 48 16, c.w3.extractLsb' 0 48⟩

/-- Read MSAVE or MRSTR (R277). -/
def parseMsave (c : Tcw) : Except Reject MsaveCmd := do
  zeroField (c.w0.extractLsb' 0 28)
  let va ← vaField c.w1
  zeroWord c.w2
  zeroWord c.w3
  .ok ⟨c.hdr, c.w0.extractLsb' 28 4, va⟩

/-- Read the command of four words (R100, R267 to R281): the fields of its map, every zero field zero. -/
def buildTcw (c : Tcw) : Except Reject Instr := do
  zeroField (c.w0.extractLsb' 48 6)
  match c.op.toNat with
  | 1 => do
    zeroField (c.w0.extractLsb' 0 32)
    let a ← parseCopy c
    .ok (.copy a)
  | 2 => do
    let src ← vaField c.w1
    let dst ← vaField c.w2
    .ok (.copy2 ⟨c.hdr, c.w0.extractLsb' 16 16, c.w0.extractLsb' 0 16, src, dst, c.w3.extractLsb' 32 32,
      c.w3.extractLsb' 0 32⟩)
  | 3 => do
    zeroField (c.w0.extractLsb' 0 32)
    let dst ← vaField c.w1
    zeroField (c.w3.extractLsb' 32 32)
    .ok (.fill ⟨c.hdr, dst, c.w2, c.w3.extractLsb' 0 32⟩)
  | 4 => do
    let a ← parseAccum c
    if bitAt c.w0 29 then .ok (.accumOrdered a) else .ok (.accum a)
  | 5 => do
    zeroField (c.w0.extractLsb' 1 31)
    let a ← parseCopy c
    .ok (.xcopy (bitAt c.w0 0) a)
  | 16 => do
    zeroField (c.w0.extractLsb' 24 1)
    zeroField (c.w0.extractLsb' 7 1)
    let sk ← vaField c.w3
    .ok (.mma ⟨c.hdr, c.w0.extractLsb' 28 4, bitAt c.w0 27, bitAt c.w0 26, bitAt c.w0 25, c.w0.extractLsb' 16 8,
      c.w0.extractLsb' 8 8, c.w0.extractLsb' 0 7, c.w1.extractLsb' 32 32, c.w1.extractLsb' 0 32,
      c.w2.extractLsb' 32 32, c.w2.extractLsb' 0 32, sk⟩)
  | 17 => do
    zeroField (c.w0.extractLsb' 27 1)
    zeroField (c.w0.extractLsb' 24 2)
    zeroField (c.w0.extractLsb' 0 16)
    zeroWord c.w2
    zeroWord c.w3
    .ok (.mlda ⟨c.hdr, c.w0.extractLsb' 28 4, bitAt c.w0 26, c.w0.extractLsb' 16 8, c.w1.extractLsb' 32 32,
      c.w1.extractLsb' 0 32⟩)
  | 18 => do
    let mode ← need (RMode.ofCode (c.w0.extractLsb' 25 3)) .reservedField
    zeroField (c.w0.extractLsb' 0 14)
    zeroWord c.w2
    zeroWord c.w3
    .ok (.msta ⟨c.hdr, c.w0.extractLsb' 28 4, mode, bitAt c.w0 24, c.w0.extractLsb' 16 8, bitAt c.w0 15,
      bitAt c.w0 14, c.w1.extractLsb' 32 32, c.w1.extractLsb' 0 32⟩)
  | 19 => do
    zeroField (c.w0.extractLsb' 16 16)
    zeroWord c.w1
    zeroWord c.w2
    zeroWord c.w3
    .ok (.mzero ⟨c.hdr, c.w0.extractLsb' 0 16⟩)
  | 20 => do
    let a ← parseMsave c
    .ok (.msave a)
  | 21 => do
    let a ← parseMsave c
    .ok (.mrstr a)
  | 32 => do
    zeroField (c.w0.extractLsb' 29 1)
    let a ← parseGather c
    .ok (.gather a)
  | 33 => do
    let a ← parseGather c
    if bitAt c.w0 29 then .ok (.scatterAdd a) else .ok (.scatter a)
  | 34 => do
    zeroField (c.w0.extractLsb' 29 1)
    let a ← parseGather c
    .ok (.gsum a)
  | 48 => do
    zeroField (c.w0.extractLsb' 0 32)
    let d ← vaField c.w1
    zeroWord c.w2
    zeroWord c.w3
    .ok (.dispatch ⟨c.hdr, d⟩)
  | 63 => do
    zeroField (c.w0.extractLsb' 0 32)
    zeroWord c.w1
    zeroWord c.w2
    zeroWord c.w3
    .ok (.signal c.hdr)
  | _ => .error .reservedOpcode

/-- Decode a tile command (R101 steps 1 to 3 but for the tensor entries). -/
def decodeTcw (c : Tcw) : Except Reject Instr := do
  let i ← buildTcw c
  if i.wf then .ok i else .error .entryCheck

/-- w0 of a command from its operation, header and low half. -/
def packW0 (op : BitVec 6) (h : Hdr) (lo : BitVec 32) : Word := packHdr op h ++ lo
/-- A VA in [47:0] with zero above. -/
def vaWord (a : VA) : Word := (0#16 ++ a)

/-- The words of a COPY or XCOPY. -/
def packCopy (op : BitVec 6) (mode : BitVec 32) (c : CopyCmd) : Tcw :=
  ⟨packW0 op c.hdr mode, vaWord c.src, vaWord c.dst, (0#32 ++ c.len)⟩
/-- The words of an ACCUM. -/
def packAccum (ordered : Bool) (c : AccumCmd) : Tcw :=
  ⟨packW0 4 c.hdr (c.ety.code ++ (bit1 ordered ++ 0#29)), vaWord c.src, vaWord c.dst, (c.count ++ (c.slice ++ c.len))⟩
/-- The words of a gather-queue command. -/
def packGather (op : BitVec 6) (add : Bool) (c : GatherCmd) : Tcw :=
  ⟨packW0 op c.hdr (0#1 ++ (bit1 c.wide ++ (bit1 add ++ (c.ety.code ++ (0#11 ++ c.rb))))), vaWord c.tbl, vaWord c.dense,
    (c.count ++ c.idx)⟩

/-- What encodes an instruction: a word, a tile command, or nothing for a device event. -/
inductive Code where
  | word (w : Word)
  | tile (c : Tcw)
  | event
  deriving DecidableEq, Repr

/-- The words of an instruction, from the same encoding tables. -/
def encode (i : Instr) : Code :=
  match i with
  | .nop => .word 0
  | .j f => .word (packB 0x01 f)
  | .jl f => .word (packB 0x02 f)
  | .jr f => .word (packB 0x03 f)
  | .jlr f => .word (packB 0x04 f)
  | .beq f => .word (packB 0x05 f)
  | .bne f => .word (packB 0x06 f)
  | .blt f => .word (packB 0x07 f)
  | .bge f => .word (packB 0x08 f)
  | .bltn f => .word (packB 0x09 f)
  | .bgen f => .word (packB 0x0A f)
  | .bp f => .word (packB 0x0B f)
  | .bnp f => .word (packB 0x0C f)
  | .bvany f => .word (packB 0x0D f)
  | .bvall f => .word (packB 0x0E f)
  | .loop f => .word (packB 0x0F f)
  | .add f => .word (packR 0x10 f)
  | .sub f => .word (packR 0x11 f)
  | .mul f => .word (packR 0x12 f)
  | .mulh f => .word (packR 0x13 f)
  | .mulhn f => .word (packR 0x14 f)
  | .div f => .word (packR 0x15 f)
  | .divn f => .word (packR 0x16 f)
  | .rem f => .word (packR 0x17 f)
  | .remn f => .word (packR 0x18 f)
  | .andR f => .word (packR 0x19 f)
  | .orR f => .word (packR 0x1A f)
  | .xorR f => .word (packR 0x1B f)
  | .shl f => .word (packR 0x1C f)
  | .shr f => .word (packR 0x1D f)
  | .sra f => .word (packR 0x1E f)
  | .slt f => .word (packR 0x1F f)
  | .addi f => .word (packI 0x20 f)
  | .andi f => .word (packI 0x21 f)
  | .ori f => .word (packI 0x22 f)
  | .xori f => .word (packI 0x23 f)
  | .shli f => .word (packI 0x24 f)
  | .shri f => .word (packI 0x25 f)
  | .srai f => .word (packI 0x26 f)
  | .slti f => .word (packI 0x27 f)
  | .sltn f => .word (packR 0x28 f)
  | .li f => .word (packI 0x29 f)
  | .lih f => .word (packI 0x2A f)
  | .adpc f => .word (packI 0x2B f)
  | .min f => .word (packR 0x2C f)
  | .max f => .word (packR 0x2D f)
  | .minn f => .word (packR 0x2E f)
  | .maxn f => .word (packR 0x2F f)
  | .clz f => .word (packR 0x30 f)
  | .ctz f => .word (packR 0x31 f)
  | .popc f => .word (packR 0x32 f)
  | .brev f => .word (packR 0x33 f)
  | .bswap f => .word (packR 0x34 f)
  | .extr f => .word (packR 0x35 f)
  | .ins f => .word (packR 0x36 f)
  | .rol f => .word (packR 0x37 f)
  | .ror f => .word (packR 0x38 f)
  | .csel f => .word (packR 0x39 f)
  | .movp f => .word (packR 0x3A f)
  | .pmov f => .word (packR 0x3B f)
  | .pand f => .word (packR 0x3C f)
  | .por f => .word (packR 0x3D f)
  | .pxor f => .word (packR 0x3E f)
  | .pnot f => .word (packR 0x3F f)
  | .fadd f => .word (packR 0x40 f)
  | .fsub f => .word (packR 0x41 f)
  | .fmul f => .word (packR 0x42 f)
  | .ffma f => .word (packR 0x43 f)
  | .fdiv f => .word (packR 0x44 f)
  | .fsqrt f => .word (packR 0x45 f)
  | .fmin f => .word (packR 0x46 f)
  | .fmax f => .word (packR 0x47 f)
  | .fcmp f => .word (packR 0x48 f)
  | .fclass f => .word (packR 0x49 f)
  | .fcvti f => .word (packR 0x4A f)
  | .fcvtf f => .word (packR 0x4B f)
  | .fcvtw f => .word (packR 0x4C f)
  | .fsgnj f => .word (packR 0x4D f)
  | .fsgnjn f => .word (packR 0x4D f)
  | .fsgnjx f => .word (packR 0x4D f)
  | .frint f => .word (packR 0x4E f)
  | .fscal f => .word (packR 0x4F f)
  | .vadd f => .word (packR 0x50 f)
  | .vsub f => .word (packR 0x51 f)
  | .vmul f => .word (packR 0x52 f)
  | .vmulh f => .word (packR 0x53 f)
  | .vmad f => .word (packR 0x54 f)
  | .vmin f => .word (packR 0x55 f)
  | .vmax f => .word (packR 0x56 f)
  | .vabs f => .word (packR 0x57 f)
  | .vand f => .word (packR 0x58 f)
  | .vor f => .word (packR 0x59 f)
  | .vxor f => .word (packR 0x5A f)
  | .vshl f => .word (packR 0x5B f)
  | .vshr f => .word (packR 0x5C f)
  | .vsra f => .word (packR 0x5D f)
  | .vadds f => .word (packR 0x5E f)
  | .vsubs f => .word (packR 0x5F f)
  | .vfadd f => .word (packR 0x60 f)
  | .vfsub f => .word (packR 0x61 f)
  | .vfmul f => .word (packR 0x62 f)
  | .vffma f => .word (packR 0x63 f)
  | .vfdiv f => .word (packR 0x64 f)
  | .vfsqrt f => .word (packR 0x65 f)
  | .vfrcp f => .word (packR 0x66 f)
  | .vfrsq f => .word (packR 0x67 f)
  | .vfexp2 f => .word (packR 0x68 f)
  | .vflog2 f => .word (packR 0x69 f)
  | .vfmin f => .word (packR 0x6A f)
  | .vfmax f => .word (packR 0x6B f)
  | .vfabs f => .word (packR 0x6C f)
  | .vfneg f => .word (packR 0x6D f)
  | .vfrint f => .word (packR 0x6E f)
  | .vfclamp f => .word (packR 0x6F f)
  | .vcmp f => .word (packR 0x70 f)
  | .vfcmp f => .word (packR 0x71 f)
  | .vsel f => .word (packR 0x72 f)
  | .vcvt f => .word (packR 0x73 f)
  | .vcvtq f => .word (packR 0x74 f)
  | .vcvtx f => .word (packR 0x75 f)
  | .vpack f => .word (packR 0x76 f)
  | .vunpk f => .word (packR 0x77 f)
  | .vmov f => .word (packR 0x78 f)
  | .viota f => .word (packR 0x79 f)
  | .vclz f => .word (packR 0x7A f)
  | .vpopc f => .word (packR 0x7B f)
  | .vfclass f => .word (packR 0x7C f)
  | .vsetp f => .word (packR 0x7D f)
  | .vgetp f => .word (packR 0x7E f)
  | .vscal f => .word (packR 0x7F f)
  | .vperm f => .word (packR 0x80 f)
  | .vrotl f => .word (packR 0x81 f)
  | .vslideup f => .word (packR 0x82 f)
  | .vslidedn f => .word (packR 0x83 f)
  | .vredsum f => .word (packR 0x84 f)
  | .vfredsum f => .word (packR 0x85 f)
  | .vredmax f => .word (packR 0x86 f)
  | .vredmin f => .word (packR 0x87 f)
  | .vfredmax f => .word (packR 0x88 f)
  | .vfredmin f => .word (packR 0x89 f)
  | .vscan f => .word (packR 0x8A f)
  | .vfscan f => .word (packR 0x8B f)
  | .vextr f => .word (packR 0x8C f)
  | .vinsr f => .word (packR 0x8D f)
  | .vcompr f => .word (packR 0x8E f)
  | .vexpnd f => .word (packR 0x8F f)
  | .ld f => .word (packM 0x90 f)
  | .st f => .word (packM 0x91 f)
  | .ldv f => .word (packM 0x92 f)
  | .stv f => .word (packM 0x93 f)
  | .ldvs f => .word (packM 0x94 f)
  | .stvs f => .word (packM 0x95 f)
  | .ldvg f => .word (packM 0x96 f)
  | .stvg f => .word (packM 0x97 f)
  | .ldx f => .word (packM 0x98 f)
  | .xtest f => .word (packM 0x99 f)
  | .erase f => .word (packM 0x9A f)
  | .pref f => .word (packM 0x9B f)
  | .flush f => .word (packM 0x9C f)
  | .inval f => .word (packM 0x9D f)
  | .ldk f => .word (packM 0x9E f)
  | .zero f => .word (packM 0x9F f)
  | .amoadd f => .word (packM 0xA0 f)
  | .amoand f => .word (packM 0xA1 f)
  | .amoor f => .word (packM 0xA2 f)
  | .amoxor f => .word (packM 0xA3 f)
  | .amomin f => .word (packM 0xA4 f)
  | .amomax f => .word (packM 0xA5 f)
  | .amominn f => .word (packM 0xA6 f)
  | .amomaxn f => .word (packM 0xA7 f)
  | .amoswp f => .word (packM 0xA8 f)
  | .amocas f => .word (packM 0xA9 f)
  | .amofadd f => .word (packM 0xAA f)
  | .lr f => .word (packM 0xAB f)
  | .sc f => .word (packM 0xAC f)
  | .vamoadd f => .word (packM 0xAD f)
  | .vamofadd f => .word (packM 0xAE f)
  | .fence f => .word (packF 0xAF f)
  | .spawn f => .word (packS 0xB0 f)
  | .send f => .word (packS 0xB1 f)
  | .sendr f => .word (packS 0xB2 f)
  | .sendrGate f => .word (packS 0xB2 f)
  | .gate f => .word (packS 0xB3 f)
  | .endTask => .word 0xB400000000000000
  | .yield f => .word (packS 0xB5 f)
  | .yieldCycles f => .word (packS 0xB5 f)
  | .yieldWatch f => .word (packS 0xB5 f)
  | .yieldPhase f => .word (packS 0xB5 f)
  | .waitc f => .word (packS 0xB6 f)
  | .bara f => .word (packS 0xB7 f)
  | .baraAlloc f => .word (packS 0xB7 f)
  | .baraFree f => .word (packS 0xB7 f)
  | .barw f => .word (packS 0xB8 f)
  | .bart f => .word (packS 0xB9 f)
  | .enq f => .word (packS 0xBA f)
  | .enqt f => .word (packS 0xBB f)
  | .qseq f => .word (packS 0xBC f)
  | .qseqErr f => .word (packS 0xBC f)
  | .ident f => .word (packS 0xBD f)
  | .clock f => .word (packS 0xBE f)
  | .rng f => .word (packS 0xBF f)
  | .trap f => .word (packS 0xC0 f)
  | .csrr f => .word (packS 0xC1 f)
  | .csrw f => .word (packS 0xC2 f)
  | .csrs f => .word (packS 0xC3 f)
  | .csrc f => .word (packS 0xC4 f)
  | .tlbinv f => .word (packS 0xC5 f)
  | .fencei f => .word (packS 0xC6 f)
  | .resumeTask f => .word (packS 0xC7 f)
  | .resumeCmd f => .word (packS 0xC7 f)
  | .abortTask f => .word (packS 0xC8 f)
  | .abortCmd f => .word (packS 0xC8 f)
  | .pooladd f => .word (packS 0xC9 f)
  | .tidw f => .word (packS 0xCA f)
  | .tidr f => .word (packS 0xCB f)
  | .tidamx f => .word (packS 0xCC f)
  | .scrub f => .word (packS 0xCD f)
  | .domset f => .word (packS 0xCE f)
  | .bkpt f => .word (packS 0xCF f)
  | .copy c => .tile (packCopy 1 0 c)
  | .copy2 c => .tile (⟨packW0 2 c.hdr (c.rows ++ c.rb), vaWord c.src, vaWord c.dst, (c.dstr ++ c.sstr)⟩)
  | .fill c => .tile (⟨packW0 3 c.hdr 0, vaWord c.dst, c.pat, (0#32 ++ c.len)⟩)
  | .accum c => .tile (packAccum false c)
  | .accumOrdered c => .tile (packAccum true c)
  | .xcopy m c => .tile (packCopy 5 (0#31 ++ bit1 m) c)
  | .mma c => .tile (⟨packW0 16 c.hdr (c.acc ++ (bit1 c.neg ++ (bit1 c.ta ++ (bit1 c.tb ++ (0#1 ++ (c.tida ++ (c.tidb ++ (0#1 ++ c.kb)))))))),
      (c.acol ++ c.arow), (c.bcol ++ c.brow), vaWord c.skva⟩)
  | .mlda c => .tile (⟨packW0 17 c.hdr (c.acc ++ (0#1 ++ (bit1 c.tr ++ (0#2 ++ (c.tid ++ 0#16))))), (c.col ++ c.row), 0, 0⟩)
  | .msta c => .tile (⟨packW0 18 c.hdr (c.acc ++ (c.mode.code ++ (bit1 c.sat ++ (c.tid ++ (bit1 c.tr ++ (bit1 c.clr ++ 0#14)))))),
      (c.col ++ c.row), 0, 0⟩)
  | .mzero c => .tile (⟨packW0 19 c.hdr (0#16 ++ c.mask), 0, 0, 0⟩)
  | .msave c => .tile (⟨packW0 20 c.hdr (c.acc ++ 0#28), vaWord c.va, 0, 0⟩)
  | .mrstr c => .tile (⟨packW0 21 c.hdr (c.acc ++ 0#28), vaWord c.va, 0, 0⟩)
  | .gather c => .tile (packGather 32 false c)
  | .scatter c => .tile (packGather 33 false c)
  | .scatterAdd c => .tile (packGather 33 true c)
  | .gsum c => .tile (packGather 34 false c)
  | .dispatch c => .tile (⟨packW0 48 c.hdr 0, vaWord c.desc, 0, 0⟩)
  | .signal h => .tile (⟨packW0 63 h 0, 0, 0, 0⟩)
  | .commandCompletion _ _ _ => .event
  | .accumContribution _ => .event
  | .accumStagingRetry _ => .event
  | .l1FillResponse _ => .event
  | .homeFillRequest _ => .event
  | .hbmRead _ => .event
  | .registration _ => .event
  | .registrationAck _ => .event
  | .recall _ => .event
  | .writeBack _ => .event
  | .deregistration _ => .event
  | .forwardedRead _ => .event
  | .rds _ => .event
  | .rdown _ => .event
  | .rdna _ => .event
  | .snoopForward _ => .event
  | .invalidation _ => .event
  | .visitorEviction _ _ => .event
  | .pageMigration _ _ _ => .event
  | .pullAttemptTimeout _ => .event
  | .pullComplete _ => .event
  | .placementSlot _ => .event
  | .teamRecordDelivery _ _ => .event
  | .slotStart _ _ => .event
  | .stealRequest _ => .event
  | .stealAnswer _ => .event
  | .stealRoundWait _ => .event
  | .sliceRoundStart _ => .event
  | .sliceClose _ _ => .event
  | .sliceDeferredOpen _ _ => .event
  | .budgetExpiry _ _ => .event
  | .egressWindow _ => .event
  | .wakeCycles _ => .event
  | .watchReread _ => .event
  | .networkAcceptance _ _ => .event
  | .messageArrival _ => .event
  | .waystationReload _ _ _ => .event
  | .waystationRetry _ _ _ => .event
  | .fabricMessageRefusal _ _ => .event
  | .supervisorRecordRelease _ _ => .event
  | .descriptorPacket _ _ _ => .event
  | .referencePacket _ _ _ => .event
  | .launchAcceptance _ => .event
  | .teamRetirement _ _ => .event
  | .remoteAcknowledgement _ => .event
  | .launchCompletion _ => .event
  | .edgeFailure _ => .event
  | .deadLetter _ => .event
  | .frameFreedProceed _ _ => .event
  | .framePoolRetry _ _ => .event
  | .faultRecordWrite _ => .event
  | .faultQueueRetry _ => .event
  | .drain _ _ => .event
  | .framepoolWrite _ _ _ => .event
  | .l1ctlWball _ => .event
  | .sfctl1Force _ => .event
  | .evselWrite _ _ _ => .event
  | .evcWrite _ _ _ => .event
  | .hostAccess _ _ _ => .event
  | .hostSnoop _ _ => .event
  | .deviceFlush _ => .event
  | .coldStart _ => .event
  | .warmStart _ => .event
  | .lqctlWrite _ _ _ _ => .event
  | .vfOffsetWrite _ _ _ => .event
  | .nodeTableWrite _ _ => .event
  | .managementRegisterWrite _ _ => .event
  | .powerThrottle _ => .event
  | .voltageReplan _ _ => .event
  | .voltageStep _ => .event
  | .attestationReport _ _ => .event
  | .debugUnlock _ => .event
  | .softError _ => .event
  | .reservationTableEviction _ => .event
  | .coherencePointResponse _ => .event
  | .podBarrierArrival _ _ => .event
  | .firmwareHalt => .event
  | .diePowerGating _ => .event

/-- The instruction the decoder reads from an instruction whose bits are w (bit 0 the least significant of the first
word): a 64-bit word, or a tile command of four words when the row is wider. -/
def decodeTableWord (nbits w : Nat) : Option Instr :=
  if nbits ≤ 64 then
    match decode (BitVec.ofNat 64 w) with
    | .ok i => some i
    | .error _ => none
  else
    match decodeTcw ⟨BitVec.ofNat 64 w, BitVec.ofNat 64 (w / 2 ^ 64), BitVec.ofNat 64 (w / 2 ^ 128),
        BitVec.ofNat 64 (w / 2 ^ 192)⟩ with
    | .ok i => some i
    | .error _ => none

end Sys2Proof
end

