-- ==== Sys2Proof/Machine/State.lean ====
section
/-! DEFINITION. The state of the whole device as plain data: slots, cores, dies, domains and the package, with
everything the spec gives them (INVENTORY.md lists each with its rule and its reset value), the reasons for which a
step can stop, and the state after reset. -/

namespace Sys2Proof.Machine

/-! ## Task records and traps -/

/-- A task record, dw0 to dw7 (R21). -/
structure TaskRec where
  dw0 : Word
  pay : Vector Word 6
  dw7 : Word
  /-- It is cross-domain (R22): an ORIGIN 3 record does not tell by its own bits whether it answers a gate call. -/
  cross : Bool
  deriving DecidableEq, Repr

/-- The trap codes of R310. -/
inductive TrapCode where
  | illegal | priv | align | domain | page | access | allocfail | budget | sendqfull | swtrap | atomunsup
  | poison | miglost | engineIllegal | gate | frameempty | bkpt
  deriving DecidableEq, Repr

/-- A trap as an instruction raises it: its code, the ADDR and the INFO of its fault record (R322). -/
structure Trap where
  code : TrapCode
  addr : Word
  info : BitVec 24
  deriving DecidableEq, Repr

/-- A fault record or notice, dw0 to dw7 (R322). -/
structure FaultRec where
  dws : Vector Word 8
  deriving DecidableEq, Repr

/-! ## Slots -/

/-- The six counters of a slot (R76). -/
structure Counters where
  ld : BitVec 6
  st : BitVec 6
  cp : BitVec 6
  mx : BitVec 6
  gx : BitVec 6
  sd : BitVec 6
  deriving DecidableEq, Repr

/-- Where a task's record came from, which decides where it returns (R313). -/
inductive Source where
  /-- An inbox share; the flag is the network (R21 VN). -/
  | inbox (reply : Bool)
  | deque
  | theft
  /-- A launch: a reserved record of a team (R51). -/
  | launch
  deriving DecidableEq, Repr

/-- A reply grant (R298, R319 S7 and S18). -/
structure Grant where
  valid : Bool
  consumed : Bool
  vcore : BitVec 10
  dom : Dom
  handler : VA
  deriving DecidableEq, Repr

/-- Where one element of an access lies (R163, R166, R167, R196). -/
inductive Loc where
  /-- A byte offset in the core's scratch window. -/
  | scratch (off : Nat)
  /-- A physical address with its memory type, and the coherence grain of its page (R185). -/
  | mem (pa : Nat) (mt : BitVec 2) (grain : Nat)
  /-- A byte of a tile: domain's region index, tile number and offset in the tile. -/
  | tile (region : BitVec 6) (t : Nat) (off : Nat)
  /-- The model's own: not found yet, in a page of a region that is pulled, or whose tables are (R365). -/
  | unplaced
  deriving DecidableEq, Repr

/-- A barrier: one of a quad, of a die, of the package or of the pod (R299). -/
inductive BarRef where
  | quad (d : DieId) (q : Fin 32) (i : Fin 8)
  | die (d : DieId) (i : Fin 64)
  | pkg (i : Fin 32)
  | pod (i : Fin 8)
  deriving DecidableEq, Repr

/-- The wake condition of a park (R69, R137). -/
inductive Wake where
  | now
  /-- So many cycles after the park (R69). -/
  | cycles (n : Nat)
  /-- A watched word: its VA and place, the expected value and the scope of the acquire. -/
  | watch (va : VA) (loc : Loc) (expected : Word) (scope : BitVec 3)
  /-- A barrier phase: its name, the barrier and the phase. -/
  | phase (name : Word) (bar : BarRef) (ph : BitVec 32)
  deriving DecidableEq, Repr

/-- What a slot holds back while it has no frame: a park or a suspension, and the frame taken already (R321, R381). -/
inductive FrameWait where
  | park (w : Wake) (frame : Option VA)
  /-- A suspension, with the PC and the word of the instruction that trapped. -/
  | suspend (t : Trap) (pc : VA) (word : Word) (frame : Option VA)
  deriving DecidableEq, Repr

/-- What follows once a fault record is written (R311). -/
inductive AfterFault where
  /-- An abort, and a frame that the task had taken while it held (R320). -/
  | abort (code : TrapCode) (frame : Option VA)
  /-- The context is saved in a frame already. -/
  | suspended
  | hold (w : FrameWait)
  deriving DecidableEq, Repr

/-- What a slot does (R48, R51, R59, R302, R313, R321, R326, R327, R331). -/
inductive SlotStatus where
  | free
  /-- Reserved to a record of a team, or to a replay (R48, R51, R313). -/
  | reserved
  | running
  /-- Past step 1 of END (R136, R331). -/
  | ending
  /-- A holding BARW: the barrier and the phase (R302). -/
  | barWait (bar : BarRef) (ph : BitVec 32)
  /-- A trap whose fault record waits for room, what follows it, and the cycles its budget has counted so far (R326). -/
  | faultWait (r : FaultRec) (after : AfterFault) (held : Nat)
  /-- A park or suspension that waits for a frame (R321, R381); `retry` is the cycle of the next retry, `told` says that its hold record
  has been written. -/
  | frameWait (w : FrameWait) (retry : Nat) (told : Bool)
  /-- An aborted record that waits for spill room, and whether it is barred (R294, R313). -/
  | returnWait (barred : Bool)
  /-- A record that waits for dead-letter room (R327). -/
  | deadWait
  deriving DecidableEq, Repr

/-- Counts that a slot keeps for one queue (R255, R256). -/
structure QCount where
  seq : Word
  ret : Word
  err : BitVec 16
  deriving DecidableEq, Repr

/-- What a slot knows of its task beside the registers (R22, R24, R52, R298, R313). -/
structure Task where
  tr : TaskRec
  source : Source
  /-- The inbox rank or arrival number of the record. -/
  rank : BitVec 32
  /-- The task has parked or been suspended since it started (R313). -/
  moved : Bool
  team : Option Nat
  /-- The quad barrier of the team (R52). -/
  teamBar : Option (Fin 8)
  grant : Grant
  /-- The cycle of its last start or resume, and the budget in cycles that it took then (R42, R43). -/
  since : Nat
  budget : Nat
  /-- The model's own: the number of this activation of the record. -/
  act : Nat
  deriving DecidableEq, Repr

/-- A run of bytes of physical memory. -/
structure Run where
  pa : Nat
  len : Nat
  deriving DecidableEq, Repr

/-- One element of an access: its number, its VA and its place. -/
structure Elem where
  j : Nat
  va : VA
  loc : Loc
  deriving DecidableEq, Repr

/-- An instruction on several tiles between its events: the elements still to come, the values read, and the elements that were absent
(R197, R351). -/
structure TileStep where
  elems : List Elem
  vals : List (Nat × Word)
  absent : List Nat
  deriving DecidableEq, Repr

/-- One hardware context (R73). -/
structure Slot where
  x : Vector Word 32
  v : Vector VReg 64
  p : Vector (BitVec 32) 8
  k : Vector Word 64
  cnt : Counters
  fflags : BitVec 5
  frm : BitVec 3
  pc : VA
  dom : Dom
  status : SlotStatus
  task : Task
  q : Vector QCount 4
  /-- Queues of which a command of the task has completed with a release at quad scope or wider (R138, R218). -/
  eng : BitVec 4
  /-- The model's own: accesses of the core numbered below this may happen before what the slot does next, since it has made an acquire
  wider than its slot after they issued (R215). -/
  acq : Nat
  /-- An instruction on several tiles that is under way (R351). -/
  tile : Option TileStep
  deriving DecidableEq, Repr

/-! ## Accesses and messages in flight -/

/-- Where a load's values go (R233, R235, R240, R264). -/
inductive LoadDest where
  | discard
  | x (r : BitVec 5) (sext : Bool)
  | v (r : BitVec 6)
  /-- n consecutive k registers (LDK). -/
  | k (r : BitVec 6) (n : Nat)
  /-- Eight x registers (TIDR). -/
  | xs (r : BitVec 5)
  /-- A v register, and a predicate with its value (LDX). -/
  | vx (r : BitVec 6) (pd : BitVec 3) (present : BitVec 32)
  deriving DecidableEq, Repr

/-- The atomic operations (R244). -/
inductive AmoKind where
  | add | and | or | xor | min | max | minn | maxn | swp | cas | fadd
  deriving DecidableEq, Repr

/-- What an access in flight does at its coherence point or target (R205, R244, R246, R249, R154, R263, R265). -/
inductive CpOp where
  | read
  | write (data : List Word)
  | amo (k : AmoKind) (src : Word) (expected : Word)
  | vamo (fadd : Bool) (data : List Word)
  | lr
  | sc (val : Word)
  | stats (amax : BitVec 32) (nans : Nat)
  | tidw (dws : List Word)
  | tidamx
  /-- LDX: its governed-on elements, and those found absent so far (R240). -/
  | ldx (on absent : List Nat)
  | xtest
  | erase
  deriving DecidableEq, Repr

/-- An access that has issued and waits for its pages, as its instruction gives it (R225, R365); its elements' places are still to be
found. -/
inductive HeldOp where
  | load
  /-- LDX: the predicate it writes, and its governed-on elements (R240). -/
  | ldx (r : BitVec 6) (pd : BitVec 3) (on : List Nat)
  | store (data : List Word)
  | amo (k : AmoKind) (src : Word) (expected : Word)
  | vamo (k : AmoKind) (data : List Word)
  | lr
  | sc (val : Word)
  /-- XTEST of so many tiles, and ERASE of so many bytes, from the address of the one element. -/
  | xtest (n : Nat)
  | erase (len : Nat)
  | flush
  | stats (amax : BitVec 32) (nans : Nat)
  | tidw (dws : List Word)
  | tidr
  | tidamx
  deriving DecidableEq, Repr

/-- The kind of an access in flight. -/
inductive PendKind where
  /-- It waits for a page that is pulled or migrates, of a task at U or not (R225, R365). -/
  | held (op : HeldOp) (u : Bool)
  /-- A load that waits at the L1 (R251, R207, R183). -/
  | waitLoad
  /-- A store that waits at the L1, with its bytes by PA. -/
  | waitStore (data : List (Nat × Byte))
  /-- A load through the L1: the bytes got so far, by PA, the fills that no tracker has been free for (R170, R183), and the elements whose
  bytes come from more than one place (R209). -/
  | load (got : List (Nat × Byte)) (todo : List Run) (mixed : List Nat)
  /-- A store: registrations and passed-through writes not yet acknowledged (R171, R173), and the values that bytes owned before have for
  every other agent until then, by PA (R207, R209). -/
  | store (acks : Nat) (before : List (Nat × Byte))
  /-- An access at a coherence point or target (R205). -/
  | cp (op : CpOp)
  /-- A FLUSH that waits at the L1 (R251). -/
  | waitFlush
  /-- FLUSH: write-backs not yet performed (R238). -/
  | flush (wbs : Nat)
  deriving DecidableEq, Repr

/-- An access that has issued and not completed (R76). -/
structure Pend where
  id : Nat
  slot : SlotId
  /-- The activation that issued it. -/
  act : Nat
  dom : Dom
  /-- The launch of the task, unless it is cross-domain, and its team: a launch waits for its tasks' accesses (R344). -/
  lid : Option Word
  team : Option Nat
  kind : PendKind
  /-- The instruction, for a fault record. -/
  pc : VA
  word : Word
  size : Nat
  /-- The elements still to be performed, and the values of those of a load that have been. -/
  elems : List Elem
  vals : List (Nat × Word)
  dest : LoadDest
  ord : MOrd
  scope : Scope
  /-- It counts in cnt.st, else in cnt.ld (R226). -/
  isStore : Bool
  /-- The cycle of its issue. -/
  since : Nat
  /-- Accesses of any slot numbered below this may have happened before it (R215). -/
  mark : Nat
  /-- Elements in cached memory, with the words of a store, that go to the L1 once those at coherence points are performed (R230). -/
  rest : List (Elem × Word)
  /-- An event of it on a tile has been performed: the next is a release at package scope if it writes (R351). -/
  tiled : Bool
  deriving DecidableEq, Repr

/-- Why a visitor is asked for a grain (R308). -/
inductive SnoopWhy where
  /-- For a fill or a registration of a domain. -/
  | rds (dom : Dom) | rdown (dom : Dom)
  /-- For an access in flight of a core. -/
  | rdna (g : CoreId) (pend : Nat)
  deriving DecidableEq, Repr

/-- A coherence message in flight (R170, R171, R174, R176, R177, R307, R308). -/
inductive Msg where
  | fillReq (g : CoreId) (dom : Dom) (r : Run) (grain : Nat)
  | hbmRead (g : CoreId) (dom : Dom) (r : Run)
  /-- A fill that waits for grains of its visitor slice (R184, R307). -/
  | farRead (g : CoreId) (dom : Dom) (r : Run) (grain : Nat)
  | fwdRead (owner : CoreId) (g : CoreId) (dom : Dom) (r : Run)
  /-- Fill data and its poisoned sectors (R180); it is kept as an entry unless an acquire has dropped it on the way (R174). -/
  | fillResp (g : CoreId) (dom : Dom) (pa : Nat) (data : List Byte) (keep : Bool) (bad : List Nat)
  | reg (g : CoreId) (pend : Nat) (r : Run) (grain : Nat)
  | regAck (g : CoreId) (pend : Nat) (r : Run)
  | recall (owner : CoreId) (r : Run)
  /-- A write-back; `recalled` answers a recall, `pend` names the FLUSH that waits for it, `bad` the poisoned sectors
  (R180). -/
  | writeBack (g : CoreId) (pa : Nat) (data : List Byte) (dereg recalled : Bool) (pend : Option Nat) (bad : List Nat)
  | dereg (g : CoreId) (r : Run) (recalled : Bool)
  | rds (d : DieId) (dom : Dom) (grain : Run)
  | rdown (d : DieId) (dom : Dom) (grain : Run)
  | rdna (g : CoreId) (pend : Nat) (d : DieId) (grain : Run)
  | snoop (owner : DieId) (why : SnoopWhy) (d : DieId) (grain : Run)
  | inval (holder : DieId) (grain : Run)
  /-- An access of core g's pending list at its coherence point or target. -/
  | cp (g : CoreId) (pend : Nat)
  /-- Bytes of a store for which the L1 had no room (R173). -/
  | through (g : CoreId) (pend : Nat) (pa : Nat) (data : List Byte)
  /-- A posted store's acknowledgement from a fabric node (R224, R344); the launch it counts for. -/
  | posted (g : CoreId) (pend : Nat) (lid : Option Word)
  deriving DecidableEq, Repr

/-! ## The L1 range cache and translation caches -/

/-- The state of an L1 entry (R168). -/
inductive L1State where
  | clean | ownedClean | ownedDirty
  deriving DecidableEq, Repr

/-- An L1 entry (R168): the frame PA[51:12], the first byte within it, its bytes. -/
structure L1Entry where
  frame : Nat
  start : Nat
  data : List Byte
  state : L1State
  dom : Dom
  way : Fin 8
  poison : BitVec 128
  lru : Nat
  /-- The model's own: addresses within the frame, inside an aligned doubleword, at which bytes got at different times meet; an element
  across one takes its bytes as one event (R209). -/
  cuts : List Nat
  deriving DecidableEq, Repr

/-- A cached translation (R195). -/
structure TlbEntry where
  dom : Dom
  va : Nat
  level : Fin 4
  pte : Word
  /-- The physical address of the PTE, for the D bit. -/
  pteAt : Nat
  deriving DecidableEq, Repr

/-- A fetched instruction word (R143). -/
structure Fetched where
  dom : Dom
  va : VA
  word : Word
  deriving DecidableEq, Repr

/-- A cached tensor entry (R35). -/
structure TidCached where
  dom : Dom
  tid : Byte
  dws : Vector Word 8
  deriving DecidableEq, Repr

/-! ## Engines -/

/-- A range recorded by the scoreboard: VA, length, written or read (R261). -/
structure SbRange where
  va : Nat
  len : Nat
  written : Bool
  deriving DecidableEq, Repr

/-- The life of a command (R255, R257, R283). -/
inductive CmdState where
  | waiting
  /-- Begun or resumed, its work to be gone on with. -/
  | running
  /-- It waits for the homes of its contributions, or for the front end (R271, R280). -/
  | issued
  /-- Its work is done; it completes next with a status and a RESULT (R258). -/
  | done (status : Byte) (result : Word)
  /-- Stopped at a piece (R283). -/
  | stopped (code : TrapCode) (va : VA)
  deriving DecidableEq, Repr

/-- A command in a queue, with what ENQ captured (R254). -/
structure Cmd where
  pos : Fin 32
  tcw : Tcw
  dom : Dom
  slot : SlotId
  /-- LEVEL at ENQ: 0 U, 1 S, 2 H. -/
  level : BitVec 2
  seq : Word
  notify : Word
  frm : BitVec 3
  /-- The launch of the issuing task, unless it is cross-domain, its TIDX and its team (R22, R344). -/
  lid : Option Word
  tidx : BitVec 32
  team : Option Nat
  /-- The number of the issuing activation, so that a later task in the slot is not charged. -/
  act : Nat
  /-- Accesses of the issuing activation numbered below `rel`, and of any slot below `mark`, precede the ENQ (R215, R217). -/
  rel : Nat
  mark : Nat
  ranges : List SbRange
  /-- The tensor entries as read at ENQ, with their addresses (R36). -/
  tids : List (VA × Vector Word 8)
  st : CmdState
  /-- Destination bytes, entries, tiles or K-blocks performed (R284). -/
  progress : Nat
  /-- Bytes of an ordered ACCUM whose contributions have been sent to their granules (R271). -/
  sent : Nat
  /-- K-blocks skipped, tiles copied or segments written so far. -/
  count : Nat
  /-- Bytes read and not yet written: those of a copy, or the sum of a GSUM run. -/
  buf : List Byte
  /-- Numbers of its posted writes that a fabric node has not acknowledged (R218, R224). -/
  posted : List Nat
  deriving DecidableEq, Repr

/-- A command that has completed and not retired (R255). -/
structure DoneCmd where
  act : Nat
  q : QueueId
  seq : Word
  ok : Bool
  deriving DecidableEq, Repr

/-! ## Messages between tasks -/

/-- Where a message goes: a core of this device, or of a peer (R290, R291). -/
inductive MsgTarget where
  | local_ (g : CoreId)
  | peer (node : BitVec 10) (core : Nat)
  /-- TARGET or SUPCORE of the domain, resolved when it leaves (R260, R329). -/
  | vcore (v : Word)
  deriving DecidableEq, Repr

/-- A message of a core (R292). -/
structure OutMsg where
  slot : SlotId
  act : Nat
  dom : Dom
  target : MsgTarget
  tr : TaskRec
  committed : Bool
  /-- Accesses of the sender numbered below `rel`, and of any slot below `mark`, are performed before it leaves: its commit is a
  release (R215, R221). -/
  rel : Nat
  mark : Nat
  deriving DecidableEq, Repr

/-- A message accepted by the network (R292). -/
structure Transit where
  src : CoreId
  g : CoreId
  tr : TaskRec
  /-- A record that returns with its bar (R294, R313). -/
  barred : Bool
  deriving DecidableEq, Repr

/-- An inbox entry; `started` keeps the place of a message whose task runs (R295, R313). -/
structure InMsg where
  tr : TaskRec
  rank : BitVec 32
  started : Bool
  /-- Its last attempt took SENDQFULL (R294). -/
  barred : Bool
  deriving DecidableEq, Repr

/-- A record of a deque (R53). -/
structure DqRec where
  tr : TaskRec
  barred : Bool
  /-- It only keeps its place until its dead-letter entry is written (R327). -/
  dead : Bool
  deriving DecidableEq, Repr

/-! ## Cores -/

/-- The slice of an entry (R62, R349). -/
inductive SliceState where
  | closed
  /-- Open until the given cycle. -/
  | opened (until_ : Nat) (len : Nat)
  /-- Its opening waits for the overrun to end; it opens no later than the given cycle. -/
  | deferred (latest : Nat)
  deriving DecidableEq, Repr

/-- A partition entry and what hangs on it (R40 to R43, R53, R58, R62 to R64, R293, R295). -/
structure Part where
  a : Word
  b : Word
  slice : SliceState
  /-- SLICE as the slice under way took it, in cycles (R43). -/
  sliceNow : Nat
  /-- The cycle at which the slice closed while the domain still held a slot (R63). -/
  overrun : Option Nat
  /-- The cycle in which the domain's last overrun ended: a deferred slice opens in a later one (R62). -/
  freedAt : Nat
  debt : Nat
  forgiven : Nat
  /-- V_d as it stood at the cycle `vAt` (R58). -/
  vClock : Nat
  vAt : Nat
  /-- Cycles in which the domain held a slot, up to the cycle `vAt` (R372, event 0x0001). -/
  heldFor : Nat
  deque : List DqRec
  inReq : List InMsg
  inRep : List InMsg
  /-- Messages released in the egress window `egressWin` (R348). -/
  egressUsed : Nat
  egressWin : Nat
  /-- EGRESS as it stood when that window began (R43). -/
  egressCap : Nat
  /-- A save area given with DRAIN (R340). -/
  saveVa : Word
  deriving DecidableEq, Repr

/-- An event counter: EVSEL, EVC and the four sub-counts (R369, R370). -/
structure EvCtr where
  sel : Word
  total : Word
  sub : Vector Word 4
  deriving DecidableEq, Repr

/-- A steal request under way: the domain named, the round, and the next place to ask (R60). -/
structure Steal where
  round : Nat
  /-- The domain, and how many places of the round have been asked. -/
  asking : Option (Dom × Nat)
  /-- The cycle before which no new round begins. -/
  wait : Nat
  /-- The domain named has stopped being RUN or open since the round began. -/
  lost : Bool
  deriving DecidableEq, Repr

/-- A steal request or its answer on the relay network (R60, R61). -/
inductive StealMsg where
  | ask (thief victim : CoreId) (d : Dom)
  | answer (thief : CoreId) (d : Dom) (rec : Option TaskRec)
  deriving DecidableEq, Repr

/-- Arrival rank and spilling of one domain and network (R295, R296). -/
structure RankState where
  dom : Dom
  reply : Bool
  next : BitVec 32
  spilling : Bool
  /-- The ranks of its waystation entries that are cross-domain (R22). -/
  cross : List (BitVec 32)
  /-- The ranks of those that are barred (R294). -/
  barred : List (BitVec 32)
  /-- The cycle of the next retry after a failed access (R296). -/
  retry : Nat
  deriving DecidableEq, Repr

/-- The issue choice of one pipe: for each class and entry the deficit count and the slot that issued last, for each class the
position in entry order (R66). -/
structure Pipe where
  deficit : Vector (Vector Nat 4) 3
  pos : Vector PartId 3
  last : Vector (Vector SlotId 4) 3
  deriving DecidableEq, Repr

/-- A fill tracker (R183): the domain, and the bytes of the fill that have not arrived. -/
structure Fill where
  dom : Dom
  left : List Run
  deriving DecidableEq, Repr

/-- One core (R78). -/
structure Core where
  slots : Vector Slot 16
  part : Vector Part 4
  /-- The A pipe and the B pipe (R65, R66). -/
  pipes : Vector Pipe 2
  /-- The cycle at which the slice round under way ends (R62). -/
  roundEnd : Option Nat
  sendBuf : List OutMsg
  /-- Notices and supervisor records outside every share (R260, R329). -/
  outside : List OutMsg
  queues : Vector (List Cmd) 4
  doneCmds : List DoneCmd
  /-- Nonzero accumulator elements by index c * 4096 + i * 64 + j. -/
  acc : List (Nat × BitVec 32)
  scratch : List Host.Cell
  l1 : List L1Entry
  /-- The fill trackers in use (R183). -/
  fills : List Fill
  tlb : List TlbEntry
  fetched : List Fetched
  tidCache : List TidCached
  pend : List Pend
  l1ctl : Word
  ev : Vector EvCtr 8
  evdom : Word
  ranks : List RankState
  steal : Steal
  deriving DecidableEq, Repr

/-! ## Dies -/

/-- A barrier (R299). -/
structure Bar where
  owner : Option Dom
  /-- The launch and team of a team barrier (R52). -/
  team : Option (Word × Nat)
  e : Nat
  a : Nat
  phase : BitVec 32
  deriving DecidableEq, Repr

/-- The states of a grain at a visitor (R185); I is no entry. -/
inductive Moesi where
  | m | o | e | s
  deriving DecidableEq, Repr

/-- A grain held by a visitor slice (R184, R185). -/
structure Visitor where
  pa : Nat
  data : List Byte
  st : Moesi
  /-- Its way of the L2 set (R182, R184). -/
  way : Nat
  deriving DecidableEq, Repr

/-- The directory state of a grain (R308). -/
inductive DirState where
  | em | o | s
  deriving DecidableEq, Repr

/-- A directory entry (R186): its grain, the dies that hold it, the host bit, the owner. Most recent first. -/
structure DirEntry where
  pa : Nat
  len : Nat
  dies : BitVec 6
  host : Bool
  owner : Option DieId
  st : DirState
  deriving DecidableEq, Repr

/-- Registered bytes and their owning core (R176). -/
structure Owned where
  pa : Nat
  len : Nat
  g : CoreId
  deriving DecidableEq, Repr

/-- A range resident in an L2 slice (R182). -/
structure L2Entry where
  set : Nat
  way : Nat
  pa : Nat
  len : Nat
  deriving DecidableEq, Repr

/-- A depot (R202): its tiles, the top first. -/
structure Depot where
  dom : Dom
  tsz : BitVec 3
  pool : BitVec 4
  tiles : List Nat
  deriving DecidableEq, Repr

/-- A tile of the registry: its PA, its size and its domain (R243). -/
structure RegTile where
  pa : Nat
  tsz : BitVec 3
  dom : Dom
  deriving DecidableEq, Repr

/-- A cached region entry (R39). -/
structure RegionCached where
  dom : Dom
  idx : BitVec 6
  dws : Vector Word 8
  /-- The entry as it was read is valid (R38). -/
  ok : Bool
  deriving DecidableEq, Repr

/-- A contribution of an ordered ACCUM to one granule (R271). -/
structure Contribution where
  g : CoreId
  q : QueueId
  pos : Fin 32
  va : VA
  loc : Loc
  dom : Dom
  ety : EType
  count : BitVec 16
  slice : BitVec 16
  data : List Byte
  /-- The home slice of its granule. -/
  home : DieId × Fin 16
  /-- The cycle before which a refused contribution is not retried. -/
  retry : Nat
  /-- Its command has stopped at it: its place is to be found again (R286). -/
  stale : Bool
  deriving DecidableEq, Repr

/-- The open round of a granule (R271). -/
structure Round where
  dom : Dom
  loc : Loc
  len : Nat
  ety : EType
  count : BitVec 16
  next : BitVec 16
  deriving DecidableEq, Repr

/-- The teams of a launch that go to a die: those from lo up to hi (R45), or the ones a replay names (R346). -/
structure Teams where
  lo : Nat
  hi : Nat
  again : Option (List Nat)
  deriving DecidableEq, Repr

/-- A launch on a die: its teams, and how many of them are placed (R45, R47). -/
structure DieLaunch where
  lid : Word
  dom : Dom
  teams : Teams
  placed : Nat
  deriving DecidableEq, Repr

/-- A record on its way to a reserved slot (R51, R313). -/
structure Delivery where
  g : CoreId
  slot : SlotId
  tr : TaskRec
  team : Nat
  bar : Option (Fin 8)
  /-- Its last attempt took SENDQFULL (R294). -/
  barred : Bool
  deriving DecidableEq, Repr

/-- A launch record whose home core owes it a slot (R313, last row). -/
structure Owed where
  g : CoreId
  tr : TaskRec
  team : Nat
  bar : Option (Fin 8)
  barred : Bool
  deriving DecidableEq, Repr

/-- A pull of a page (R364, R365): the table entry and where the PTE is. -/
structure Pull where
  entry : Nat
  dom : Dom
  dpa : Nat
  len : Nat
  node : BitVec 10
  soff : Nat
  pteAt : Nat
  since : Nat
  /-- The tasks that wait for it: core, slot, activation, and the VA of the access. -/
  waiters : List (CoreId × SlotId × Nat × VA)
  /-- The tile commands that wait for it, and the VA of the piece. -/
  cmds : List (CoreId × QueueId × Fin 32 × VA)
  deriving DecidableEq, Repr

/-- One die. -/
structure Die where
  l2way : Vector Word 96
  binv : Word
  forceBusy : Bool
  perr : Word
  hostcap : BitVec 4
  quadBar : Vector (Vector Bar 8) 32
  dieBar : Vector Bar 64
  visitors : List Visitor
  dir : List DirEntry
  owned : List Owned
  l2 : List L2Entry
  /-- The fills whose data wait for the port of each slice, in its order: the core, the bytes, and whether the request still stands in the
  request queue, as one that has hit does (R183, R253). -/
  sliceQ : Vector (List (CoreId × Run × Bool)) 16
  depots : List Depot
  registry : List RegTile
  regions : List RegionCached
  quadTlb : List (Fin 32 × TlbEntry)
  /-- Pointer entries of the walk cache: the PA of the entry and its value. -/
  walk : List (Dom × Nat × Nat × Word)
  launches : List DieLaunch
  ptr : Fin 32
  domPtr : Dom
  deliveries : List Delivery
  owed : List Owed
  pulltab : Word
  pulls : List Pull
  powered : Bool
  /-- The firmware has stopped placement for a flush (R361). -/
  stopped : Bool
  /-- The flush of the die for gating has set SFCTL1.FORCE (R361). -/
  forced : Bool
  /-- Slice counters: 16 slices of 4, and the 16 counters of the die (R373). -/
  sliceCtr : Vector (Vector Word 4) 16
  dieCtr : Vector Word 16
  deriving DecidableEq, Repr

/-! ## Domains -/

/-- A packet of a launch queue (R355). -/
inductive Packet where
  | desc (ws : List Word)
  | ref (va : VA)
  deriving DecidableEq, Repr

/-- A launch queue (R355 to R358). -/
structure LaunchQueue where
  en : Bool
  priv : Bool
  submitted : BitVec 32
  baddesc : BitVec 16
  packets : List Packet
  deriving DecidableEq, Repr

/-- What waits for room in a fault queue: a task in a slot, or a notice (R323, R326). -/
inductive FqWait where
  | task (g : CoreId) (i : SlotId)
  | notice (r : FaultRec)
  deriving DecidableEq, Repr

/-- A dead letter that waits for room (R327). -/
structure DeadWait where
  tr : TaskRec
  fault : FaultRec
  g : CoreId
  /-- The slot it occupies, if it has no other place. -/
  slot : Option SlotId
  /-- The inbox entry it keeps: the network and the arrival rank. -/
  entry : Option (Bool × BitVec 32)
  team : Option Nat
  deriving DecidableEq, Repr

/-- Per-domain CSRs and what hangs on a domain. -/
structure Domain where
  ptroot : Word
  fqBase : Word
  fqSize : Word
  fqHead : Word
  fqTail : Word
  fqOvf : Word
  fpBase : Word
  /-- NF and FREE (R320). -/
  fpNf : BitVec 16
  fpFree : BitVec 16
  spillBase : Word
  spillSize : Word
  deadq : Word
  gateBase : Word
  gateLen : Word
  tidtab : Word
  regiontab : Word
  supcore : Word
  suphandler : Word
  notify : Vector Word 4
  coremap : Word
  vf : BitVec 7
  lq : Vector LaunchQueue 4
  fqWait : List FqWait
  /-- The cycle of the next retry of a failed fault-queue write (R326). -/
  fqRetry : Nat
  dlWait : List DeadWait
  /-- Coalesced KIND 7 notices: core and area (R323). -/
  kind7 : List (CoreId × Fin 3)
  /-- Barred records in spill blocks: the number of the block and the index of the record (R294). -/
  spillBarred : List (Nat × Nat)
  /-- Returned deque records of continuations whose home core, named, admits the domain no more (R313; log 71). -/
  homeless : List (CoreId × DqRec)
  /-- Frames that are free but for their bit, whose page could not be reached, each with the core that freed it and the cycle of the next
  try (R320, R381). -/
  unfreed : List (CoreId × VA × Nat)
  deriving DecidableEq, Repr

/-! ## The package -/

/-- An accepted launch that is not complete (R26 to R32, R344, R346). -/
structure Launch where
  lid : Word
  desc : List Word
  /-- DOM of the descriptor, under which the front end writes (R31). -/
  dom : Dom
  teams : Nat
  /-- Teams reported retired, with the die that retired each. -/
  retired : List (Nat × DieId)
  /-- Tasks of a team that have retired. -/
  ended : List (Nat × Nat)
  /-- The dies to which teams were sent. -/
  ranges : List (DieId × Teams)
  /-- SVC of its records: the virtual core of a DISPATCH, or 0x3FF (R21). -/
  svc : BitVec 10
  dead : Nat
  remote : Nat
  lost : Bool
  tacc : Word
  deriving DecidableEq, Repr

/-- A change of a task's counters: an operation of a class has completed, or a command of a queue has retired with its
status OK or not (R76, R255, R256). -/
inductive CntUpd where
  | ld | st | sd
  | cmd (q : Fin 3)
  | ret (q : QueueId) (ok : Bool)
  deriving DecidableEq, Repr

/-- A parked or suspended task (R68, R317). -/
structure Cont where
  id : Nat
  dom : Dom
  frame : VA
  home : CoreId
  wake : Wake
  /-- The cycle of the park, and its release: accesses of the task numbered below `rel`, and of any slot below `mark`, are performed
  before it goes on (R69, R137, R215). -/
  since : Nat
  rel : Nat
  mark : Nat
  suspended : Bool
  startable : Bool
  /-- A KIND 2 notice has been written for its frame (R334). -/
  noticed : Bool
  /-- It does not start before this cycle (R381). -/
  notBefore : Nat
  /-- The task facts a frame does not hold. -/
  task : Task
  /-- Changes of its counters that could not reach the frame, made at its resumption (R76, R381). -/
  late : List CntUpd
  /-- The doublewords of its frame as a RESUME found them (R319, R334). -/
  image : Option (List Word)
  act : Nat
  deriving DecidableEq, Repr

/-- A watched word (R69): registered at its home, or re-read by the home core at a cycle. -/
structure Watch where
  cont : Nat
  dom : Dom
  va : VA
  loc : Loc
  expected : Word
  reread : Option Nat
  /-- The home slice at which it is registered. -/
  home : DieId × Fin 16
  deriving DecidableEq, Repr

/-- A reservation of LR (R246, R247). -/
structure Reservation where
  g : CoreId
  slot : SlotId
  dom : Dom
  va : VA
  size : Nat
  loc : Loc
  since : Nat
  /-- The home slice that holds it, but for scratch. -/
  home : Option (DieId × Fin 16)
  deriving DecidableEq, Repr

/-- DEVSTATE and the start-up record (R367, R368). -/
structure DevState where
  phase : Byte
  warmFail : BitVec 2
  cold : Bool
  deriving DecidableEq, Repr

/-- A start under way: cold or warm, what it finds, and the step that fails (R368). -/
structure Starting where
  cold : Bool
  ctx : WarmCtx
  deriving DecidableEq, Repr

/-- A migration under way of an MT 00 page (R225): its domain, the old and the new frame, their length, and its PTE. -/
structure Migration where
  dom : Dom
  src : Nat
  dst : Nat
  len : Nat
  pteAt : Nat
  deriving DecidableEq, Repr

/-- An entry of the host grant table (R360). -/
structure Grain where
  pa : Nat
  len : Nat
  st : Moesi
  deriving DecidableEq, Repr

/-- The response to a doorbell write (R356). -/
inductive DoorbellRes where
  | notReady | denied | disabled | full | accepted
  deriving DecidableEq, Repr

/-- What the device answers or reports to the world outside, newest first. -/
inductive Report where
  | answer (node : BitVec 10) (ok : Bool) (data : List Byte)
  | snoop (pa : Nat) (present : Bool) (poison : Bool) (data : List Byte)
  | doorbell (node : BitVec 10) (r : DoorbellRes)
  /-- A message to a core of a peer device (R291). -/
  | message (node : BitVec 10) (core : Nat) (ws : List Word)
  /-- A soft error: its die and its structure, a core or 0x300 and a slice (R374). -/
  | softError (die : Nat) (structure_ : Nat)
  | attestation (ws : List Word)
  | lifetime (hours : Nat)
  /-- What befalls a pod barrier, told to the pod's other devices (R299, R300). -/
  | pod (b : Fin 8) (x : PodNews)
  deriving DecidableEq, Repr

/-- The agent for which an instruction or command is executed. -/
inductive Agent where
  | slot (g : CoreId) (i : SlotId)
  | cmd (g : CoreId) (q : QueueId) (pos : Fin 32)
  deriving DecidableEq, Repr

/-- Who moves next: a slot issues, an engine works on a command, for as long as it can or on so many bytes, or a device event
takes place. -/
inductive Move where
  | issue (g : CoreId) (i : SlotId)
  /-- The same; an access to scratch or tiles that issues is performed later (R211, R380). -/
  | defer (g : CoreId) (i : SlotId)
  | work (g : CoreId) (q : QueueId) (pos : Fin 32)
  | piece (g : CoreId) (q : QueueId) (pos : Fin 32) (n : Nat)
  | event (e : Instr)
  deriving DecidableEq, Repr

/-- The state of the device. -/
structure State where
  cores : Vector Core 768
  dies : Vector Die 6
  doms : Vector Domain 256
  mem : List Host.Cell
  fabric : List Host.Cell
  poison : List Nat
  cycle : Nat
  time : Nat
  cycleOff : Vector Word 96
  timeOff : Vector Word 96
  launches : List Launch
  lastLid : BitVec 16
  pkgBar : Vector Bar 32
  podBar : Vector Bar 8
  net : List Msg
  transit : List Transit
  steals : List StealMsg
  /-- Open rounds of ordered ACCUM at their home slices (R271). -/
  rounds : List Round
  /-- Contributions on their way, staged (waiting for their turn), and refused. -/
  contribs : List Contribution
  staged : List Contribution
  refused : List Contribution
  conts : List Cont
  watches : List Watch
  resv : List Reservation
  migrations : List Migration
  nodes : List (BitVec 10 × NodeEntry)
  edges : BitVec 7
  dev : DevState
  grants : List Grain
  /-- Bytes of host grains in M or O lost to a reset that prevented the flush (R360). -/
  lostGrains : List Run
  throttle : Nat
  /-- The start under way, and what PHASE goes through in it (R367, R368). -/
  starting : Option Starting
  voltPlan : List (Nat × Int)
  volt : List (Nat × Int)
  /-- The 8 path-delay monitors of each quad as they were last read, and their baseline (R375). -/
  delay : Vector (Vector Word 8) 192
  delayBase : Vector (Vector Word 8) 192
  debugOpen : Bool
  reports : List Report
  /-- The round-robin pointer of the front end over its sources (R280). -/
  fePtr : Nat
  /-- The model's own: activations numbered, pending accesses and continuations numbered. -/
  nextAct : Nat
  nextPend : Nat
  nextCont : Nat
  /-- The model's own: steps taken, the argument of free values. -/
  now : Nat
  /-- The model's own: the bytes, in whole elements, that an engine moves at most in its turn, or 0 for all that is left (R305). -/
  piece : Nat
  /-- The model's own: scratch and tile accesses that issue now are performed later (R211, R380). -/
  later : Bool
  /-- The model's own: which agent executes, and which agents move next. -/
  agent : Agent
  agenda : List Move
  deriving DecidableEq, Repr

/-! ## Stops -/

/-- Reasons for which a step stops with a fault. Every trap of the spec is a next state, so only these remain. -/
inductive Fault where
  /-- Raised by a step of a halted or failed device: nothing runs until the next start (R367). Safe. -/
  | deviceHalted
  deriving DecidableEq, Repr

/-- Reasons for which a step is refused. -/
inductive Refusal where
  /-- Raised by an arm of exec whose instruction has no meaning yet. Safe: nothing can be proved of it. -/
  | notModelled (mnemonic : String)
  deriving DecidableEq, Repr

/-! ## Reset -/

/-- An empty record. -/
def TaskRec.zero : TaskRec := ⟨0, Vector.replicate 6 0, 0, false⟩
/-- No grant (R298). -/
def Grant.none : Grant := ⟨false, false, 0, 0, 0⟩
/-- Counters at zero. -/
def Counters.zero : Counters := ⟨0, 0, 0, 0, 0, 0⟩
/-- The task facts of a slot that has run nothing. -/
def Task.none : Task := ⟨TaskRec.zero, .deque, 0, false, Option.none, Option.none, Grant.none, 0, 0, 0⟩
/-- A slot after reset: registers zero (R368 step 7), free. -/
def Slot.reset : Slot :=
  ⟨Vector.replicate 32 0, Vector.replicate 64 0, Vector.replicate 8 0, Vector.replicate 64 0, Counters.zero, 0, 0, 0, 0,
    .free, Task.none, Vector.replicate 4 ⟨0, 0, 0⟩, 0, 0, none⟩
/-- A partition entry after reset: EMPTY (R40, R41). -/
def Part.reset : Part := ⟨0, 0, .closed, 0, none, 0, 0, 0, 0, 0, 0, [], [], [], 0, 0, 0, 0⟩
/-- A pipe after reset: no deficit, the first entry and slot 0 the next to be reached (log 2). -/
def Pipe.reset : Pipe := ⟨Vector.replicate 3 (Vector.replicate 4 0), Vector.replicate 3 3, Vector.replicate 3 (Vector.replicate 4 15)⟩
/-- A core after reset: every queue and cache empty (R368). -/
def Core.reset : Core :=
  ⟨Vector.replicate 16 Slot.reset, Vector.replicate 4 Part.reset, Vector.replicate 2 Pipe.reset, none, [], [], Vector.replicate 4 [], [], [], [], [], [], [],
    [], [], [], 0, Vector.replicate 8 ⟨0, 0, Vector.replicate 4 0⟩, 0, [], ⟨0, none, 0, false⟩⟩
/-- A free barrier. -/
def Bar.free : Bar := ⟨none, none, 0, 0, 0⟩
/-- A die after reset: L2WAY at 0xFFFF (R182), the domain pointer at 255 (R383), all else empty. -/
def Die.reset : Die :=
  ⟨Vector.replicate 96 0xFFFF, 0, false, 0, 0, Vector.replicate 32 (Vector.replicate 8 Bar.free),
    Vector.replicate 64 Bar.free, [], [], [], [], Vector.replicate 16 [], [], [], [], [], [], [], 0, 255, [], [], 0, [], true, false, false,
    Vector.replicate 16 (Vector.replicate 4 0), Vector.replicate 16 0⟩
/-- A launch queue after reset (R357, R358). -/
def LaunchQueue.reset : LaunchQueue := ⟨false, false, 0, 0, []⟩
/-- A domain after reset, in the given VF. -/
def Domain.reset (vf : BitVec 7) : Domain :=
  ⟨0, 0, 0, 0, 0, 0, 0, 0, 0, 0, 0, 0, 0, 0, 0, 0, 0, 0, Vector.replicate 4 0, 0, vf, Vector.replicate 4 LaunchQueue.reset,
    [], 0, [], [], [], [], []⟩
/-- The VF of a domain before the hypervisor sets another (log 3; R18). -/
def vfOfDom (d : Nat) : BitVec 7 := if d = 0 then 0 else BitVec.ofNat 7 ((d - 1) % 95 + 1)
/-- The domains after reset. -/
def domsReset : Vector Domain 256 := ⟨⟨(List.range 256).map (fun d => Domain.reset (vfOfDom d))⟩, by simp⟩

/-- The machine right after reset: every CSR, queue and cache at its reset value, memory zero, no task, PHASE 0 with a cold start to be
performed (R367, R368). -/
def State.reset : State where
  cores := Vector.replicate 768 Core.reset
  dies := Vector.replicate 6 Die.reset
  doms := domsReset
  mem := []
  fabric := []
  poison := []
  cycle := 0
  time := 0
  cycleOff := Vector.replicate 96 0
  timeOff := Vector.replicate 96 0
  launches := []
  lastLid := 0xFFFF
  pkgBar := Vector.replicate 32 Bar.free
  podBar := Vector.replicate 8 Bar.free
  net := []
  transit := []
  steals := []
  rounds := []
  contribs := []
  staged := []
  refused := []
  conts := []
  watches := []
  resv := []
  migrations := []
  nodes := []
  edges := 0x7F
  dev := ⟨0, 0, false⟩
  grants := []
  lostGrains := []
  throttle := 0
  starting := some ⟨true, ⟨false, false, false, none⟩⟩
  voltPlan := []
  volt := []
  delay := Vector.replicate 192 (Vector.replicate 8 0)
  delayBase := Vector.replicate 192 (Vector.replicate 8 0)
  debugOpen := false
  reports := []
  fePtr := 0
  nextAct := 1
  nextPend := 0
  nextCont := 0
  now := 0
  piece := 0
  later := false
  agent := .slot 0 0
  agenda := []

end Sys2Proof.Machine
end

