-- ==== Sys2Proof/Machine/Operands.lean ====
section
/-! DEFINITION. Reading and writing the registers of a slot: every operand form of R80, R81, R87, R127 and R144. -/

namespace Sys2Proof.Machine

/-- x[n]; x0 reads zero (R73). -/
def Slot.readX (sl : Slot) (n : BitVec 5) : Word := if n = 0 then 0 else sl.x[n.toNat]'(by have := n.isLt; omega)

/-- x[n] := w; a write to x0 is discarded (R73). -/
def Slot.writeX (sl : Slot) (n : BitVec 5) (w : Word) : Slot :=
  if n = 0 then sl else { sl with x := sl.x.set n.toNat w (by have := n.isLt; omega) }

/-- v[n]. -/
def Slot.readV (sl : Slot) (n : BitVec 6) : VReg := sl.v[n.toNat]'(by have := n.isLt; omega)

/-- v[n] := r. -/
def Slot.writeV (sl : Slot) (n : BitVec 6) (r : VReg) : Slot :=
  { sl with v := sl.v.set n.toNat r (by have := n.isLt; omega) }

/-- k[n]. -/
def Slot.readK (sl : Slot) (n : BitVec 6) : Word := sl.k[n.toNat]'(by have := n.isLt; omega)

/-- k[n] := w (LDK alone, and the start of a task: R73). -/
def Slot.writeK (sl : Slot) (n : BitVec 6) (w : Word) : Slot :=
  { sl with k := sl.k.set n.toNat w (by have := n.isLt; omega) }

/-- p[n]; p0 reads all ones (R73). -/
def Slot.readP (sl : Slot) (n : BitVec 3) : BitVec 32 :=
  if n = 0 then 0xFFFFFFFF else sl.p[n.toNat]'(by have := n.isLt; omega)

/-- p[n] := m; p0 is never a destination (R73). -/
def Slot.writeP (sl : Slot) (n : BitVec 3) (m : BitVec 32) : Slot :=
  if n = 0 then sl else { sl with p := sl.p.set n.toNat m (by have := n.isLt; omega) }

/-- Flags are ORed into FFLAGS (R73, R96). -/
def Slot.orFlags (sl : Slot) (f : BitVec 5) : Slot := { sl with fflags := sl.fflags ||| f }

/-- A specifier literal as a signed integer (R80). -/
def litInt (n : BitVec 6) : Int := n.toInt

/-- A literal converted to a type (R81). -/
def literal (n : BitVec 6) (t : Ty) : Word :=
  if t.isInt then patOf t (litInt n)
  else (roundStd t .rne false (.fin (decide (litInt n < 0)) (litInt n).natAbs 0 false)).1

/-- The low w bits of a word. -/
def lowBits (t : Ty) (w : Word) : Word := BitVec.ofNat 64 (w.toNat % 2 ^ t.width)

/-- Src(s, T) (R127): the w-bit pattern of a scalar source. -/
def Slot.src (sl : Slot) (s : Spec) (t : Ty) : Word :=
  match s with
  | .x n => lowBits t (sl.readX n)
  | .c n => lowBits t (sl.readK n)
  | .lit n => literal n t
  | .v _ => 0

/-- Src(s, n64), a literal being sign-extended (R81). -/
def Slot.srcW (sl : Slot) (s : Spec) : Word := sl.src s .n64

/-- A source read as a count: a literal is signed, a register unsigned of the type's width (R81, R129, R146). -/
def Slot.srcCount (sl : Slot) (s : Spec) (t : Ty) : Int :=
  match s with
  | .lit n => litInt n
  | s => ((sl.src s t).toNat : Int)

/-- The extension of a w-bit result to 64 bits (R77). -/
def extend (t : Ty) (w : Word) : Word := if t.isS then patOf .n64 (intOf t w) else lowBits t w

/-- WriteX(d, r, T) (R127). -/
def Slot.wr (sl : Slot) (d : Spec) (t : Ty) (r : Word) : Slot :=
  match d with
  | .x n => sl.writeX n (extend t r)
  | _ => sl

/-- A 64-bit result into an x destination. -/
def Slot.wrW (sl : Slot) (d : Spec) (r : Word) : Slot := sl.wr d .n64 r

/-- A predicate destination (R80). -/
def Slot.wrP (sl : Slot) (d : Spec) (m : BitVec 32) : Slot :=
  match d with
  | .c n => sl.writeP (n.setWidth 3) m
  | _ => sl

/-- A vector destination. -/
def Slot.wrV (sl : Slot) (d : Spec) (r : VReg) : Slot :=
  match d with
  | .v n => sl.writeV n r
  | _ => sl

/-- The effective mask P (R87). -/
def Slot.mask (sl : Slot) (pn : Bool) (pred : BitVec 3) : BitVec 32 :=
  if pn then ~~~ sl.readP pred else sl.readP pred

/-- The guard P[0] (R87). -/
def Slot.guard (sl : Slot) (pn : Bool) (pred : BitVec 3) : Bool := (sl.mask pn pred).getLsbD 0

/-- Gov(j, s): the bit of a mask that governs element j of s bytes (R74, R144). -/
def gov (m : BitVec 32) (s j : Nat) : Bool := if s ≤ 4 then m.getLsbD (s * j / 4) else m.getLsbD (2 * j)

/-- Element j, of s bytes, of a vector (R74). -/
def elemOf (r : VReg) (s j : Nat) : Word := BitVec.ofNat 64 (r.toNat / 2 ^ (8 * s * j) % 2 ^ (8 * s))

/-- VSrc(spec, T, j) (R144). -/
def Slot.vsrc (sl : Slot) (s : Spec) (t : Ty) (j : Nat) : Word :=
  match s with
  | .v n => elemOf (sl.readV n) t.size j
  | s => sl.src s t

/-- Element j of a vector source as a count (R81, R146). -/
def Slot.vcount (sl : Slot) (s : Spec) (t : Ty) (j : Nat) : Int :=
  match s with
  | .lit n => litInt n
  | s => ((sl.vsrc s t j).toNat : Int)

/-- The bits of n consecutive fields of b bits each, field j from `f j`, as one number. -/
def packFields (b : Nat) (f : Nat → Nat) : Nat → Nat
  | 0 => 0
  | n + 1 => packFields b f n + f n % 2 ^ b * 2 ^ (b * n)

/-- A vector register from its n elements of s bytes; what lies beyond them is zero. -/
def vbuild (s n : Nat) (f : Nat → Word) : VReg := BitVec.ofNat 1024 (packFields (8 * s) (fun j => (f j).toNat) n)

/-- A vector register whose governed-on elements come from `f` and whose others stay as in `old` (R75). -/
def vmerge (m : BitVec 32) (s : Nat) (old : VReg) (f : Nat → Word) : VReg :=
  vbuild s (128 / s) (fun j => if gov m s j then f j else elemOf old s j)

/-- A predicate from its 32 bits. -/
def pbuild (f : Nat → Bool) : BitVec 32 := BitVec.ofNat 32 (packFields 1 (fun i => if f i then 1 else 0) 32)

/-- The union of the flags of the governed-on elements (R75, R144). -/
def govFlags (m : BitVec 32) (s n : Nat) (f : Nat → BitVec 5) : BitVec 5 :=
  (List.range n).foldl (fun a j => if gov m s j then a ||| f j else a) 0

/-- What a specifier names as a source. -/
inductive RegName where
  | x (n : BitVec 5)
  | v (n : BitVec 6)
  | k (n : BitVec 6)
  | p (n : BitVec 3)
  deriving DecidableEq, Repr

/-- Registers that an access in flight will write. -/
def LoadDest.regs (d : LoadDest) : List RegName :=
  match d with
  | .discard => []
  | .x r _ => if r = 0 then [] else [.x r]
  | .v r => [.v r]
  | .k r n => (List.range n).map (fun i => .k (r + BitVec.ofNat 6 i))
  | .xs r => (List.range 8).map (fun i => .x (r + BitVec.ofNat 5 i))
  | .vx r pd _ => [.v r, .p pd]

end Sys2Proof.Machine
end

