-- ==== Sys2Proof/Machine/Access.lean ====
section
/-! DEFINITION. Reading and replacing one part of the state: a core, a slot, a partition entry, a die, a domain. Every
change of the state goes through these. -/

namespace Sys2Proof.Machine

/-- Core g. -/
def State.core (s : State) (g : CoreId) : Core := s.cores[g]
/-- Slot i of core g. -/
def State.slot (s : State) (g : CoreId) (i : SlotId) : Slot := (s.core g).slots[i]
/-- Die d. -/
def State.die (s : State) (d : DieId) : Die := s.dies[d]
/-- The records of a domain. -/
def State.dom (s : State) (d : Dom) : Domain := s.doms[d.toNat]'(by have := d.isLt; omega)

/-- Core g := c. -/
def State.setCore (s : State) (g : CoreId) (c : Core) : State := { s with cores := s.cores.set g c }
/-- Core g changed by f. -/
def State.modCore (s : State) (g : CoreId) (f : Core → Core) : State := s.setCore g (f (s.core g))
/-- Slot i of a core := sl. -/
def Core.setSlot (c : Core) (i : SlotId) (sl : Slot) : Core := { c with slots := c.slots.set i sl }
/-- Slot i of core g := sl. -/
def State.setSlot (s : State) (g : CoreId) (i : SlotId) (sl : Slot) : State := s.setCore g ((s.core g).setSlot i sl)
/-- Slot i of core g changed by f. -/
def State.modSlot (s : State) (g : CoreId) (i : SlotId) (f : Slot → Slot) : State := s.setSlot g i (f (s.slot g i))
/-- Die d changed by f. -/
def State.modDie (s : State) (d : DieId) (f : Die → Die) : State := { s with dies := s.dies.set d (f (s.die d)) }
/-- Domain d changed by f. -/
def State.modDom (s : State) (d : Dom) (f : Domain → Domain) : State :=
  { s with doms := s.doms.set d.toNat (f (s.dom d)) (by have := d.isLt; omega) }
/-- Partition entry e of core g changed by f. -/
def State.modPart (s : State) (g : CoreId) (e : PartId) (f : Part → Part) : State :=
  s.modCore g (fun c => { c with part := c.part.set e (f c.part[e]) })

/-- The mode of a slot's task at issue, FRM resolved (R89). -/
def Slot.modeOf (sl : Slot) (m : RMode) : RMode := resolveMode m sl.frm

/-- Is a register of the list awaited by a load of the slot's task in flight (R65)? -/
def Core.awaits (c : Core) (i : SlotId) (l : List RegName) : Bool :=
  c.pend.any (fun p => p.slot == i && p.act == c.slots[i].task.act && p.dest.regs.any (fun r => l.contains r))

/-- The registers that specifiers name; a kind 10 specifier may be a k source or a p destination. -/
def specRegs (l : List Spec) : List RegName :=
  l.flatMap (fun s => match s with
    | .x n => if n = 0 then [] else [.x n]
    | .v n => [.v n]
    | .c n => [.k n, .p (n.setWidth 3)]
    | .lit _ => [])

/-- Every register that an R-format instruction reads or writes, predicates of IMM12 included. -/
def rRegs (f : FmtR) : List RegName :=
  .p f.pred :: .p (f.imm.extractLsb' 0 3) :: .p (f.imm.extractLsb' 3 3) :: specRegs [f.dst, f.sa, f.sb, f.sc]

end Sys2Proof.Machine
end

