-- ==== Sys2Proof/Machine/Mem.lean ====
section
/-! DEFINITION. Bytes at their homes and the current value of a byte: the cells of memory in canonical form, ownership
records, and the coherence point (R165, R166, R176, R177, R205). -/

namespace Sys2Proof.Machine

/-! ## Cells -/

/-- The byte at an address; an unlisted address reads as `d` says. -/
def cellRead (d : Nat → Byte) : List Host.Cell → Nat → Byte
  | [], a => d a
  | (k, v) :: l, a => if k = a then v else if a < k then d a else cellRead d l a

/-- The cells with one byte written, in canonical form: rising addresses, no entry equal to what an unlisted address reads
as. -/
def cellWrite (d : Nat → Byte) : List Host.Cell → Nat → Byte → List Host.Cell
  | [], a, b => if b = d a then [] else [(a, b)]
  | (k, v) :: l, a, b =>
    if a < k then (if b = d a then (k, v) :: l else (a, b) :: (k, v) :: l)
    else if a = k then (if b = d a then l else (a, b) :: l)
    else (k, v) :: cellWrite d l a b

/-- The canonical form, for addresses above a bound. -/
def cellsFrom (d : Nat → Byte) : Nat → List Host.Cell → Bool
  | _, [] => true
  | n, (k, v) :: l => decide (n ≤ k) && v != d k && cellsFrom d (k + 1) l

/-- The canonical form of memory. -/
def Memory.wf (d : Nat → Byte) (l : List Host.Cell) : Bool := cellsFrom d 0 l

/-- n bytes from an address. -/
def cellsRead (d : Nat → Byte) (l : List Host.Cell) : Nat → Nat → List Byte
  | _, 0 => []
  | a, n + 1 => cellRead d l a :: cellsRead d l (a + 1) n

/-- Consecutive bytes written from an address. -/
def cellsWrite (d : Nat → Byte) (l : List Host.Cell) : Nat → List Byte → List Host.Cell
  | _, [] => l
  | a, b :: bs => cellsWrite d (cellWrite d l a b) (a + 1) bs

/-- What an unlisted byte of device memory or scratch reads as: zero (R368 steps 6 and 7). -/
def zeroByte (_ : Nat) : Byte := 0

/-- A little-endian number from bytes. -/
def numOf : List Byte → Nat
  | [] => 0
  | b :: bs => b.toNat + 256 * numOf bs

/-- A doubleword from bytes. -/
def wordOf (l : List Byte) : Word := BitVec.ofNat 64 (numOf l)

/-- The low n bytes of a number, little-endian. -/
def bytesOf : Nat → Nat → List Byte
  | 0, _ => []
  | n + 1, x => BitVec.ofNat 8 x :: bytesOf n (x / 256)

/-- Doublewords as bytes. -/
def wordsBytes (ws : List Word) : List Byte := ws.flatMap (fun w => bytesOf 8 w.toNat)

/-- Bytes as doublewords. -/
def bytesWords : Nat → List Byte → List Word
  | 0, _ => []
  | n + 1, l => wordOf (l.take 8) :: bytesWords n (l.drop 8)

/-! ## Places -/

/-- The address lies in the fabric window (R166). -/
def isFabric (pa : Nat) : Bool := decide (2 ^ 51 ≤ pa)

/-- The die of a device address; dies 6 and 7 do not exist, and no walk yields them (R166). -/
def dieOf (pa : Nat) : DieId := ⟨pa / 2 ^ 38 % 8 % 6, by omega⟩

/-- The xor of the 4-bit groups of a number, n groups (R181). -/
def foldFour : Nat → Nat → Nat
  | 0, _ => 0
  | n + 1, v => (v % 16) ^^^ foldFour n (v / 16)

/-- Home(PA): the slice number (R181). -/
def homeSlice (pa : Nat) : Fin 16 := ⟨foldFour 8 (pa / 2 ^ 9 % 2 ^ 30) % 16, by omega⟩

/-- The slice of a tile: Fold4(i) xor Fold4(t) (R196). -/
def tileSlice (i t : Nat) : Fin 16 := ⟨(foldFour 16 i ^^^ foldFour 16 t) % 16, by omega⟩

/-- Bytes of a coherence grain (R185). -/
def grainSize (g : Nat) : Nat := if g = 0 then 32 else if g = 1 then 128 else 512

/-- A byte of the home copy: HBM and L2, or the fabric node (R166, R177). -/
def State.homeByte (s : State) (pa : Nat) : Byte :=
  if isFabric pa then cellRead Config.fabricByte s.fabric pa else cellRead zeroByte s.mem pa

/-- A byte written at its home. -/
def State.homeWriteByte (s : State) (pa : Nat) (b : Byte) : State :=
  if isFabric pa then { s with fabric := cellWrite Config.fabricByte s.fabric pa b }
  else { s with mem := cellWrite zeroByte s.mem pa b }

/-- Bytes written at their homes, without their effect on poison. -/
def State.homeBytes (s : State) : Nat → List Byte → State
  | _, [] => s
  | pa, b :: bs => (s.homeWriteByte pa b).homeBytes (pa + 1) bs

/-- Sectors of which every byte is written lose their poison (R180). -/
def State.clearPoison (s : State) (pa n : Nat) : State :=
  if s.poison.isEmpty then s
  else { s with poison := s.poison.filter (fun x => !(decide (pa ≤ 32 * x) && decide (32 * x + 32 ≤ pa + n))) }

/-- Bytes written at their homes; a sector written in full loses its poison (R180). -/
def State.homeWrite (s : State) (pa : Nat) (l : List Byte) : State := (s.homeBytes pa l).clearPoison pa l.length

/-! ## Runs -/

/-- Two runs have a common byte. -/
def Run.meets (a b : Run) : Bool := decide (a.pa < b.pa + b.len) && decide (b.pa < a.pa + a.len)

/-- A run without the bytes of another: at most two runs. -/
def Run.minus (a b : Run) : List Run :=
  if a.meets b then
    (if a.pa < b.pa then [⟨a.pa, b.pa - a.pa⟩] else []) ++
      (if b.pa + b.len < a.pa + a.len then [⟨b.pa + b.len, a.pa + a.len - (b.pa + b.len)⟩] else [])
  else [a]

/-- Runs without the bytes of others. -/
def runsMinus (l : List Run) (cut : List Run) : List Run := cut.foldl (fun l c => l.flatMap (fun r => r.minus c)) l

/-- The common part of two runs. -/
def Run.common (a b : Run) : Option Run :=
  let lo := max a.pa b.pa
  let hi := min (a.pa + a.len) (b.pa + b.len)
  if lo < hi then some ⟨lo, hi - lo⟩ else none

/-- A run cut at the multiples of a block size; `fuel` bounds the pieces. -/
def blocks (sz : Nat) : Nat → Run → List Run
  | 0, r => if r.len = 0 then [] else [r]
  | n + 1, r =>
    if r.len = 0 then []
    else
      let room := sz - r.pa % sz
      if r.len ≤ room then [r] else ⟨r.pa, room⟩ :: blocks sz n ⟨r.pa + room, r.len - room⟩

/-- A run cut at granule boundaries (R170). -/
def granules (r : Run) : List Run := blocks 512 (r.len / 512 + 1) r

/-- The grains that a run touches. -/
def grainsOf (g : Nat) (r : Run) : List Run :=
  (blocks (grainSize g) (r.len / 32 + 1) r).map (fun b => ⟨b.pa / grainSize g * grainSize g, grainSize g⟩)

/-- Adjacent runs joined, in the given order. -/
def joinRuns : List Run → List Run
  | [] => []
  | r :: l =>
    match joinRuns l with
    | [] => [r]
    | q :: l' => if r.pa + r.len = q.pa then ⟨r.pa, r.len + q.len⟩ :: l' else r :: q :: l'

/-- The bytes of an entry lie from this address. -/
def L1Entry.lo (e : L1Entry) : Nat := e.frame * 4096 + e.start
/-- The run of an entry. -/
def L1Entry.run (e : L1Entry) : Run := ⟨e.lo, e.data.length⟩

/-- A byte of a list of bytes that lies from `lo`. -/
def byteFrom (lo : Nat) (data : List Byte) (pa : Nat) : Option Byte :=
  if lo ≤ pa then data[pa - lo]? else none

/-! ## Ownership (R176) -/

/-- The core to which a byte is registered on a die. -/
def ownerIn (l : List Owned) (pa : Nat) : Option CoreId :=
  (l.find? (fun o => decide (o.pa ≤ pa) && decide (pa < o.pa + o.len))).map (fun o => o.g)

/-- The records without the bytes of a run. -/
def ownedCut (l : List Owned) (r : Run) : List Owned :=
  l.flatMap (fun o => ((⟨o.pa, o.len⟩ : Run).minus r).map (fun q => ⟨q.pa, q.len, o.g⟩))

/-- The records without a core's bytes of a run. -/
def ownedDrop (l : List Owned) (g : CoreId) (r : Run) : List Owned :=
  l.flatMap (fun o => if o.g = g then ((⟨o.pa, o.len⟩ : Run).minus r).map (fun q => ⟨q.pa, q.len, o.g⟩) else [o])

/-- A byte of an owned entry of a core. -/
def Core.ownedByte (c : Core) (pa : Nat) : Option Byte :=
  c.l1.findSome? (fun e => if e.state = .clean then none else byteFrom e.lo e.data pa)

/-- The run holds an address. -/
def Run.has (r : Run) (pa : Nat) : Bool := decide (r.pa ≤ pa) && decide (pa < r.pa + r.len)

/-- What a core's messages under way say of a byte before its next registration of it: the value last written back, and whether the
core has given up the byte (R174, R252). What the core stores after that registration is not performed yet (R207). -/
def owed (g : CoreId) (pa : Nat) : List Msg → Option Byte × Bool → Option Byte × Bool
  | [], o => o
  | m :: l, o =>
    match m with
    | .reg h _ r _ => if h = g && r.has pa then o else owed g pa l o
    | .writeBack h p data dereg .. =>
      owed g pa l (if h = g then (match byteFrom p data pa with
        | some b => (some b, o.2 || dereg)
        | none => o) else o)
    | .dereg h r _ => owed g pa l (if h = g && r.has pa then (o.1, true) else o)
    | _ => owed g pa l o

/-- The value that a byte has for every other agent while a store of the core to it, which owned it before, awaits the registration of the
rest of its element (R207, R209). -/
def Core.shadow (c : Core) (pa : Nat) : Option Byte :=
  c.pend.findSome? (fun p => match p.kind with
    | .store _ before => (before.find? (fun x => x.1 == pa)).map (fun x => x.2)
    | _ => none)

/-- The byte at the L1 entry that owns it, or in the owner's write-back under way once it has given the byte up (R174, R205). -/
def State.ownerByte (s : State) (pa : Nat) : Option Byte :=
  s.dies.toList.findSome? (fun d =>
    match ownerIn d.owned pa with
    | some g =>
      let o := owed g pa s.net (none, false)
      if o.2 then o.1 else (((s.core g).shadow pa).orElse (fun _ => (s.core g).ownedByte pa)).orElse (fun _ => o.1)
    | none => none)

/-- The byte at the visitor that answers for it: M, O or E (R185). -/
def State.visitorByte (s : State) (pa : Nat) : Option Byte :=
  s.dies.toList.findSome? (fun d =>
    d.visitors.findSome? (fun v => if v.st = .s then none else byteFrom v.pa v.data pa))

/-- The current value of a byte of MT 00 or MT 01 memory, at its coherence point (R205). -/
def State.cohByte (s : State) (pa : Nat) : Byte :=
  match s.ownerByte pa with
  | some b => b
  | none =>
    match s.visitorByte pa with
    | some b => b
    | none => s.homeByte pa

/-- n current bytes. -/
def State.cohRead (s : State) : Nat → Nat → List Byte
  | _, 0 => []
  | pa, n + 1 => s.cohByte pa :: s.cohRead (pa + 1) n

/-- A current doubleword. -/
def State.cohWord (s : State) (pa : Nat) : Word := wordOf (s.cohRead pa 8)

/-- Bytes written where die d's L1s have their home: the visitor that holds them, which becomes M, else the home itself
(R184, R309). -/
def visitorWrite (l : List Visitor) (pa : Nat) (b : Byte) : List Visitor :=
  l.map (fun v => if v.pa ≤ pa && pa < v.pa + v.data.length then { v with data := v.data.set (pa - v.pa) b, st := .m } else v)

/-- One byte of a write-back performed for a core of die d. -/
def State.levelByte (s : State) (d : DieId) (pa : Nat) (b : Byte) : State :=
  if (s.die d).visitors.any (fun v => decide (v.pa ≤ pa) && decide (pa < v.pa + v.data.length)) then
    s.modDie d (fun x => { x with visitors := visitorWrite x.visitors pa b })
  else s.homeWrite pa [b]

/-- Sectors marked as poisoned (R180). -/
def State.markPoison (s : State) (bad : List Nat) : State :=
  if bad.isEmpty then s else { s with poison := bad.filter (fun x => !s.poison.contains x) ++ s.poison }

/-- Bytes of a write-back performed for a core of die d; it carries the poison of its sectors (R180). -/
def State.levelWrite (s : State) (d : DieId) (pa : Nat) (l : List Byte) (bad : List Nat) : State :=
  let s1 :=
    if (s.die d).visitors.any (fun v => (⟨v.pa, v.data.length⟩ : Run).meets ⟨pa, l.length⟩) then
      (l.zipIdx).foldl (fun s p => s.levelByte d (pa + p.2) p.1) s
    else s.homeWrite pa l
  (s1.clearPoison pa l.length).markPoison bad

end Sys2Proof.Machine
end

