-- ==== Sys2Proof/Machine/L1.lean ====
section
/-! DEFINITION. The L1 range cache of a core as functions on its entries: hits, holes, splits, MakeRoom, eviction and
coalescing (R168 to R175). -/

namespace Sys2Proof.Machine

/-- Fold6 of a frame: the set (R169). -/
def foldSix (f : Nat) : Nat :=
  (f % 64) ^^^ (f / 2 ^ 6 % 64) ^^^ (f / 2 ^ 12 % 64) ^^^ (f / 2 ^ 18 % 64) ^^^ (f / 2 ^ 24 % 64) ^^^
    (f / 2 ^ 30 % 64) ^^^ (f / 2 ^ 36 % 16)

/-- Sectors that an entry touches (R169). -/
def L1Entry.sectors (e : L1Entry) : Nat := (e.start + e.data.length - 1) / 32 - e.start / 32 + 1

/-- The poison bits of the sectors that bytes lo up to hi of a frame touch (R168, R180). -/
def poisonOf (p : BitVec 128) (lo hi : Nat) : BitVec 128 :=
  if p = 0 then 0
  else BitVec.ofNat 128 (packFields 1 (fun i => if p.getLsbD i && decide (lo < 32 * i + 32) && decide (32 * i < hi) then 1 else 0) 128)

/-- The part of an entry in [a, b), addresses within the frame, with the poison of its own sectors. -/
def L1Entry.part (e : L1Entry) (a b : Nat) : Option L1Entry :=
  let lo := max a e.start
  let hi := min b (e.start + e.data.length)
  if lo < hi then some { e with
    start := lo
    data := (e.data.drop (lo - e.start)).take (hi - lo)
    poison := poisonOf e.poison lo hi
    cuts := e.cuts.filter (fun c => decide (lo < c) && decide (c < hi)) }
  else none

/-- The poisoned sectors of an entry among those of a run, by address / 32 (R180). -/
def L1Entry.badOf (e : L1Entry) (r : Run) : List Nat :=
  if e.poison = 0 then []
  else ((List.range (r.len / 32 + 2)).map (fun k => r.pa / 32 + k)).filter (fun x =>
    decide (32 * x < r.pa + r.len) && e.poison.getLsbD (x % 128))

/-- The messages that an eviction sends (R174). -/
def evictMsgs (g : CoreId) (e : L1Entry) : List Msg :=
  match e.state with
  | .clean => []
  | .ownedClean => (granules e.run).map (fun r => .dereg g r false)
  | .ownedDirty =>
    (granules e.run).map (fun r => .writeBack g r.pa ((e.data.drop (r.pa - e.lo)).take r.len) true false none
      (e.badOf r))

/-- The least recently used entry of a list. -/
def lruOf : List L1Entry → Option L1Entry
  | [] => none
  | e :: l =>
    match lruOf l with
    | none => some e
    | some q => if e.lru ≤ q.lru then some e else some q

/-- A free way of the set among the allowed ones, the lowest. -/
def freeWay (ways : BitVec 8) (set : List L1Entry) : Option (Fin 8) :=
  (List.finRange 8).find? (fun w => ways.getLsbD w.val && !set.any (fun e => e.way == w))

/-- Set bits of a mask of n bits. -/
def countBits (n : Nat) (b : Nat) : Nat := ((List.range n).filter (fun i => b / 2 ^ i % 2 == 1)).length

/-- An access at the L1, for MakeRoom: the ways it may use, the runs it touches, the age it gives, and the clean remainders of the
entries it has split, by frame and start (R173). -/
structure L1Acc where
  g : CoreId
  ways : BitVec 8
  runs : List Run
  stamp : Nat
  rems : List (Nat × Nat)

/-- An entry is a piece of the access, which MakeRoom never chooses (R173). -/
def L1Acc.mine (a : L1Acc) (e : L1Entry) : Bool := a.runs.any (fun r => e.run.meets r)

/-- An entry is a clean remainder of one that the access has split. -/
def L1Acc.remainder (a : L1Acc) (e : L1Entry) : Bool := e.state == .clean && a.rems.contains (e.frame, e.start)

/-- What MakeRoom frees next for an entry: the least recently used entry in the access's ways, then a remainder of its splits; never
a piece of the access (R173). -/
def L1Acc.victim (a : L1Acc) (set : List L1Entry) : Option L1Entry :=
  let free := set.filter (fun x => a.ways.getLsbD x.way.val && !a.mine x)
  match lruOf (free.filter (fun x => !a.remainder x)) with
  | some v => some v
  | none => lruOf (free.filter a.remainder)

/-- The sectors that entries touch together. -/
def sectorSum (l : List L1Entry) : Nat := l.foldl (fun n x => n + x.sectors) 0

/-- MakeRoom and the making of one entry (R169, R173): entries go until the new one fits the domain's limit of the set, the 128
sectors of the set and a way; none when no room remains. -/
def makeRoom (a : L1Acc) (e : L1Entry) : Nat → List L1Entry → List Msg → Option (List L1Entry × List Msg)
  | 0, _, _ => none
  | fuel + 1, l, out =>
    let set := l.filter (fun x => foldSix x.frame == foldSix e.frame)
    let used := sectorSum (set.filter (fun x => x.dom == e.dom))
    match (if used + e.sectors ≤ 16 * countBits 8 a.ways.toNat && sectorSum set + e.sectors ≤ 128 then freeWay a.ways set else none) with
    | some w => some ({ e with way := w } :: l, out)
    | none =>
      match a.victim set with
      | some v => makeRoom a e fuel (l.erase v) (out ++ evictMsgs a.g v)
      | none => none

/-- The entry is made, with room for it (R173). -/
def l1Place (a : L1Acc) (e : L1Entry) (l : List L1Entry) : Option (List L1Entry × List Msg) := makeRoom a e 12 l []

/-- What an access has done at the L1 so far. -/
structure L1Out where
  acc : L1Acc
  l1 : List L1Entry
  msgs : List Msg

/-- A piece of a split entry outside the access is kept if there is room, else evicted (R173). -/
def L1Out.keep (o : L1Out) (e : Option L1Entry) : L1Out :=
  match e with
  | none => o
  | some e =>
    match l1Place o.acc { e with lru := o.acc.stamp } o.l1 with
    | some r => ⟨{ o.acc with rems := (e.frame, e.start) :: o.acc.rems }, r.1, o.msgs ++ r.2⟩
    | none => { o with msgs := o.msgs ++ evictMsgs o.acc.g e }

/-- Two entries may merge: one ends where the other starts (R172). -/
def mergeable (a b : L1Entry) : Bool :=
  a.frame == b.frame && a.dom == b.dom && a.state == b.state && a.start + a.data.length == b.start &&
    decide (a.data.length + b.data.length ≤ 4096)

/-- Two entries merged. Clean bytes that meet inside an aligned doubleword may be of different ages: the place is kept (R209). -/
def merged (a b : L1Entry) : L1Entry :=
  { a with
    data := a.data ++ b.data
    lru := max a.lru b.lru
    poison := a.poison ||| b.poison
    cuts := a.cuts ++ (if a.state == .clean && b.start % 8 != 0 then [b.start] else []) ++ b.cuts }

/-- One merge of the list, if any pair merges. -/
def mergeOne (l : List L1Entry) : Option (List L1Entry) :=
  l.findSome? (fun a => (l.find? (mergeable a)).map (fun b => merged a b :: (l.erase a).erase b))

/-- Coalesce (R172). -/
def coalesce : Nat → List L1Entry → List L1Entry
  | 0, l => l
  | n + 1, l =>
    match mergeOne l with
    | some l' => coalesce n l'
    | none => l

/-- Coalesce until no pair remains. -/
def l1Coalesce (l : List L1Entry) : List L1Entry := coalesce l.length l

/-- Entries of other domains that hold bytes of a run of a frame are evicted (R175). -/
def evictOthers (g : CoreId) (dom : Dom) (r : Run) (l : List L1Entry) : List L1Entry × List Msg :=
  let bad := fun (e : L1Entry) => e.dom != dom && e.run.meets r
  (l.filter (fun e => !bad e), (l.filter bad).flatMap (evictMsgs g))

/-- The widened holes of a run that lies in one frame, less what is held or asked for (R170). -/
def holeRuns (l : List L1Entry) (pending : List Run) (r : Run) : List Run :=
  let held := (l.filter (fun e => e.frame == r.pa / 4096)).map L1Entry.run
  let holes := runsMinus [r] held
  holes.foldl (fun reqs h =>
    let lo := h.pa / 8 * 8
    let hi := min ((h.pa + h.len + 7) / 8 * 8) ((r.pa / 4096 + 1) * 4096)
    reqs ++ runsMinus [⟨lo, hi - lo⟩] (held ++ pending ++ reqs)) []

/-- A held byte of a domain. -/
def l1Byte (l : List L1Entry) (dom : Dom) (pa : Nat) : Option Byte :=
  l.findSome? (fun e => if e.dom = dom then byteFrom e.lo e.data pa else none)

/-- The sector of a held byte is poisoned (R180). -/
def l1Poisoned (l : List L1Entry) (dom : Dom) (pa : Nat) : Bool :=
  l.any (fun e => e.dom == dom && (byteFrom e.lo e.data pa).isSome && e.poison.getLsbD (pa % 4096 / 32))

/-- Entries of the domain that hold bytes of the run become the most recent. -/
def l1Touch (stamp : Nat) (dom : Dom) (r : Run) (l : List L1Entry) : List L1Entry :=
  l.map (fun e => if e.dom == dom && e.run.meets r then { e with lru := stamp } else e)

/-- The entry delivers the element [pa, pa + n) as a whole (R209). -/
def L1Entry.whole (e : L1Entry) (dom : Dom) (pa n : Nat) : Bool :=
  e.dom == dom && decide (e.lo ≤ pa) && decide (pa + n ≤ e.lo + e.data.length) &&
    !e.cuts.any (fun c => decide (pa < e.frame * 4096 + c) && decide (e.frame * 4096 + c < pa + n))

/-- What a store does at the L1: the access and the entries, the registrations, and the runs that pass through (R171, R173). -/
structure StoreOut where
  out : L1Out
  regs : List Run
  through : List Run

/-- The poison of an entry after bytes of a run are stored: sectors written in full lose it (R180). -/
def clearPoison (p : BitVec 128) (r : Run) : BitVec 128 :=
  if p = 0 then 0
  else BitVec.ofNat 128 (packFields 1 (fun i =>
    if p.getLsbD i && !(decide (r.pa % 4096 ≤ 32 * i) && decide (32 * i + 32 ≤ r.pa % 4096 + r.len)) then 1 else 0) 128)

/-- The store of a run that lies in one frame, on the piece of one entry of the domain (R171). -/
def storePiece (f : Nat → Byte) (r : Run) (o : StoreOut) (e : L1Entry) : StoreOut :=
  let a := r.pa % 4096
  let b := a + r.len
  match e.part a b with
  | none => o
  | some m =>
    let acc := o.out.acc
    let written := { m with
      data := (List.range m.data.length).map (fun i => f (m.lo + i))
      state := .ownedDirty, lru := acc.stamp, poison := clearPoison m.poison r, cuts := [] }
    let l := o.out.l1.erase e
    match e.state with
    | .ownedDirty =>
      let d := e.data.take (m.start - e.start) ++ written.data ++ e.data.drop (m.start - e.start + m.data.length)
      { o with out := { o.out with l1 := { e with data := d, lru := acc.stamp, poison := clearPoison e.poison r } :: l } }
    | _ =>
      match l1Place acc written l with
      | none => { o with
          out := { o.out with l1 := l, msgs := o.out.msgs ++ evictMsgs acc.g e }
          through := o.through ++ [written.run] }
      | some p =>
        let q := ((⟨acc, p.1, o.out.msgs ++ p.2⟩ : L1Out).keep (e.part 0 a)).keep (e.part b 4096)
        { o with out := q, regs := if e.state = .clean then o.regs ++ [written.run] else o.regs }

/-- The store of a hole: a new owned-dirty entry, or bytes that pass through (R171, R173). -/
def storeHole (dom : Dom) (f : Nat → Byte) (o : StoreOut) (h : Run) : StoreOut :=
  let acc := o.out.acc
  let e : L1Entry := ⟨h.pa / 4096, h.pa % 4096, (List.range h.len).map (fun i => f (h.pa + i)), .ownedDirty, dom, 0, 0, acc.stamp, []⟩
  match l1Place acc e o.out.l1 with
  | none => { o with through := o.through ++ [h] }
  | some p => { o with out := { o.out with l1 := p.1, msgs := o.out.msgs ++ p.2 }, regs := o.regs ++ [h] }

/-- The store of a run that lies in one frame. -/
def l1Store (dom : Dom) (f : Nat → Byte) (r : Run) (o : StoreOut) : StoreOut :=
  let ev := evictOthers o.out.acc.g dom r o.out.l1
  let mine := ev.1.filter (fun e => e.dom == dom && e.run.meets r)
  let o1 := mine.foldl (storePiece f r) { o with out := { o.out with l1 := ev.1, msgs := o.out.msgs ++ ev.2 } }
  let o2 := (runsMinus [r] (mine.map L1Entry.run)).foldl (storeHole dom f) o1
  { o2 with out := { o2.out with l1 := l1Coalesce o2.out.l1 } }

/-- A part of an entry gets another state; the pieces are kept if there is room in the ways of the entry's domain (R173, R174). -/
def l1Restate (ways : Dom → BitVec 8) (r : Run) (st : L1State) (o : L1Out) (e : L1Entry) : L1Out :=
  let a := r.pa - e.frame * 4096
  let b := r.pa + r.len - e.frame * 4096
  match e.part a b with
  | none => o
  | some m =>
    let o1 : L1Out := { o with acc := { o.acc with ways := ways e.dom }, l1 := o.l1.erase e }
    let m1 : L1Entry := { m with state := st, lru := o.acc.stamp }
    let o2 : L1Out := match l1Place o1.acc m1 o1.l1 with
      | some p => { o1 with l1 := p.1, msgs := o1.msgs ++ p.2 }
      | none => { o1 with msgs := o1.msgs ++ evictMsgs o1.acc.g m1 }
    (o2.keep (e.part 0 a)).keep (e.part b 4096)

/-- An access of cache control or of the home on one run. -/
def l1Begin (g : CoreId) (stamp : Nat) (r : Run) (l : List L1Entry) : L1Out := ⟨⟨g, 0, [r], stamp, []⟩, l, []⟩

/-- Owned bytes of a run become clean (R174, recall); their dirty bytes are listed apart. -/
def l1GiveUp (g : CoreId) (ways : Dom → BitVec 8) (stamp : Nat) (r : Run) (l : List L1Entry) : List L1Entry × List Msg :=
  let hit := l.filter (fun e => e.state != .clean && e.run.meets r)
  let o := hit.foldl (l1Restate ways r .clean) (l1Begin g stamp r l)
  (l1Coalesce o.l1, o.msgs)

/-- Dirty bytes of a run held in the L1: runs with their data and their poisoned sectors. -/
def dirtyOf (l : List L1Entry) (r : Run) : List (Nat × List Byte × List Nat) :=
  (l.filter (fun e => e.state == .ownedDirty)).filterMap (fun e =>
    (e.run.common r).map (fun c => (c.pa, (e.data.drop (c.pa - e.lo)).take c.len, e.badOf c)))

/-- Every clean entry is dropped (R174, acquire). -/
def dropClean (l : List L1Entry) : List L1Entry := l.filter (fun e => e.state != .clean)

/-- Clean bytes of a domain in a run are dropped, entries being split at its ends (R239). -/
def l1Inval (g : CoreId) (ways : Dom → BitVec 8) (stamp : Nat) (dom : Dom) (r : Run) (l : List L1Entry) : List L1Entry × List Msg :=
  let hit := l.filter (fun e => e.state == .clean && e.dom == dom && e.run.meets r)
  let o := hit.foldl (fun (o : L1Out) e =>
    let o1 : L1Out := { o with acc := { o.acc with ways := ways e.dom }, l1 := o.l1.erase e }
    (o1.keep (e.part 0 (r.pa - e.frame * 4096))).keep (e.part (r.pa + r.len - e.frame * 4096) 4096)) (l1Begin g stamp r l)
  (o.l1, o.msgs)

/-- Owned-dirty bytes of a domain in a run become owned-clean (R238). -/
def l1Flush (g : CoreId) (ways : Dom → BitVec 8) (stamp : Nat) (dom : Dom) (r : Run) (l : List L1Entry) : List L1Entry × List Msg :=
  let hit := l.filter (fun e => e.state == .ownedDirty && e.dom == dom && e.run.meets r)
  let o := hit.foldl (l1Restate ways r .ownedClean) (l1Begin g stamp r l)
  (l1Coalesce o.l1, o.msgs)

end Sys2Proof.Machine
end

