-- ==== Sys2Proof/Machine/Coh.lean ====
section
/-! DEFINITION. Access at the coherence point: bytes brought home from every cache, stores performed there with their
consequences for reservations and watched words (R69, R176, R205, R206, R245, R247, R309). -/

namespace Sys2Proof.Machine

/-! ## Partition entries (R40, R41) -/

/-- DOM of an entry. -/
def Part.dom (p : Part) : Dom := p.a.extractLsb' 0 8
/-- L1WAYS of an entry. -/
def Part.ways (p : Part) : BitVec 8 := p.a.extractLsb' 8 8
/-- SLOTS of an entry. -/
def Part.slots (p : Part) : BitVec 16 := p.a.extractLsb' 16 16
/-- BANKS of an entry. -/
def Part.banks (p : Part) : BitVec 32 := p.a.extractLsb' 32 32
/-- STATE of an entry: 0 EMPTY, 1 RUN, 2 DRAIN, 3 HELD. -/
def Part.state (p : Part) : BitVec 2 := p.b.extractLsb' 62 2
/-- WEIGHT of an entry. -/
def Part.weight (p : Part) : Nat := (p.b.extractLsb' 58 4).toNat
/-- BUDGET of an entry, in cycles. -/
def Part.budget (p : Part) : Nat := ((p.b.extractLsb' 48 10).toNat + 1) * 1024
/-- EGRESS of an entry; 0 is no limit. -/
def Part.egress (p : Part) : Nat := (p.b.extractLsb' 40 8).toNat
/-- SLICE of an entry, in cycles. -/
def Part.sliceLen (p : Part) : Nat := ((p.b.extractLsb' 24 16).toNat + 1) * 1024
/-- ACCS of an entry. -/
def Part.accs (p : Part) : BitVec 16 := p.b.extractLsb' 0 16

/-- The entry of a domain on a core, if one that is not EMPTY admits it. -/
def Core.entryOf (c : Core) (d : Dom) : Option PartId :=
  (List.finRange 4).find? (fun e => c.part[e].state != 0 && c.part[e].dom == d)

/-- The L1 ways in which a domain allocates on a core. -/
def Core.l1ways (c : Core) (d : Dom) : BitVec 8 :=
  match c.entryOf d with
  | some e => c.part[e].ways
  | none => 0

/-! ## Event counters (R369 to R372) -/

/-- The counter counts this event. -/
def EvCtr.counts (e : EvCtr) (code : BitVec 16) : Bool := e.sel.getLsbD 16 && e.sel.extractLsb' 0 16 == code

/-- A counter that counts the event goes up by n, and so does the sub-count of an entry. -/
def EvCtr.add (e : EvCtr) (entry : Option PartId) (n : Nat) : EvCtr :=
  { e with
    total := e.total + BitVec.ofNat 64 n
    sub := match entry with
      | some p => e.sub.set p (e.sub[p] + BitVec.ofNat 64 n)
      | none => e.sub }

/-- An event of a core, attributed to a domain (R372). -/
def Core.tally (c : Core) (d : Option Dom) (code : BitVec 16) (n : Nat) : Core :=
  if n = 0 || !c.ev.toList.any (fun e => e.counts code) then c
  else
    let entry := match d with
      | some d => c.entryOf d
      | none => none
    { c with ev := (List.finRange 8).foldl (fun v i => if v[i].counts code then v.set i (v[i].add entry n) else v) c.ev }

/-- An event of core g. -/
def State.tally (s : State) (g : CoreId) (d : Option Dom) (code : BitVec 16) (n : Nat) : State :=
  if (s.core g).ev.toList.any (fun e => e.counts code) then s.modCore g (fun c => c.tally d code n) else s

/-! ## Messages absorbed -/

/-- Messages appended to the network. -/
def State.send (s : State) (l : List Msg) : State := if l.isEmpty then s else { s with net := s.net ++ l }

/-- A write-back or deregistration under way, with its core and bytes. -/
def Msg.givesUp (m : Msg) : Option (CoreId × Run) :=
  match m with
  | .writeBack g pa data .. => some (g, ⟨pa, data.length⟩)
  | .dereg g q _ => some (g, q)
  | _ => none

/-- A core has a write-back or deregistration of a run under way to a slice. -/
def givesUpLater (r : Run) (g : CoreId) (h : Fin 16) (l : List Msg) : Bool :=
  l.any (fun m => match m.givesUp with
    | some (k, q) => k == g && homeSlice q.pa == h && q.meets r
    | none => false)

/-- The write-backs and deregistrations of a run under way are performed, with those of the same core to the same slice that were sent
before them, unless a registration of the same core for those bytes comes before them (R252; log 33): what remains of the list, and
the state. An acknowledgement that is awaited stays. -/
def absorbGo (r : Run) : List Msg → List (CoreId × Run) → State → List Msg × State
  | [], _, s => ([], s)
  | m :: rest, seen, s =>
    let due := fun (g : CoreId) (q : Run) =>
      (q.meets r || givesUpLater r g (homeSlice q.pa) rest) && !seen.any (fun x => x.1 == g && x.2.meets q)
    let kept := fun (seen : List (CoreId × Run)) =>
      let o := absorbGo r rest seen s
      (m :: o.1, o.2)
    match m with
    | .reg g _ q _ => kept ((g, q) :: seen)
    | .writeBack g pa data dereg rec pend bad =>
      let q : Run := ⟨pa, data.length⟩
      if due g q then
        let s1 := s.levelWrite g.die pa data bad
        let s2 := if dereg then s1.modDie g.die (fun d => { d with owned := ownedDrop d.owned g q }) else s1
        let o := absorbGo r rest seen s2
        (if pend.isSome then .writeBack g pa [] false rec pend [] :: o.1 else o.1, o.2)
      else kept seen
    | .dereg g q _ =>
      if due g q then absorbGo r rest seen (s.modDie g.die (fun d => { d with owned := ownedDrop d.owned g q }))
      else kept seen
    | _ => kept seen

/-- The network without the write-backs of a run, which are performed. -/
def State.absorb (s : State) (r : Run) : State :=
  if s.net.isEmpty then s
  else let o := absorbGo r s.net [] s; { o.2 with net := o.1 }

/-- Bytes of a core's L1 as other agents see them. -/
def Core.asSeen (c : Core) (pa : Nat) (data : List Byte) : List Byte := data.zipIdx.map (fun b => (c.shadow (pa + b.2)).getD b.1)

/-- Bytes that the core's stores have written in place and that other agents do not see yet. -/
def Core.unseen (c : Core) : List Run := c.pend.flatMap (fun p => match p.kind with
  | .store _ before => before.map (fun x => ⟨x.1, 1⟩)
  | _ => [])

/-- What a core's L1 gives up of a run at a recall: the dirty bytes to be written back, as other agents see them; the entries after it,
whose bytes of the run are clean but for those that a store has written and not yet performed; and what else it sends (R174, R207). -/
def Core.giveUp (c : Core) (g : CoreId) (now : Nat) (q : Run) : List (Nat × List Byte × List Nat) × List L1Entry × List Msg :=
  let l := (runsMinus [q] c.unseen).foldl (fun (o : List L1Entry × List Msg) r =>
    let n := l1GiveUp g c.l1ways now r o.1
    (n.1, o.2 ++ n.2)) (c.l1, [])
  ((dirtyOf c.l1 q).map (fun p => (p.1, c.asSeen p.1 p.2.1, p.2.2)), l.1, l.2)

/-- A core's write-backs at a recall by an access that is one event with it count in total, and for the domains of their entries (R372). -/
def State.tallyBacks (s : State) (g : CoreId) (q : Run) : State :=
  (s.core g).l1.foldl (fun s e =>
    if e.state = .ownedDirty then
      match e.run.common q with
      | some r => s.tally g (some e.dom) 0x0013 (granules r).length
      | none => s
    else s) s

/-- The owner of one record gives up its bytes of a run: its dirty bytes go to the home of its die, and they become clean
there (R176, R309). -/
def State.recallOne (s : State) (d : DieId) (r : Run) (o : Owned) : State :=
  match (⟨o.pa, o.len⟩ : Run).common r with
  | none => s
  | some q =>
    let x := (s.core o.g).giveUp o.g s.now q
    let s1 := x.1.foldl (fun s p => s.levelWrite d p.1 p.2.1 p.2.2) (s.tallyBacks o.g q)
    let s2 := s1.modCore o.g (fun c => { c with l1 := x.2.1 })
    (s2.modDie d (fun y => { y with owned := ownedCut y.owned q })).send x.2.2

/-- Every L1 of a die gives up its registered bytes of a run (R309). -/
def State.recallDie (s : State) (d : DieId) (r : Run) : State :=
  let hit := (s.die d).owned.filter (fun o => (⟨o.pa, o.len⟩ : Run).meets r)
  hit.foldl (fun s o => s.recallOne d r o) s

/-- A die gives up its registered bytes of a run, and of every grain that its visitors hold of it (R176, R309). -/
def State.recallAll (s : State) (d : DieId) (r : Run) : State :=
  let grains := ((s.die d).visitors.map (fun v => (⟨v.pa, v.data.length⟩ : Run))).filter (fun q => q.meets r)
  grains.foldl (fun s q => (s.absorb q).recallDie d q) (s.recallDie d r)

/-- The directory without the entries that a run touches. -/
def dirCut (l : List DirEntry) (r : Run) : List DirEntry := l.filter (fun e => !(⟨e.pa, e.len⟩ : Run).meets r)

/-- Visitors of one die drop their grains of a run; M and O bytes go home first (R186). -/
def State.visitorsDrop (s : State) (d : DieId) (r : Run) : State :=
  let hit := (s.die d).visitors.filter (fun v => (⟨v.pa, v.data.length⟩ : Run).meets r)
  if hit.isEmpty then s
  else
    let s1 := hit.foldl (fun s v => if v.st = .m || v.st = .o then s.homeBytes v.pa v.data else s) s
    s1.modDie d (fun x => { x with visitors := x.visitors.filter (fun v => !(⟨v.pa, v.data.length⟩ : Run).meets r) })

/-- The directory of a run's home forgets remote holders; the host's grant table does, for host memory (R186, R360). -/
def State.forget (s : State) (r : Run) : State :=
  if isFabric r.pa then
    if s.grants.isEmpty then s else { s with grants := s.grants.filter (fun x => !(⟨x.pa, x.len⟩ : Run).meets r) }
  else
    if (s.die (dieOf r.pa)).dir.isEmpty then s
    else s.modDie (dieOf r.pa) (fun d => { d with dir := dirCut d.dir r })

/-- The current bytes of a run are brought to their home: nothing is owned or held outside it afterwards (R176, R245). -/
def State.takeHome (s : State) (r : Run) : State :=
  let s1 := s.absorb r
  let s2 := (List.finRange 6).foldl (fun s d => if (s.die d).owned.isEmpty then s else s.recallAll d r) s1
  let s3 := (List.finRange 6).foldl (fun s d => s.visitorsDrop d r) s2
  s3.forget r

/-! ## Consequences of a store -/

/-- Two places of given lengths have a common byte. -/
def Loc.meets (a : Loc) (n : Nat) (b : Loc) (m : Nat) : Bool :=
  match a, b with
  | .scratch x, .scratch y => decide (x < y + m) && decide (y < x + n)
  | .mem x _ _, .mem y _ _ => decide (x < y + m) && decide (y < x + n)
  | .tile i t x, .tile j u y => i == j && t == u && decide (x < y + m) && decide (y < x + n)
  | _, _ => false

/-- The continuation becomes startable (R69, R70). -/
def State.wake (s : State) (id : Nat) : State :=
  { s with
    conts := s.conts.map (fun c => if c.id = id then { c with startable := true, wake := .now, since := s.cycle } else c)
    watches := s.watches.filter (fun w => w.cont != id) }

/-- A store event on a place of a domain: reservations on its bytes are lost, and continuations that watch them wake
(R69, R247). Scratch is told apart by its core, tiles by their domain. -/
def State.storeEvent (s : State) (g : Option CoreId) (d : Dom) (l : Loc) (n : Nat) : State :=
  let s1 := if s.resv.isEmpty then s else
    { s with resv := s.resv.filter (fun r =>
        !(r.loc.meets r.size l n && (match l with
          | .scratch _ => g == some r.g
          | .tile .. => r.dom == d
          | .mem .. => true
          | .unplaced => false))) }
  if s.watches.isEmpty then s1
  else
    let hit := s.watches.filter (fun w => w.loc.meets 8 l n && w.reread.isNone && (match l with
      | .scratch _ => false
      | .tile .. => w.dom == d
      | .mem .. => true
      | .unplaced => false))
    hit.foldl (fun s w => s.wake w.cont) s1

/-- A die's visitor holds exactly a grain. -/
def Die.grain (d : Die) (q : Run) : Option Visitor := d.visitors.find? (fun v => v.pa == q.pa && v.data.length == q.len)
/-- A die's visitor holds a grain in E or M. -/
def Die.ownsGrain (d : Die) (q : Run) : Bool :=
  match d.grain q with
  | some v => v.st == .e || v.st == .m
  | none => false

/-- What the host's grant table says of a host grain follows its holders on the device (R360). -/
def State.regrant (s : State) (q : Run) : State :=
  if !isFabric q.pa then s
  else
    let owner := s.dies.toList.findSome? (fun d => match d.grain q with
      | some v => if v.st = .s then none else some v.st
      | none => none)
    let rest := s.grants.filter (fun x => !(⟨x.pa, x.len⟩ : Run).meets q)
    { s with
      grants := match owner with
        | some st => ⟨q.pa, q.len, st⟩ :: rest
        | none => rest
      lostGrains := if owner.isSome then s.lostGrains.filter (fun x => !x.meets q) else s.lostGrains }

/-- Bytes stored at their coherence point, as one store event (R205, R206). -/
def State.cohWrite (s : State) (pa : Nat) (l : List Byte) : State :=
  ((s.takeHome ⟨pa, l.length⟩).homeWrite pa l).storeEvent none 0 (.mem pa 0 0) l.length

/-- A doubleword stored at its coherence point. -/
def State.cohWriteWord (s : State) (pa : Nat) (w : Word) : State := s.cohWrite pa (bytesOf 8 w.toNat)

/-- A byte of memory is poisoned at its home (R180). -/
def State.poisonedAt (s : State) (pa n : Nat) : Bool :=
  s.poison.any (fun x => decide (32 * x < pa + n) && decide (pa < 32 * x + 32))

/-- An acquire at quad scope or wider: every clean entry of the core goes, and fill data on its way is not kept
(R174, R213). -/
def State.acquireDrop (s : State) (g : CoreId) : State :=
  let s1 := s.modCore g (fun c => { c with l1 := dropClean c.l1 })
  if s.net.isEmpty then s1
  else { s1 with net := s1.net.map (fun m => match m with
      | .fillResp h d pa data k bad => .fillResp h d pa data (k && h != g) bad
      | m => m) }

/-- Fill data on its way to a core that would hide a later value of a run from it is not kept (R208). -/
def State.hideFills (s : State) (g : CoreId) (r : Run) : State :=
  if s.net.isEmpty then s
  else { s with net := s.net.map (fun m => match m with
      | .fillResp h d pa data k bad => .fillResp h d pa data (k && !(h == g && (⟨pa, data.length⟩ : Run).meets r)) bad
      | m => m) }

/-- Clean bytes of a run leave a core's L1, so that its own atomic's result is not hidden from it (R208). -/
def State.dropOwnClean (s : State) (g : CoreId) (d : Dom) (r : Run) : State :=
  let c := s.core g
  if c.l1.isEmpty then s
  else
    let o := l1Inval g c.l1ways s.now d r c.l1
    (s.setCore g { c with l1 := o.1 }).send o.2

end Sys2Proof.Machine
end

