-- ==== Sys2Proof/Machine/Xlat.lean ====
section
/-! DEFINITION. Translation (R190 to R195), region entries (R37 to R39) and the tiles of sparse-existence regions
(R196 to R203). -/

namespace Sys2Proof.Machine

/-! ## The page table -/

/-- How an access uses a page (R192, R193): `look` needs V alone, `quiet` needs R and W and leaves A and D as they are. -/
inductive Acc where
  | read | write | both | fetch | look | quiet
  deriving DecidableEq, Repr

/-- The access writes, so that D is set (R193). -/
def Acc.writes : Acc → Bool
  | .write | .both => true
  | _ => false

/-- A bit of a PTE. -/
def pteBit (p : Word) (n : Nat) : Bool := p.getLsbD n
/-- The ADDR field as a physical address (R191). -/
def pteAddr (p : Word) : Nat := (p.extractLsb' 16 45).toNat * 128
/-- MT (R191). -/
def pteMt (p : Word) : BitVec 2 := p.extractLsb' 7 2
/-- GRAIN (R191). -/
def pteGrain (p : Word) : Nat := (p.extractLsb' 9 2).toNat
/-- The region index of an EXIST leaf (R191). -/
def pteRegion (p : Word) : BitVec 6 := p.extractLsb' 16 6
/-- A pointer has R = W = X = 0 (R191). -/
def ptePointer (p : Word) : Bool := p.extractLsb' 1 3 == 0
/-- A PTE without its A and D bits. -/
def pteStrip (p : Word) : Word := p &&& 0xFFFFFFFFFFFFFFCF

/-- The lowest VA bit of a level's index (R190). -/
def levelShift (l : Nat) : Nat := if l = 3 then 33 else if l = 2 then 25 else if l = 1 then 16 else 12
/-- The number of index bits of a level (R190). -/
def levelBits (l : Nat) : Nat := if l = 3 then 15 else if l = 2 then 8 else if l = 1 then 9 else 4

/-- A device address that exists (R166). -/
def deviceOk (pa : Nat) : Bool := pa / 2 ^ 41 % 2 ^ 10 == 0 && decide (pa / 2 ^ 38 % 8 ≤ 5)

/-- A reserved value in an entry (R192). -/
def pteReserved (p : Word) : Bool :=
  p.extractLsb' 61 3 != 0 || p.extractLsb' 14 2 != 0 ||
    (if ptePointer p then p.extractLsb' 4 10 != 0
     else pteGrain p == 3 || (pteBit p 2 && !pteBit p 1) || (pteBit p 11 && p.extractLsb' 22 39 != 0))

/-- The class of the node that a fabric address names (R353). -/
def State.nodeClass (s : State) (n : BitVec 10) : NodeClass :=
  match s.nodes.find? (fun e => e.1 == n) with
  | some e => e.2.cls
  | none => .absent

/-- The node number of a fabric address (R166). -/
def nodeOf (pa : Nat) : BitVec 10 := BitVec.ofNat 10 (pa / 2 ^ 41)

/-- The address and memory type of a leaf agree (R166, R167). -/
def State.leafPlace (s : State) (p : Word) (level : Nat) : Bool :=
  let pa := pteAddr p
  if pteBit p 11 then pteMt p == 0
  else
    pa % 2 ^ levelShift level == 0 &&
      (if isFabric pa then
        match (pteMt p).toNat with
        | 1 => s.nodeClass (nodeOf pa) == .host
        | 2 => s.nodeClass (nodeOf pa) == .peer
        | 3 => true
        | _ => false
      else deviceOk pa && (pteMt p == 0 || pteMt p == 3))

/-- A pointer names a table that exists (R192). -/
def pointerPlace (p : Word) (level : Nat) : Bool :=
  level != 0 && pteAddr p % (8 * 2 ^ levelBits (level - 1)) == 0 && !isFabric (pteAddr p) && deviceOk (pteAddr p)

/-- A leaf found by a walk: its value, its address, its level. -/
structure Leaf where
  pte : Word
  pteAt : Nat
  level : Fin 4
  deriving DecidableEq, Repr

/-- The walk from a table at a level (R190, R192); `rd` reads an entry. -/
def walkFrom (s : State) (rd : Nat → Word) (va : Nat) : Nat → Nat → Except TrapCode Leaf
  | 0, table =>
    let pteAt := table + 8 * (va / 2 ^ 12 % 2 ^ 4)
    let p := rd pteAt
    if !pteBit p 0 then .error .page
    else if pteReserved p then .error .illegal
    else if ptePointer p then .error .access
    else if !s.leafPlace p 0 then .error .access
    else .ok ⟨p, pteAt, 0⟩
  | l + 1, table =>
    let pteAt := table + 8 * (va / 2 ^ levelShift (l + 1) % 2 ^ levelBits (l + 1))
    let p := rd pteAt
    if !pteBit p 0 then .error .page
    else if pteReserved p then .error .illegal
    else if ptePointer p then
      (if !pointerPlace p (l + 1) then .error .access else walkFrom s rd va l (pteAddr p))
    else if !s.leafPlace p (l + 1) then .error .access
    else .ok ⟨p, pteAt, Fin.ofNat 4 (l + 1)⟩

/-- The level-3 table of a domain (R194). -/
def State.rootOf (s : State) (d : Dom) : Nat := ((s.dom d).ptroot.extractLsb' 18 34).toNat * 2 ^ 18

/-- An entry as a walk of a die reads it: the latest store at its home, or a pointer entry still held in the die's walk
cache (R190, R195; log 6). -/
def State.walkRead (s : State) (die : DieId) (d : Dom) (pteAt : Nat) : Word :=
  let cur := s.cohWord pteAt
  match (s.die die).walk.find? (fun e => e.1 == d && e.2.2.1 == pteAt) with
  | some e => if e.2.2.2 ≠ cur && Config.useHeld s.now then e.2.2.2 else cur
  | none => cur

/-- The walk of a domain's table for a VA; a level-3 table outside device memory is ACCESS, like a pointer there (R166, R192). -/
def State.walk (s : State) (die : DieId) (d : Dom) (va : VA) : Except TrapCode Leaf :=
  if isFabric (s.rootOf d) || !deviceOk (s.rootOf d) then .error .access
  else walkFrom s (s.walkRead die d) va.toNat 3 (s.rootOf d)

/-- A held translation covers a VA. -/
def TlbEntry.covers (e : TlbEntry) (d : Dom) (va : VA) : Bool :=
  e.dom == d && e.va == va.toNat / 2 ^ levelShift e.level.val * 2 ^ levelShift e.level.val

/-- A translation held by the core's or the quad's TLB (R195). -/
def State.heldXl (s : State) (g : CoreId) (d : Dom) (va : VA) : Option TlbEntry :=
  match (s.core g).tlb.find? (fun e => e.covers d va) with
  | some e => some e
  | none => ((s.die g.die).quadTlb.find? (fun e => e.1 == g.quad && e.2.covers d va)).map (fun e => e.2)

/-- A translation as used: the address, the memory type, the grain, and the leaf. -/
structure Xl where
  pa : Nat
  pte : Word
  pteAt : Nat
  deriving DecidableEq, Repr

/-- Why a translation is not used now. -/
inductive XFail where
  | trap (c : TrapCode)
  /-- PULL = 1: the access waits (R192, R365). -/
  | pull (pteAt : Nat) (pte : Word)
  deriving DecidableEq, Repr

/-- The permissions of a leaf for an access (R192). -/
def permOk (p : Word) (a : Acc) (u : Bool) : Bool :=
  (match a with
    | .read => pteBit p 1
    | .write => pteBit p 2
    | .both | .quiet => pteBit p 1 && pteBit p 2
    | .fetch => pteBit p 3
    | .look => true) && (!u || pteBit p 13)

/-- The address of a VA under a leaf. -/
def leafAddr (p : Word) (level : Nat) (va : VA) : Nat := pteAddr p + va.toNat % 2 ^ levelShift level

/-- A and D are set at the PTE's home by an atomic OR (R193). -/
def State.markPte (s : State) (l : Leaf) (a : Acc) : State :=
  if a = .quiet then s
  else
  let p := l.pte ||| 0x10 ||| (if a.writes then 0x20 else 0)
  if p = l.pte then s else s.cohWriteWord l.pteAt (s.cohWord l.pteAt ||| 0x10 ||| (if a.writes then 0x20 else 0))

/-- The pointer entries that a walk passes: their addresses and values. -/
def walkPointers (rd : Nat → Word) (va : Nat) : Nat → Nat → List (Nat × Word)
  | 0, _ => []
  | l + 1, table =>
    let pteAt := table + 8 * (va / 2 ^ levelShift (l + 1) % 2 ^ levelBits (l + 1))
    let p := rd pteAt
    if pteBit p 0 && !pteReserved p && ptePointer p && pointerPlace p (l + 1) then
      (pteAt, p) :: walkPointers rd va l (pteAddr p)
    else []

/-- The die's walk cache holds the pointer entries of a walk (R195). -/
def State.walkFill (s : State) (h : DieId) (d : Dom) (va : VA) : State :=
  let ps := walkPointers s.cohWord va.toNat 3 (s.rootOf d)
  if ps.isEmpty then s
  else
    let new := ps.map (fun p => (d, 0, p.1, p.2))
    s.modDie h (fun x => { x with walk := new ++ x.walk.filter (fun e => !ps.any (fun p => e.1 == d && e.2.2.1 == p.1)) })

/-- The TLBs hold a translation (R195): 64 entries for each core, 2,048 for each quad. -/
def State.tlbFill (s : State) (g : CoreId) (d : Dom) (va : VA) (l : Leaf) (a : Acc) : State :=
  let base := va.toNat / 2 ^ levelShift l.level.val * 2 ^ levelShift l.level.val
  if a = .quiet then s
  else
  let e : TlbEntry := ⟨d, base, l.level, l.pte ||| 0x10 ||| (if a.writes then 0x20 else 0), l.pteAt⟩
  if (s.core g).tlb.contains e then s
  else
    let s1 := s.modCore g (fun c => { c with tlb := (e :: c.tlb.filter (fun x => !x.covers d va)).take 64 })
    s1.modDie g.die (fun x =>
      let mine := (e :: (x.quadTlb.filterMap (fun y => if y.1 = g.quad && !y.2.covers d va then some y.2 else none))).take 2048
      { x with quadTlb := mine.map (fun y => (g.quad, y)) ++ x.quadTlb.filter (fun y => y.1 != g.quad) })

/-- The edges that join a die to the others, by bit (R2). -/
def dieEdges (d : DieId) : BitVec 7 :=
  match d.val with
  | 0 => 0x11
  | 1 => 0x23
  | 2 => 0x42
  | 3 => 0x14
  | 4 => 0x2C
  | _ => 0x48

/-- A die is unreachable when every edge that joins it to the others has failed (R345). -/
def State.dieLost (s : State) (d : DieId) : Bool := s.edges &&& dieEdges d == 0

/-- The home of an address cannot be reached from a core (R345). -/
def State.cutOff (s : State) (g : CoreId) (pa : Nat) : Bool :=
  !isFabric pa && dieOf pa != g.die && (s.dieLost (dieOf pa) || s.dieLost g.die)

/-- A translation of a core for a domain (R190 to R195). A translation held from before a change may be used once more
until a TLBINV covers it (log 6), but not for a write if it was made with D = 0. -/
def State.xlate (s : State) (g : CoreId) (d : Dom) (a : Acc) (u : Bool) (va : VA) : State × Except XFail Xl :=
  let fresh := s.walk g.die d va
  let held := s.heldXl g d va
  let old : Option TlbEntry := match held with
    | none => none
    | some e =>
      let same := match fresh with
        | .ok l => pteStrip l.pte == pteStrip e.pte && l.level == e.level
        | .error _ => false
      if !same && !(a.writes && !pteBit e.pte 5) && Config.useHeld s.now then some e else none
  match old with
  | some e =>
    if !permOk e.pte a u || (!pteBit e.pte 11 && s.cutOff g (leafAddr e.pte e.level.val va)) then (s, .error (.trap .access))
    else (s, .ok ⟨leafAddr e.pte e.level.val va, e.pte, e.pteAt⟩)
  | none =>
    match fresh with
    | .error c => (s, .error (.trap c))
    | .ok l =>
      if !permOk l.pte a u then (s, .error (.trap .access))
      else if !pteBit l.pte 11 && s.cutOff g (leafAddr l.pte l.level.val va) then (s, .error (.trap .access))
      else if pteBit l.pte 12 then (s, .error (.pull l.pteAt l.pte))
      else (((s.walkFill g.die d va).tlbFill g d va l a).markPte l a, .ok ⟨leafAddr l.pte l.level.val va, l.pte, l.pteAt⟩)

/-- A frame is being moved by a migration: new accesses to it wait (R225). -/
def State.migrating (s : State) (pa : Nat) : Bool :=
  s.migrations.any (fun m => decide (m.src ≤ pa) && decide (pa < m.src + m.len))

/-- The base of the scratch window (R163). -/
def scratchBase : Nat := 0xFFFFFFF80000

/-- The VA lies in the scratch window. -/
def inScratch (va : Nat) : Bool := decide (scratchBase ≤ va)

/-- A device access made for a domain (R192): MT 00, no EXIST, outside the scratch window, no U check. -/
def State.xlDev (s : State) (g : CoreId) (d : Dom) (a : Acc) (va : VA) : State × Except XFail Nat :=
  if inScratch va.toNat then (s, .error (.trap .access))
  else
    match s.xlate g d a false va with
    | (s1, .error e) => (s1, .error e)
    | (s1, .ok x) => if pteMt x.pte != 0 || pteBit x.pte 11 then (s1, .error (.trap .access)) else (s1, .ok x.pa)

/-- A device read of n doublewords that lie in one page. -/
def State.devRead (s : State) (g : CoreId) (d : Dom) (va : VA) (n : Nat) : State × Except XFail (List Word) :=
  match s.xlDev g d .read va with
  | (s1, .error e) => (s1, .error e)
  | (s1, .ok pa) =>
    if s1.poisonedAt pa (8 * n) then (s1, .error (.trap .poison))
    else (s1, .ok (bytesWords n (s1.cohRead pa (8 * n))))

/-- A device write of doublewords that lie in one page. -/
def State.devWrite (s : State) (g : CoreId) (d : Dom) (va : VA) (ws : List Word) : State × Option XFail :=
  match s.xlDev g d .write va with
  | (s1, .error e) => (s1, some e)
  | (s1, .ok pa) => (s1.cohWrite pa (wordsBytes ws), none)

/-- A device read of several 64-byte units, which may lie in several pages. -/
def State.devReadMany (s : State) (g : CoreId) (d : Dom) : Nat → Nat → State × Except XFail (List Word)
  | 0, _ => (s, .ok [])
  | n + 1, va =>
    match s.devReadMany g d n va with
    | (s1, .error e) => (s1, .error e)
    | (s1, .ok ws) =>
      match s1.devRead g d (BitVec.ofNat 48 (va + 64 * n)) 8 with
      | (s2, .error e) => (s2, .error e)
      | (s2, .ok w) => (s2, .ok (ws ++ w))

/-! ## Region entries -/

/-- A region entry as used (R37). -/
structure Region where
  idx : BitVec 6
  base : Nat
  len : Nat
  tsz : Nat
  dflt : BitVec 32
  man : Nat
  map : Nat
  home : DieId
  pool : BitVec 4
  deriving DecidableEq, Repr

/-- Bytes of a tile. -/
def Region.tile (r : Region) : Nat := 2 ^ (9 + r.tsz)

/-- The fields of a valid region entry, but for the mapping of its tables (R38). DESIGN CHOICE: an entry whose MANVA or MAPVA is not a
multiple of 8, which R37 asks for and R38 does not list, is invalid (log 76). -/
def regionOf (idx : BitVec 6) (ws : List Word) : Option Region :=
  let w := fun i => ws.getD i 0
  let tsz := ((w 0).extractLsb' 48 4).toNat
  let home := ((w 0).extractLsb' 52 3).toNat
  let base := ((w 0).extractLsb' 0 48).toNat
  let len := ((w 1).extractLsb' 0 48).toNat
  let unit := 64 * 2 ^ (9 + tsz)
  let man := ((w 3).extractLsb' 0 48).toNat
  let map := ((w 4).extractLsb' 0 48).toNat
  if (w 0).getLsbD 55 && (w 0).extractLsb' 60 4 == 0 && (w 1).extractLsb' 48 16 == 0 && (w 2).extractLsb' 32 32 == 0 &&
      (w 3).extractLsb' 48 16 == 0 && (w 4).extractLsb' 48 16 == 0 && w 5 == 0 && w 6 == 0 && w 7 == 0 &&
      decide (tsz ≤ 7) && decide (home ≤ 5) && base % unit == 0 && len % unit == 0 && len != 0 &&
      man % 8 == 0 && map % 8 == 0 then
    some ⟨idx, base, len, tsz, (w 2).extractLsb' 0 32, man, map, Fin.ofNat 6 home, (w 0).extractLsb' 56 4⟩
  else none

/-- A die's home slices cache a region entry, and whether it is valid (R38, R39). -/
def State.cacheRegion (s : State) (h : DieId) (d : Dom) (idx : BitVec 6) (ws : List Word) (ok : Bool) : State :=
  let e : RegionCached := ⟨d, idx, Vector.ofFn (fun i => ws.getD i.val 0), ok⟩
  s.modDie h (fun x => { x with regions := e :: x.regions.filter (fun y => !(y.dom == d && y.idx == idx)) })

/-- The region entry that a home slice of some die caches. -/
def State.regionHeld (s : State) (d : Dom) (idx : BitVec 6) : Option RegionCached :=
  (List.finRange 6).findSome? (fun h => (s.die h).regions.find? (fun e => e.dom == d && e.idx == idx))

/-- What comes of the pages of a region's manifest or tile map. -/
inductive TabRes where
  | ok | bad
  | pull (pteAt : Nat) (pte : Word)

/-- Pages of 4 KiB from a VA on are MT 00 memory on a die (R38). -/
def State.tableOn (s : State) (g : CoreId) (d : Dom) (home : DieId) : Nat → Nat → TabRes
  | 0, _ => .ok
  | n + 1, va =>
    if 2 ^ 48 ≤ va || inScratch va then .bad
    else
      match s.walk g.die d (BitVec.ofNat 48 va) with
      | .error _ => .bad
      | .ok l =>
        if pteBit l.pte 11 || pteMt l.pte != 0 || dieOf (leafAddr l.pte l.level.val (BitVec.ofNat 48 va)) != home then .bad
        else if pteBit l.pte 12 then .pull l.pteAt l.pte
        else s.tableOn g d home n (va / 4096 * 4096 + 4096)

/-- Pages of 4 KiB that hold n bytes from a VA on. -/
def pagesOf (va n : Nat) : Nat := if n = 0 then 0 else (va + n - 1) / 4096 - va / 4096 + 1

/-- MANVA and MAPVA map to MT 00 memory on die HOME, over the whole of the manifest and the tile map (R38). -/
def State.regionTables (s : State) (g : CoreId) (d : Dom) (r : Region) : TabRes :=
  let tiles := r.len / r.tile
  match s.tableOn g d r.home (pagesOf r.man (tiles / 8)) r.man with
  | .ok => s.tableOn g d r.home (pagesOf r.map (8 * tiles)) r.map
  | x => x

/-- The region entry of a domain: as a home slice caches it until a TLBINV drops it, else read at its home (R38, R39). DESIGN CHOICE: an
entry found invalid is cached as invalid, also one whose manifest or tile map is not mapped as R38 asks, though its pages may be mapped
so meanwhile: R39 caches entries "until TLBINV" and does not tell valid ones apart (log 76). -/
def State.regionRead (s : State) (g : CoreId) (d : Dom) (idx : BitVec 6) : State × Except XFail (Option Region) :=
  match s.regionHeld d idx with
  | some e => (s, .ok (if e.ok then regionOf idx e.dws.toList else none))
  | none =>
    match s.devRead g d (BitVec.ofNat 48 ((s.dom d).regiontab.toNat + 64 * idx.toNat)) 8 with
    | (s1, .error (.pull a p)) => (s1, .error (.pull a p))
    | (s1, .error (.trap _)) => (s1, .ok none)
    | (s1, .ok ws) =>
      match regionOf idx ws with
      | none => (s1.cacheRegion g.die d idx ws false, .ok none)
      | some r =>
        match s1.regionTables g d r with
        | .ok => (s1.cacheRegion r.home d idx ws true, .ok (some r))
        | .bad => (s1.cacheRegion r.home d idx ws false, .ok none)
        | .pull a p => (s1, .error (.pull a p))

/-! ## Tiles -/

/-- A tile as an access meets it: its region and number, where its manifest byte and map entry are, and the PTEs of their pages. -/
structure TileRef where
  region : Region
  t : Nat
  manPa : Nat
  mapPa : Nat
  manPte : Nat
  mapPte : Nat
  deriving DecidableEq, Repr

/-- The place of a byte of a region's manifest or tile map: the device's own events need V alone (R192), on die HOME (R38). -/
def State.tablePlace (s : State) (g : CoreId) (d : Dom) (home : DieId) (v : Nat) : State × Except XFail Xl :=
  if inScratch v then (s, .error (.trap .access))
  else
    match s.xlate g d .look false (BitVec.ofNat 48 v) with
    | (s1, .error (.pull x y)) => (s1, .error (.pull x y))
    | (s1, .error (.trap _)) => (s1, .error (.trap .access))
    | (s1, .ok x) => if pteMt x.pte != 0 || pteBit x.pte 11 || dieOf x.pa != home then (s1, .error (.trap .access)) else (s1, .ok x)

/-- The tile of a VA in a page with EXIST = 1 (R38, R196): ACCESS for an invalid entry or an address outside the region. -/
def State.tileRef (s : State) (g : CoreId) (d : Dom) (idx : BitVec 6) (va : Nat) : State × Except XFail TileRef :=
  match s.regionRead g d idx with
  | (s1, .error e) => (s1, .error e)
  | (s1, .ok none) => (s1, .error (.trap .access))
  | (s1, .ok (some r)) =>
    if va < r.base || r.base + r.len ≤ va then (s1, .error (.trap .access))
    else
      let t := (va - r.base) / r.tile
      match s1.tablePlace g d r.home (r.man + t / 8) with
      | (s2, .error e) => (s2, .error e)
      | (s2, .ok m) =>
        match s2.tablePlace g d r.home (r.map + 8 * t) with
        | (s3, .error e) => (s3, .error e)
        | (s3, .ok p) => (s3, .ok ⟨r, t, m.pa, p.pa, m.pteAt, p.pteAt⟩)

/-- D is set in a PTE at its home (R193). -/
def State.setDirty (s : State) (pteAt : Nat) : State :=
  if pteBit (s.cohWord pteAt) 5 then s else s.cohWriteWord pteAt (s.cohWord pteAt ||| 0x20)

/-- D is set in the pages of a tile's manifest bit and map entry: a birth or an erasure writes them (R193, R199, R201). -/
def State.tablesDirty (s : State) (x : TileRef) : State := (s.setDirty x.manPte).setDirty x.mapPte

/-- The tile is present: its manifest bit (R196). -/
def State.tilePresent (s : State) (x : TileRef) : Bool := (s.cohByte x.manPa).getLsbD (x.t % 8)

/-- The PA of a present tile (R37). -/
def State.tilePa (s : State) (x : TileRef) : Nat := (s.cohWord x.mapPa).toNat

/-- Byte o of the default pattern (R198). -/
def Region.dfltByte (r : Region) (o : Nat) : Byte := r.dflt.extractLsb' (8 * (o % 4)) 8

/-- Bytes of a tile: its data, or the default pattern while it is absent (R198). -/
def State.tileRead (s : State) (x : TileRef) (o n : Nat) : List Byte :=
  if s.tilePresent x then s.cohRead (s.tilePa x + o) n
  else (List.range n).map (fun i => x.region.dfltByte (o + i))

/-- The depot of a domain, tile size and pool on a die (R202). -/
def isDepot (d : Dom) (tsz : Nat) (pool : BitVec 4) (e : Depot) : Bool :=
  e.dom == d && e.tsz.toNat == tsz && e.pool == pool

/-- The tiles of a depot, the top first. -/
def State.depot (s : State) (h : DieId) (d : Dom) (tsz : Nat) (pool : BitVec 4) : List Nat :=
  match (s.die h).depots.find? (isDepot d tsz pool) with
  | some e => e.tiles
  | none => []

/-- The tiles of a depot replaced. -/
def State.setDepot (s : State) (h : DieId) (d : Dom) (tsz : Nat) (pool : BitVec 4) (l : List Nat) : State :=
  s.modDie h (fun x => { x with depots :=
    (if l.isEmpty then [] else [⟨d, BitVec.ofNat 3 tsz, pool, l⟩]) ++ x.depots.filter (fun e => !isDepot d tsz pool e) })

/-- The manifest bit of a tile set to a value. -/
def State.setManifest (s : State) (x : TileRef) (present : Bool) : State :=
  let b := s.cohByte x.manPa
  let m : Byte := 1 <<< (x.t % 8)
  s.cohWrite x.manPa [if present then b ||| m else b &&& ~~~ m]

/-- The place of a tile. -/
def TileRef.loc (x : TileRef) (o : Nat) : Loc := .tile x.region.idx x.t o

/-- Bytes written to a tile at its home; the first write to an absent one is its birth, and an empty depot lets nothing
happen (R199, R200). -/
def State.tileWrite (s : State) (d : Dom) (x : TileRef) (o : Nat) (l : List Byte) : Option State :=
  if s.tilePresent x then
    some ((s.cohWrite (s.tilePa x + o) l).storeEvent none d (x.loc o) l.length)
  else
    match s.depot x.region.home d x.region.tsz x.region.pool with
    | [] => none
    | pa :: rest =>
      let s1 := (s.tablesDirty x).setDepot x.region.home d x.region.tsz x.region.pool rest
      let before := (List.range o).map x.region.dfltByte
      let after := (List.range (x.region.tile - o - l.length)).map (fun i => x.region.dfltByte (o + l.length + i))
      let s2 := (s1.takeHome ⟨pa, x.region.tile⟩).homeWrite pa (before ++ l ++ after)
      let s3 := (s2.setManifest x true).cohWriteWord x.mapPa (BitVec.ofNat 64 pa)
      some (s3.storeEvent none d (x.loc 0) x.region.tile)

/-- A home drops its cached bytes of a range without writing them back (R201): its L2 entries there go. DESIGN CHOICE: which of the bytes it
had cached, and what HBM held of those, nothing states, so that every byte of the range is a free value until it is written again
(log 70). -/
def State.dropCached (s : State) (pa len : Nat) : State :=
  let s1 := s.modDie (dieOf pa) (fun x =>
    { x with l2 := x.l2.filter (fun e => !(decide (e.pa < pa + len) && decide (pa < e.pa + e.len))) })
  s1.homeBytes pa ((List.range len).map (fun i => Config.staleByte (pa + i) s.now))

/-- The erasure of a tile (R201): a present one returns to its depot; an absent one is left as it is. -/
def State.tileErase (s : State) (d : Dom) (x : TileRef) : State :=
  if s.tilePresent x then
    let pa := s.tilePa x
    let s1 := (((s.tablesDirty x).setManifest x false).cohWriteWord x.mapPa 0)
    let s2 := s1.setDepot x.region.home d x.region.tsz x.region.pool
      (pa :: s1.depot x.region.home d x.region.tsz x.region.pool)
    ((s2.takeHome ⟨pa, x.region.tile⟩).dropCached pa x.region.tile).storeEvent none d (x.loc 0) x.region.tile
  else s

end Sys2Proof.Machine
end

