-- ==== Sys2Proof/Machine/Records.lean ====
section
/-! DEFINITION. Task records, privilege levels, virtual cores, clocks, event counters and the counters of a task wherever
it is (R19, R21, R22, R76, R98, R255, R288, R369 to R372, R382). -/

namespace Sys2Proof.Machine

/-! ## Task records (R21) -/

/-- DOM of a record. -/
def TaskRec.dom (t : TaskRec) : Dom := t.dw0.extractLsb' 48 8
/-- HANDLER of a record. -/
def TaskRec.handler (t : TaskRec) : VA := t.dw0.extractLsb' 0 48
/-- VN of a record: the reply network. -/
def TaskRec.vn (t : TaskRec) : Bool := t.dw0.getLsbD 57
/-- PRIO of a record. -/
def TaskRec.prio (t : TaskRec) : BitVec 2 := t.dw0.extractLsb' 58 2
/-- REPLAY of a record. -/
def TaskRec.replay (t : TaskRec) : BitVec 2 := t.dw0.extractLsb' 60 2
/-- STL of a record. -/
def TaskRec.stl (t : TaskRec) : Bool := t.dw0.getLsbD 62
/-- ORIGIN of a record. -/
def TaskRec.origin (t : TaskRec) : BitVec 6 := t.dw7.extractLsb' 58 6
/-- SVC of a record. -/
def TaskRec.svc (t : TaskRec) : BitVec 10 := t.dw7.extractLsb' 48 10
/-- LID of a record. -/
def TaskRec.lid (t : TaskRec) : BitVec 16 := t.dw7.extractLsb' 32 16
/-- TIDX of a record. -/
def TaskRec.tidx (t : TaskRec) : BitVec 32 := t.dw7.extractLsb' 0 32
/-- The record with another REPLAY. -/
def TaskRec.withReplay (t : TaskRec) (r : BitVec 2) : TaskRec :=
  { t with dw0 := (t.dw0 &&& 0xCFFFFFFFFFFFFFFF) ||| (r.setWidth 64 <<< 60) }
/-- The record as a row of doublewords. -/
def TaskRec.words (t : TaskRec) : List Word := t.dw0 :: (t.pay.toList ++ [t.dw7])
/-- A record from doublewords. -/
def TaskRec.ofWords (ws : List Word) (cross : Bool) : TaskRec :=
  ⟨ws.getD 0 0, #v[ws.getD 1 0, ws.getD 2 0, ws.getD 3 0, ws.getD 4 0, ws.getD 5 0, ws.getD 6 0], ws.getD 7 0, cross⟩

/-- dw0 of a record with REPLAY 0 (R21). -/
def mkDw0 (sup stl : Bool) (prio : BitVec 2) (vn : Bool) (d : Dom) (handler : VA) : Word :=
  (BitVec.ofBool sup).setWidth 64 <<< 63 ||| (BitVec.ofBool stl).setWidth 64 <<< 62 ||| prio.setWidth 64 <<< 58 |||
    (BitVec.ofBool vn).setWidth 64 <<< 57 ||| d.setWidth 64 <<< 48 ||| handler.setWidth 64

/-- dw7 of a record (R21). -/
def mkDw7 (origin : BitVec 6) (svc : BitVec 10) (lid : BitVec 16) (tidx : BitVec 32) : Word :=
  origin.setWidth 64 <<< 58 ||| svc.setWidth 64 <<< 48 ||| lid.setWidth 64 <<< 32 ||| tidx.setWidth 64

/-- The level of a task of a domain: 0 U, 1 S, 2 H (R19). -/
def levelOf (d : Dom) (dw0 : Word) : BitVec 2 := if d = 0 then 2 else if dw0.getLsbD 63 then 1 else 0
/-- LEVEL of the task in a slot. -/
def Slot.level (sl : Slot) : BitVec 2 := levelOf sl.dom sl.task.tr.dw0

/-! ## Clocks (R98, R363) -/

/-- The VF of a domain as an index (R18). -/
def State.vfOf (s : State) (d : Dom) : Fin 96 := Fin.ofNat 96 (s.dom d).vf.toNat
/-- TIME as a domain sees it. -/
def State.timeOf (s : State) (d : Dom) : Word := BitVec.ofNat 64 s.time + s.timeOff[s.vfOf d]
/-- CYCLE as a domain sees it. -/
def State.cycleOf (s : State) (d : Dom) : Word := BitVec.ofNat 64 s.cycle + s.cycleOff[s.vfOf d]

/-! ## Virtual cores (R288, R382) -/

/-- Entry v of a domain's core map, read at its home. -/
def State.mapWord (s : State) (d : Dom) (v : Nat) : BitVec 32 :=
  BitVec.ofNat 32 (numOf (s.cohRead ((s.dom d).coremap.toNat + 4 * v) 4))

/-- The class of a node that is another peer device. -/
def State.isPeer (s : State) (n : BitVec 10) : Bool := s.nodeClass n == .peer && n != Config.nodeNumber

/-- The core that a target operand names, or none where the send raises DOMAIN (R288). -/
def State.mapTarget (s : State) (d : Dom) (t : Word) : Option MsgTarget :=
  if 1023 ≤ t.toNat then none
  else
    let e := s.mapWord d t.toNat
    let core := (e.extractLsb' 0 10).toNat
    let node := e.extractLsb' 20 10
    if !e.getLsbD 31 || e.extractLsb' 10 10 != 0 then none
    else if h : core < 768 then
      if e.getLsbD 30 then (if s.isPeer node then some (.peer node core) else none)
      else if node != 0 then none
      else some (.local_ ⟨core, h⟩)
    else none

/-- A core's own virtual number in a domain (R382). -/
def State.ownNumber (s : State) (d : Dom) (g : CoreId) : BitVec 10 :=
  match (List.range 1023).find? (fun v =>
    let e := s.mapWord d v
    e.getLsbD 31 && !e.getLsbD 30 && (e.extractLsb' 0 10).toNat == g.val) with
  | some v => BitVec.ofNat 10 v
  | none => 0x3FF

/-! ## Counters of a task (R76, R255, R256) -/

/-- The counters after a change. -/
def CntUpd.counters (u : CntUpd) (c : Counters) : Counters :=
  match u with
  | .ld => { c with ld := c.ld - (if c.ld = 0 then 0 else 1) }
  | .st => { c with st := c.st - (if c.st = 0 then 0 else 1) }
  | .sd => { c with sd := c.sd - (if c.sd = 0 then 0 else 1) }
  | .cmd 0 => { c with cp := c.cp - (if c.cp = 0 then 0 else 1) }
  | .cmd 1 => { c with mx := c.mx - (if c.mx = 0 then 0 else 1) }
  | .cmd 2 => { c with gx := c.gx - (if c.gx = 0 then 0 else 1) }
  | .ret .. => c

/-- The queue counts after a change: ret goes up, and the error count does unless the status was OK, saturating (R319). -/
def CntUpd.queues (u : CntUpd) (q : Vector QCount 4) : Vector QCount 4 :=
  match u with
  | .ret i ok =>
    q.set i { q[i] with ret := q[i].ret + 1, err := if ok || q[i].err == 0xFFFF then q[i].err else q[i].err + 1 }
  | _ => q

/-- A slot after a change of its task's counters. -/
def Slot.applyUpd (sl : Slot) (u : CntUpd) : Slot := { sl with cnt := u.counters sl.cnt, q := u.queues sl.q }

/-- The slot of a core in which an activation runs. -/
def Core.slotOf (c : Core) (act : Nat) : Option SlotId :=
  if act = 0 then none
  else (List.finRange 16).find? (fun i => c.slots[i].task.act == act && c.slots[i].status != .free && c.slots[i].status != .reserved)

/-- The counters of S3 (R319). -/
def packCounters (c : Counters) : Word :=
  c.ld.setWidth 64 <<< 38 ||| c.st.setWidth 64 <<< 32 ||| c.cp.setWidth 64 <<< 26 ||| c.mx.setWidth 64 <<< 20 |||
    c.gx.setWidth 64 <<< 14 ||| c.sd.setWidth 64 <<< 8
/-- The counters that S3 holds. -/
def unpackCounters (w : Word) : Counters :=
  ⟨w.extractLsb' 38 6, w.extractLsb' 32 6, w.extractLsb' 26 6, w.extractLsb' 20 6, w.extractLsb' 14 6, w.extractLsb' 8 6⟩

/-- The VA of a doubleword of a frame's state area (R318, R319). -/
def frameWord (f : VA) (n : Nat) : VA := f + BitVec.ofNat 48 (8992 + 8 * n)

/-- A doubleword of a frame changed at its home; none when its page cannot be reached (R381). -/
def State.frameMod (s : State) (g : CoreId) (d : Dom) (f : VA) (n : Nat) (h : Word → Word) : State × Bool :=
  match s.xlDev g d .both (frameWord f n) with
  | (s1, .ok pa) => (s1.cohWriteWord pa (h (s1.cohWord pa)), true)
  | (s1, .error _) => (s1, false)

/-- An error count of S16 goes up by one, saturating. -/
def bumpErr (q : QueueId) (w : Word) : Word :=
  if w.extractLsb' (16 * q.val) 16 == 0xFFFF then w else w + (1#64 <<< (16 * q.val))

/-- A change of the counters of a saved task, in its frame (R76). -/
def State.frameUpd (s : State) (c : Cont) (u : CntUpd) : State × Bool :=
  match u with
  | .ret q ok =>
    let r := s.frameMod c.home c.dom c.frame (12 + q.val) (fun w => w + 1)
    if !r.2 then r else if ok then r else r.1.frameMod c.home c.dom c.frame 16 (bumpErr q)
  | u =>
    s.frameMod c.home c.dom c.frame 3 (fun w =>
      (w &&& ~~~(packCounters ⟨63, 63, 63, 63, 63, 63⟩)) ||| packCounters (u.counters (unpackCounters w)))

/-- A change of a task's counters, wherever it is: in a slot of its core, or saved in a frame (R76), and in what a RESUME has read of that
frame (R319). -/
def State.count (s : State) (g : CoreId) (act : Nat) (u : CntUpd) : State :=
  match (s.core g).slotOf act with
  | some i => s.modSlot g i (fun sl => sl.applyUpd u)
  | none =>
    match s.conts.find? (fun c => c.act == act && act != 0) with
    | none => s
    | some c =>
      match s.frameUpd c u with
      | (s1, true) => if c.image.isSome then { s1 with conts := s1.conts.map (fun x => if x.act = act then { x with late := x.late ++ [u] } else x) } else s1
      | (s1, false) => { s1 with conts := s1.conts.map (fun x => if x.act = act then { x with late := x.late ++ [u] } else x) }

/-! ## Slot-time of a domain on a core (R58, R63, R372) -/

/-- A task holds the slot: it is neither free nor merely reserved. -/
def Slot.held (sl : Slot) : Bool := sl.status != .free && sl.status != .reserved

/-- h_d: slots of a core that tasks of a domain hold (R58). -/
def Core.holds (c : Core) (d : Dom) : Nat :=
  ((List.finRange 16).filter (fun i => c.slots[i].held && c.slots[i].dom == d)).length

/-- V_d grows by this for each slot held and cycle (R58). -/
def Part.step (p : Part) : Nat := 720720 / (p.weight + 1)

/-- V_d at a cycle (R58). -/
def Core.vAt (c : Core) (e : PartId) (cycle : Nat) : Nat :=
  c.part[e].vClock + c.holds c.part[e].dom * (cycle - c.part[e].vAt) * c.part[e].step

/-- The slot-time of an entry brought up to a cycle, before the slots held change. -/
def Core.settle (c : Core) (e : PartId) (cycle : Nat) : Core :=
  let p := c.part[e]
  let more := if c.holds p.dom = 0 then 0 else cycle - p.vAt
  { c with part := c.part.set e { p with vClock := c.vAt e cycle, heldFor := p.heldFor + more, vAt := cycle } }

/-- DEBT raised, with its cap and FORGIVEN (R63). -/
def Part.addDebt (p : Part) (o : Nat) : Part :=
  let cap := 4 * p.sliceNow
  let d := p.debt + o
  { p with debt := min d cap, forgiven := min (p.forgiven + (d - min d cap)) (2 ^ 32 - 1) }

/-- The overrun of a domain ends when it holds no slot any more (R63). -/
def Core.endOverrun (c : Core) (e : PartId) (cycle : Nat) : Core :=
  match c.part[e].overrun with
  | none => c
  | some at_ =>
    if c.holds c.part[e].dom = 0 then
      { c with part := c.part.set e { (c.part[e].addDebt (cycle - at_)) with overrun := none, freedAt := cycle } }
    else c

/-! ## Egress windows (R348) -/

/-- An entry in the egress window of a cycle: a new window has its whole quota, by EGRESS as it stands, and nothing carried over. -/
def Part.windowed (p : Part) (cycle : Nat) : Part :=
  if p.egressWin = cycle / 1024 then p else { p with egressUsed := 0, egressWin := cycle / 1024, egressCap := p.egress }

/-- A slot stalls at the range scoreboard, and the cycles of it are counted (R262, R372). -/
def State.sbStall (s : State) (g : CoreId) (d : Dom) : State := s.tally g (some d) 0x0020 (Config.cyclesOf s.now)

/-! ## Slices (R62, R63, R349) -/

/-- A slice closes at cycle u: DEBT falls by what it has paid, and the count of an overrun begins (R63). -/
def Core.closeSlice (c : Core) (e : PartId) (u : Nat) : Core :=
  let p := c.part[e]
  let ov := if c.holds p.dom = 0 then none else p.overrun.or (some u)
  let paid := match p.slice with
    | .closed => 0
    | .opened _ len => p.sliceNow - len
    | .deferred _ => p.sliceNow
  if p.slice = .closed then c else { c with part := c.part.set e { p with slice := .closed, overrun := ov, debt := p.debt - paid } }

/-- The cycle at which a slice that is not closed closes. -/
def Part.closesAt (p : Part) : Option Nat :=
  match p.slice with
  | .closed => none
  | .opened u _ => some u
  | .deferred l => some l

/-- A deferred slice whose overrun has ended opens in the cycle after (R62): its length is what the debt leaves (R349). -/
def Part.openDeferred (p : Part) (cycle : Nat) : Option Part :=
  match p.slice with
  | .deferred latest =>
    let at_ := p.freedAt + 1
    let len := p.sliceNow - p.debt
    if p.overrun.isNone && decide (at_ ≤ cycle) && decide (at_ < latest) then some { p with slice := .opened (min (at_ + len) latest) len }
    else none
  | _ => none

/-- What the passing of time has made of an entry's slice by a cycle, while the slots held have not changed: a deferred slice opens, a
slice closes. -/
def Core.sliceUpTo (c : Core) (e : PartId) (cycle : Nat) : Core :=
  let c1 : Core := match c.part[e].openDeferred cycle with
    | some q => { c with part := c.part.set e q }
    | none => c
  match c1.part[e].closesAt with
  | some u => if u ≤ cycle then c1.closeSlice e u else c1
  | none => c1

/-- The slots of a core change, with the slot-time of every entry brought up to date before and overruns ended after. -/
def Core.reslot (c : Core) (cycle : Nat) (f : Core → Core) : Core :=
  let c1 := (List.finRange 4).foldl (fun c e => if c.part[e].state = 0 then c else (c.sliceUpTo e cycle).settle e cycle) c
  (List.finRange 4).foldl (fun c e => if c.part[e].state = 0 then c else c.endOverrun e cycle) (f c1)

/-- A slot of core g changes its status or its domain. -/
def State.reslot (s : State) (g : CoreId) (i : SlotId) (f : Slot → Slot) : State :=
  s.setCore g ((s.core g).reslot s.cycle (fun c => c.setSlot i (f c.slots[i])))

/-- What an entry's domain has of the core: entries that are not EMPTY (R53, R293, R295). -/
def Core.shares (c : Core) : Nat := ((List.finRange 4).filter (fun e => c.part[e].state != 0)).length

end Sys2Proof.Machine
end

