-- ==== Sys2Proof/Machine/Visitors.lean ====
section
/-! DEFINITION. What a die's slices hold of memory with another home, and of its own: visitor entries and their ways, the L2's ranges, the
home's directory and snoop filter, and stores at a visitor slice (R182, R184 to R187, R307 to R309, R373). -/

namespace Sys2Proof.Machine

/-! ## Counters (R373) -/

/-- A slice counts, by its counter: 0 requests accepted, 1 cycles with a full queue, 2 back-invalidations, 3 soft errors (R373; the
numbers are the model's, log 42). -/
def Die.sliceCount (d : Die) (h : Fin 16) (k : Fin 4) : Die :=
  { d with sliceCtr := d.sliceCtr.set h (d.sliceCtr[h].set k (d.sliceCtr[h][k] + 1)) }

/-- The slice of an address counts. -/
def Die.sliceUp (d : Die) (pa : Nat) (k : Fin 4) : Die := d.sliceCount (homeSlice pa) k

/-- The counters of a die for what crosses its edges. DESIGN CHOICE: how many flits a crossing is, and which counter an edge has, are free
values (log 42). -/
def Die.flitsUp (x : Die) (now : Nat) (d : DieId) : Die :=
  { x with dieCtr := Vector.ofFn (fun (k : Fin 16) => x.dieCtr[k] + Config.dieFlits now d.val k.val) }

/-- Something passes from one die to another (R373). -/
def State.crossed (s : State) (a b : DieId) : State :=
  if a = b then s else (s.modDie a (fun x => x.flitsUp s.now a)).modDie b (fun x => x.flitsUp s.now b)

/-! ## Accesses and their slices (R182, R184) -/

/-- Memory that a die's cores reach through a visitor entry (R184). -/
def visited (d : DieId) (pa : Nat) : Bool := isFabric pa || dieOf pa != d

/-- The L2 ways in which an access of a domain allocates on a die (R182). -/
def State.l2ways (s : State) (d : DieId) (dom : Dom) : Word := (s.die d).l2way[s.vfOf dom] &&& 0xFFFF

/-! ## Grains held by visitors -/

/-- The directory entry of a grain (R186, R308); of a host grain, what its holders on the device are. -/
def State.dirGet (s : State) (q : Run) : Option DirEntry :=
  if isFabric q.pa then
    let hs := (List.finRange 6).filter (fun d => ((s.die d).grain q).isSome)
    if hs.isEmpty then none
    else
      let owner := hs.find? (fun d => match (s.die d).grain q with
        | some v => v.st != .s
        | none => false)
      let st : DirState := match owner with
        | none => .s
        | some d => if (s.die d).ownsGrain q then .em else .o
      some ⟨q.pa, q.len, BitVec.ofNat 6 (hs.foldl (fun n d => n + 2 ^ d.val) 0), false, owner, st⟩
  else (s.die (dieOf q.pa)).dir.find? (fun e => e.pa == q.pa && e.len == q.len)

/-- The directory entry of a grain replaced, as the most recently used (R308). A host that holds a copy keeps it while no die
owns the grain. -/
def State.dirPut (s : State) (q : Run) (dies : BitVec 6) (owner : Option DieId) (st : DirState) : State :=
  if isFabric q.pa then s.regrant q
  else
    s.modDie (dieOf q.pa) (fun x =>
      let rest := x.dir.filter (fun e => e.pa != q.pa || e.len != q.len)
      let shared := st != .em && x.dir.any (fun e => e.pa == q.pa && e.len == q.len && e.host)
      { x with dir := if dies = 0 && !shared then rest else ⟨q.pa, q.len, dies, shared, owner, st⟩ :: rest })

/-- The directory entry of a grain that a holder has dropped: its place among the recently used ones stays (R308). -/
def State.dirKeep (s : State) (q : Run) (dies : BitVec 6) (owner : Option DieId) (st : DirState) : State :=
  if isFabric q.pa then s.regrant q
  else
    s.modDie (dieOf q.pa) (fun x => { x with dir := x.dir.filterMap (fun e =>
      if e.pa == q.pa && e.len == q.len then
        let shared := st != .em && e.host
        if dies = 0 && !shared then none else some ⟨q.pa, q.len, dies, shared, owner, st⟩
      else some e) })

/-- The bit of a die. -/
def dieBit (d : DieId) : BitVec 6 := 1#6 <<< d.val
/-- The dies of a presence mask. -/
def diesOf (m : BitVec 6) : List DieId := (List.finRange 6).filter (fun d => m.getLsbD d.val)

/-- The set of a grain in its slice's snoop filter (R186). -/
def filterSet (pa : Nat) : Nat := (pa / 2 ^ 9 % 4096) ^^^ (pa / 2 ^ 21 % 4096) ^^^ (pa / 32 % 16 * 256)

/-- The holders of a grain are back-invalidated, which its slice counts (R186, R373). -/
def State.backInvalid (s : State) (h : DieId) (e : DirEntry) : State := (s.takeHome ⟨e.pa, e.len⟩).modDie h (fun x => x.sliceUp e.pa 2)

/-- The holders of a grain are back-invalidated for want of a way (R186, R187). -/
def State.backInvalidate (s : State) (h : DieId) (e : DirEntry) : State :=
  (s.backInvalid h e).modDie h (fun x => { x with binv := if x.binv.toNat < 2 ^ 32 - 1 then x.binv + 1 else x.binv })

/-- Entries of the filter set of a grain, the most recent first. -/
def State.filterWays (s : State) (q : Run) : List DirEntry :=
  (s.die (dieOf q.pa)).dir.filter (fun e => homeSlice e.pa == homeSlice q.pa && filterSet e.pa == filterSet q.pa)

/-- Ways of a set that may hold grains with the host bit (R187). -/
def Die.hostWays (d : Die) : Nat := if d.hostcap = 0 then 8 else min 8 d.hostcap.toNat

/-- The host keeps no more ways of a set than HOSTCAP allows: the least recently used of those with the host bit go (R187). -/
def State.hostCut (s : State) (d : DieId) (mine : DirEntry → Bool) (ways : Nat) : Nat → State
  | 0 => s
  | fuel + 1 =>
    let hosted := (s.die d).dir.filter (fun e => e.host && mine e)
    match hosted.getLast? with
    | some e => if hosted.length ≤ ways then s else (s.backInvalidate d e).hostCut d mine ways fuel
    | none => s

/-- Two grains lie in one set of one slice's filter. -/
def sameFilterSet (a b : Nat) : Bool := homeSlice a == homeSlice b && filterSet a == filterSet b

/-- Every set of a die's filter keeps to HOSTCAP (R187). -/
def State.hostFit (s : State) (d : DieId) : State :=
  ((s.die d).dir.filter (fun e => e.host)).foldl (fun s e => s.hostCut d (fun x => sameFilterSet x.pa e.pa) (s.die d).hostWays 8) s

/-- A die gives up what its L1s own of a grain: their dirty bytes go into the visitor's copy, or the home's (R309). -/
def State.recallGrain (s : State) (d : DieId) (q : Run) : State := (s.absorb q).recallDie d q

/-- A holder drops a grain: M and O bytes go home first, and the directory no longer lists it (R185, R308, R309). -/
def State.dropHolding (s : State) (d : DieId) (q : Run) : State :=
  let e := s.dirGet q
  let s1 := (s.recallGrain d q).visitorsDrop d q
  match e with
  | none => s1.regrant q
  | some e =>
    let dies := e.dies &&& ~~~dieBit d
    if e.owner = some d then s1.dirKeep q dies none .s else s1.dirKeep q dies e.owner e.st

/-! ## Ways of the L2 (R182, R184) -/

/-- The set of a byte's range in its slice (R182). -/
def l2Set (pa : Nat) : Nat := (pa / 2 ^ 9 % 2048) ^^^ (pa / 2 ^ 20 % 2048)

/-- The way in which a range is allocated: a free one among the VF's, else one of them (R182; log 8). -/
def pickWay (ways : Word) (held : List Nat) (choice : Nat) : Option Nat :=
  let mine := (List.range 16).filter (fun w => ways.getLsbD w)
  match mine.find? (fun w => !held.contains w) with
  | some w => some w
  | none => mine[choice % mine.length]?

/-- Two addresses lie in one set of one slice. -/
def sameSet (a b : Nat) : Bool := homeSlice a == homeSlice b && l2Set a == l2Set b

/-- The ways of the set of a byte that hold a range or a visitor. -/
def Die.waysHeld (d : Die) (pa : Nat) : List Nat :=
  (d.l2.filter (fun e => sameSet e.pa pa)).map (fun e => e.way) ++ (d.visitors.filter (fun v => sameSet v.pa pa)).map (fun v => v.way)

/-- Bytes of data in a slice. -/
def Die.sliceBytes (d : Die) (h : Fin 16) : Nat :=
  (d.l2.filter (fun e => homeSlice e.pa == h)).foldl (fun n e => n + e.len) 0 +
    (d.visitors.filter (fun v => homeSlice v.pa == h)).foldl (fun n v => n + v.data.length) 0

/-- What lies in a way of a set leaves it; a visitor is evicted (R182, R185). -/
def State.wayClear (s : State) (d : DieId) (pa way : Nat) : State :=
  let out := (s.die d).visitors.filter (fun v => sameSet v.pa pa && v.way == way)
  let s1 := s.modDie d (fun x => { x with l2 := x.l2.filter (fun e => !(sameSet e.pa pa && e.way == way)) })
  out.foldl (fun s v => s.dropHolding d ⟨v.pa, v.data.length⟩) s1

/-- A slice holds 4 MiB: its oldest ranges go, then its oldest visitor entries, until there is room (R182; log 8). -/
def State.sliceRoom (s : State) (d : DieId) (h : Fin 16) (len : Nat) : Nat → State
  | 0 => s
  | fuel + 1 =>
    let x := s.die d
    if x.sliceBytes h + len ≤ 4194304 then s
    else
      match (x.l2.filter (fun e => homeSlice e.pa == h)).getLast? with
      | some e => (s.modDie d (fun y => { y with l2 := y.l2.erase e })).sliceRoom d h len fuel
      | none =>
        match (x.visitors.filter (fun v => homeSlice v.pa == h)).getLast? with
        | some v => (s.wayClear d v.pa v.way).sliceRoom d h len fuel
        | none => s

/-- A way for a range in its set, among those allowed; what it held leaves (R182). -/
def State.wayFor (s : State) (d : DieId) (ways : Word) (pa : Nat) : State × Option Nat :=
  match pickWay ways ((s.die d).waysHeld pa) (Config.l2Way s.now) with
  | none => (s, none)
  | some w => (if ((s.die d).waysHeld pa).contains w then s.wayClear d pa w else s, some w)

/-- A visitor's grain takes another way. -/
def Visitor.inWay (v : Visitor) (q : Run) (w : Nat) : Visitor := if v.pa == q.pa && v.data.length == q.len then { v with way := w } else v

/-- The grain of a visitor goes on from the one before it in its entry: it adjoins it, in the same state (R185). -/
def Visitor.follows (v p : Visitor) : Bool := p.pa + p.data.length == v.pa && p.st == v.st

/-- The grains of a granule in ascending order, each run of adjoining grains in one state being an entry with a way of its own: the first run
in a way keeps it, another takes one of the ways allowed, and is evicted where there is none (R182, R185). -/
def State.splitGrains (s : State) (d : DieId) (ways : Word) (seen : List Visitor) : List Run → State
  | [] => s
  | q :: l =>
    match (s.die d).grain q with
    | none => s.splitGrains d ways seen l
    | some v =>
      let before := match seen with
        | p :: _ => if v.follows p then some p.way else none
        | [] => none
      if before = some v.way || !seen.any (fun p => p.way == v.way) then s.splitGrains d ways (v :: seen) l
      else
        let into := fun (s : State) (w : Nat) => s.modDie d (fun x => { x with visitors := x.visitors.map (fun u => u.inWay q w) })
        match before with
        | some w => (into s w).splitGrains d ways ({ v with way := w } :: seen) l
        | none =>
          match s.wayFor d ways q.pa with
          | (s1, none) => (s1.dropHolding d q).splitGrains d ways seen l
          | (s1, some w) => (into s1 w).splitGrains d ways ({ v with way := w } :: seen.filter (fun p => p.way != w)) l

/-- The grains of a granule that a die holds, in ascending order. -/
def Die.granuleGrains (x : Die) (pa : Nat) : List Run :=
  (List.range 16).filterMap (fun k => (x.visitors.find? (fun v => v.pa == pa / 512 * 512 + 32 * k)).map (fun v => ⟨v.pa, v.data.length⟩))

/-- The entries of a granule after a change of its grains. -/
def State.splitGranule (s : State) (d : DieId) (ways : Word) (pa : Nat) : State := s.splitGrains d ways [] ((s.die d).granuleGrains pa)

/-- The entries of a set: those that have lost a grain in their midst are two from the next allocation there on (R185; log 8). -/
def State.splitSet (s : State) (d : DieId) (ways : Word) (pa : Nat) : State :=
  (((s.die d).visitors.filter (fun v => sameSet v.pa pa)).map (fun v => v.pa / 512 * 512)).eraseDups.foldl (fun s a => s.splitGranule d ways a) s

/-- Room in a slice for a range: the way it takes, if the ways allowed are not none (R182). -/
def State.l2Make (s : State) (d : DieId) (ways : Word) (r : Run) : State × Option Nat :=
  match (s.splitSet d ways r.pa).wayFor d ways r.pa with
  | (s1, none) => (s1, none)
  | (s1, some w) => (s1.sliceRoom d (homeSlice r.pa) r.len 64, some w)

/-- A run read from HBM is held by its slice (R177, R182). -/
def State.l2Allocate (s : State) (d : DieId) (ways : Word) (r : Run) : State :=
  match s.l2Make d ways r with
  | (s1, none) => s1
  | (s1, some w) => s1.modDie d (fun x => { x with l2 := ⟨l2Set r.pa, w, r.pa, r.len⟩ :: x.l2 })

/-- A grain comes to be held by a die's visitor in a state: in the entry of a grain beside it that has the same state and one of the VF's
ways, else in a way of its own (R182, R184, R185; log 8). A VF without ways holds nothing. -/
def State.putVisitor (s : State) (d : DieId) (dom : Dom) (q : Run) (data : List Byte) (st : Moesi) : State :=
  let ways := s.l2ways d dom
  let put := fun (s : State) (w : Nat) => s.modDie d (fun x => { x with visitors := ⟨q.pa, data, st, w⟩ :: x.visitors })
  let s1 := (s.modDie d (fun x => { x with visitors := x.visitors.filter (fun v => v.pa != q.pa || v.data.length != q.len) })).sliceRoom d
    (homeSlice q.pa) q.len 64
  let s2 := match (s1.die d).visitors.find? (fun v =>
      v.pa / 512 == q.pa / 512 && (v.pa + v.data.length == q.pa || q.pa + q.len == v.pa) && v.st == st && ways.getLsbD v.way) with
    | some v => put s1 v.way
    | none =>
      match s1.l2Make d ways q with
      | (s2, some w) => put s2 w
      | (s2, none) => s2
  s2.splitGranule d ways q.pa

/-- Grains of one granule held by a die get another state, for an access of a domain; their entry splits where states differ (R185). -/
def State.visitorState (s : State) (d : DieId) (dom : Dom) (l : List Run) (st : Moesi) : State :=
  match l with
  | [] => s
  | q :: _ => (s.modDie d (fun x => { x with visitors := x.visitors.map (fun v => if l.contains ⟨v.pa, v.data.length⟩ then { v with st := st } else v) })).splitGranule
      d (s.l2ways d dom) q.pa

/-! ## Stores (R205, R307) -/

/-- Grains that a die's visitors hold in E or M, and that meet a run. -/
def Die.grainsHeld (d : Die) (r : Run) : List Run :=
  (d.visitors.filter (fun v => (v.st == .e || v.st == .m) && (⟨v.pa, v.data.length⟩ : Run).meets r)).map (fun v => ⟨v.pa, v.data.length⟩)

/-- Bytes stored at a visitor slice, whose L1s give up what they own of them; the grains are M then, without a message (R176, R205,
R307). -/
def State.visitorStore (s : State) (d : DieId) (dom : Dom) (pa : Nat) (l : List Byte) : State :=
  let r : Run := ⟨pa, l.length⟩
  let s1 := ((s.absorb r).recallDie d r).levelWrite d pa l []
  (((s1.die d).grainsHeld r).foldl (fun (s : State) q => (s.regrant q).splitGranule d (s.l2ways d dom) q.pa) s1).storeEvent none 0 (.mem pa 0 0) l.length

/-- Bytes that a die stores at their coherence point: those in grains that its visitor slice holds in E or M there, where such a grain
becomes M, the others at their home (R205, R307). -/
def State.storeFrom (s : State) (d : DieId) (dom : Dom) (pa : Nat) (l : List Byte) : State :=
  let held := (s.die d).grainsHeld ⟨pa, l.length⟩
  let cut := fun (r : Run) => (l.drop (r.pa - pa)).take r.len
  let here := held.filterMap (fun q => q.common ⟨pa, l.length⟩)
  let s1 := here.foldl (fun (s : State) r => s.visitorStore d dom r.pa (cut r)) s
  (runsMinus [⟨pa, l.length⟩] here).foldl (fun (s : State) r => s.cohWrite r.pa (cut r)) s1


end Sys2Proof.Machine
end

