-- ==== Sys2Proof/Machine/Faults.lean ====
section
/-! DEFINITION. Trap codes and classes, fault records and notices, the fault queue and what waits for it, and the pull of
a page that an access meets (R310, R322 to R326, R364, R365). -/

namespace Sys2Proof.Machine

/-! ## Codes (R310) -/

/-- The number of a trap code. -/
def TrapCode.num : TrapCode → Nat
  | .illegal => 0x01 | .priv => 0x02 | .align => 0x03 | .domain => 0x04 | .page => 0x05 | .access => 0x06
  | .allocfail => 0x07 | .budget => 0x08 | .sendqfull => 0x09 | .swtrap => 0x0A | .atomunsup => 0x0B | .poison => 0x0C
  | .miglost => 0x0D | .engineIllegal => 0x0E | .gate => 0x0F | .frameempty => 0x10 | .bkpt => 0x11

/-- The class of a trap: 0 abort, 1 suspend, 2 hold (R310, R322). -/
def TrapCode.cls : TrapCode → Nat
  | .page | .allocfail | .bkpt => 1
  | .frameempty => 2
  | _ => 0

/-- A code that its record reports with an address (R322). -/
def TrapCode.hasAddr : TrapCode → Bool
  | .align | .domain | .page | .access | .allocfail | .poison | .miglost | .swtrap => true
  | _ => false

/-- A code that its record reports with INFO (R322). -/
def TrapCode.hasInfo : TrapCode → Bool
  | .swtrap | .bkpt | .gate => true
  | _ => false

/-! ## Records (R322) -/

/-- dw0 of a fault record. -/
def faultDw0 (code cls level slot vcore : Nat) (d : Dom) (info : BitVec 24) : Word :=
  BitVec.ofNat 64 (code * 2 ^ 56 + cls * 2 ^ 54 + level * 2 ^ 52 + slot * 2 ^ 48 + vcore * 2 ^ 38 + d.toNat * 2 ^ 24 + info.toNat)

/-- A fault record from its doublewords. -/
def FaultRec.mk8 (a b c d e f g h : Word) : FaultRec := ⟨#v[a, b, c, d, e, f, g, h]⟩

/-- The fetched word at an address of a domain, or 0 (R322). -/
def Core.wordAt (c : Core) (d : Dom) (pc : VA) : Word :=
  match c.fetched.find? (fun e => e.dom == d && e.va == pc) with
  | some e => e.word
  | none => 0

/-- The fault record of a task's trap. -/
def State.faultOf (s : State) (g : CoreId) (i : SlotId) (t : Trap) (cls : Nat) (pc : VA) (word : Word) (frame : VA) : FaultRec :=
  let sl := s.slot g i
  .mk8 (faultDw0 t.code.num cls sl.level.toNat i.val (s.ownNumber sl.dom g).toNat sl.dom (if t.code.hasInfo then t.info else 0))
    (pc.setWidth 64) (if t.code.hasAddr then t.addr else 0) word sl.task.tr.dw0 sl.task.tr.dw7 (frame.setWidth 64)
    (s.timeOf sl.dom)

/-- The KIND of a notice, or 0. -/
def FaultRec.kind (r : FaultRec) : Nat := if r.dws[0].extractLsb' 56 8 = 0 then (r.dws[0].extractLsb' 0 8).toNat else 0
/-- DOM of a fault record. -/
def FaultRec.dom (r : FaultRec) : Dom := r.dws[0].extractLsb' 24 8

/-- A notice (R323) for the queue of domain q. -/
def State.noticeOf (s : State) (q : Dom) (kind : Nat) (d : Dom) (vcore : Nat) (more : Nat) (addr : Word) (rec0 rec7 : Word)
    (frame : VA) : FaultRec :=
  .mk8 (faultDw0 0 3 0 0 vcore d (BitVec.ofNat 24 (kind + more * 256))) 0 addr 0 rec0 rec7 (frame.setWidth 64) (s.timeOf q)

/-! ## Pulls (R364, R365) -/

/-- The PA of a die's pull table, and the number of its entries (log 10). -/
def Die.pullBase (d : Die) : Nat := (d.pulltab.extractLsb' 12 40).toNat * 4096
/-- Entries of a die's pull table (log 10). -/
def Die.pullCount (d : Die) : Nat := (d.pulltab.extractLsb' 0 12).toNat

/-- Bytes of a page size of the pull table. -/
def pullSize (sz : Nat) : Nat := if sz = 0 then 2 ^ 12 else if sz = 1 then 2 ^ 16 else if sz = 2 then 2 ^ 25 else 2 ^ 33

/-- Doubleword n of entry i of a die's pull table. -/
def State.pullWord (s : State) (h : DieId) (i n : Nat) : Word := s.cohWord ((s.die h).pullBase + 32 * i + 8 * n)

/-- The idle or pulling entry of a destination frame (R364). -/
def State.pullEntry (s : State) (h : DieId) (pa : Nat) : Option Nat :=
  (List.range (s.die h).pullCount).find? (fun i =>
    ((s.pullWord h i 0).extractLsb' 12 52).toNat * 4096 == pa && decide ((s.pullWord h i 3).extractLsb' 0 2 ≤ 1))

/-- An access meets a PULL page: the pull starts if none is under way, and the access waits; none where no entry names the
frame, which is ACCESS (R364, R365). -/
def State.startPull (s : State) (d : Dom) (pteAt : Nat) (pte : Word) (va : VA) (who : Option (CoreId × SlotId × Nat)) : Option State :=
  let pa := pteAddr pte
  let h := dieOf pa
  let more := match who with
    | some w => [(w.1, w.2.1, w.2.2, va)]
    | none => []
  if (s.die h).pulls.any (fun p => p.dpa == pa) then
    some (s.modDie h (fun x => { x with pulls := x.pulls.map (fun p =>
      if p.dpa = pa then { p with waiters := p.waiters ++ more.filter (fun w => !p.waiters.any (fun x => x.1 == w.1 && x.2.1 == w.2.1 && x.2.2.1 == w.2.2.1)) } else p) }))
  else
    match s.pullEntry h pa with
    | none => none
    | some i =>
      let w3 := s.pullWord h i 3
      let len := pullSize ((s.pullWord h i 0).extractLsb' 0 2).toNat
      let node := (s.pullWord h i 1).extractLsb' 0 10
      let soff := ((s.pullWord h i 2).extractLsb' 0 41).toNat
      let s1 := s.cohWriteWord ((s.die h).pullBase + 32 * i + 24) ((w3 &&& 0xFFFFFFFFFFFFFF0C) ||| 0x11)
      some (s1.modDie h (fun x => { x with pulls := x.pulls ++ [⟨i, d, pa, len, node, soff, pteAt, s.time, more, []⟩] }))

/-- A device access of a domain that no instruction waits for: the address, or nothing now. A PULL page is pulled, and the access waits
(R365): its error names no code. -/
def State.devPlace (s : State) (g : CoreId) (d : Dom) (a : Acc) (va : VA) : State × Except (Option TrapCode) Nat :=
  match s.xlDev g d a va with
  | (s1, .ok pa) => (s1, .ok pa)
  | (s1, .error (.trap c)) => (s1, .error (some c))
  | (s1, .error (.pull x p)) =>
    match s1.startPull d x p va none with
    | some s2 => (s2, .error none)
    | none => (s1, .error (some .access))

/-- Why a device access is not made: the address, and the cause of a failure, or none while it waits for a pull. -/
abbrev DevFail := VA × Option TrapCode

/-- The places of some device accesses can all be reached with R and W; nothing is written, and no A or D bit set. -/
def State.devCheck (s : State) (g : CoreId) (d : Dom) : List VA → State × Option DevFail
  | [] => (s, none)
  | va :: l =>
    match s.devPlace g d .quiet va with
    | (s1, .error c) => (s1, some (va, c))
    | (s1, .ok _) => s1.devCheck g d l

/-- The doublewords at a VA, which lie in one page, or the cause of the failure. -/
def State.devGet (s : State) (g : CoreId) (d : Dom) (va : VA) (n : Nat) : State × Except (Option TrapCode) (List Word) :=
  match s.devPlace g d .read va with
  | (s1, .error c) => (s1, .error c)
  | (s1, .ok pa) => (s1, .ok (bytesWords n (s1.cohRead pa (8 * n))))

/-- Doublewords stored at a VA, in one page used as `a` says; the cause of a failure. -/
def State.devPutAs (s : State) (g : CoreId) (d : Dom) (a : Acc) (va : VA) (ws : List Word) : State × Option DevFail :=
  match s.devPlace g d a va with
  | (s1, .error c) => (s1, some (va, c))
  | (s1, .ok pa) => (s1.cohWrite pa (wordsBytes ws), none)

/-- Doublewords stored at a VA, in one page with R and W. -/
def State.devPut (s : State) (g : CoreId) (d : Dom) (va : VA) (ws : List Word) : State × Option DevFail := s.devPutAs g d .both va ws

/-- Units of 64 bytes stored from a VA on, in pages used as `a` says; the place and cause of a failure. -/
def State.devPutMany (s : State) (g : CoreId) (d : Dom) (a : Acc) : Nat → VA → List Word → State × Option DevFail
  | 0, _, _ => (s, none)
  | n + 1, va, ws =>
    match s.devPutAs g d a va (ws.take 8) with
    | (s1, some f) => (s1, some f)
    | (s1, none) => s1.devPutMany g d a n (va + 64) (ws.drop 8)

/-- Units of 64 bytes read from a VA on. -/
def State.devGetMany (s : State) (g : CoreId) (d : Dom) : Nat → VA → State × Except DevFail (List Word)
  | 0, _ => (s, .ok [])
  | n + 1, va =>
    match s.devGet g d va 8 with
    | (s1, .error c) => (s1, .error (va, c))
    | (s1, .ok ws) =>
      match s1.devGetMany g d n (va + 64) with
      | (s2, .error c) => (s2, .error c)
      | (s2, .ok rest) => (s2, .ok (ws ++ rest))

/-! ## The fault queue (R324 to R326) -/

/-- N of FAULTQ.SIZE. -/
def Domain.fqN (d : Domain) : Nat := (d.fqSize.extractLsb' 0 16).toNat
/-- The queue is full (R324). -/
def Domain.fqFull (d : Domain) : Bool :=
  decide (d.fqN ≤ ((d.fqTail.setWidth 32) - (d.fqHead.setWidth 32)).toNat)

/-- What comes of a fault record that is offered to its queue: it is written, the queue counts as full, or a page of the queue is
awaited (R365). -/
inductive FqRes where
  | put | full | waits
  deriving DecidableEq, Repr

/-- A page of a fault queue could not be reached: the queue counts as full, unless the page is awaited; a retry follows (R326). -/
def State.fqMiss (s : State) (d : Dom) (c : Option TrapCode) : State × FqRes :=
  (s.modDom d (fun x => { x with fqRetry := s.cycle + 1024 }), if c.isNone then .waits else .full)

/-- One record is written, then TAIL, then the header with a release (R325). Nothing is written where there is no room or
a page cannot be reached. -/
def State.fqPut (s : State) (g : CoreId) (d : Dom) (r : FaultRec) : State × FqRes :=
  let q := s.dom d
  if q.fqFull then (s, .full)
  else
    let base : VA := q.fqBase.setWidth 48
    let t := (q.fqTail.setWidth 32).toNat
    match s.devPlace g d .write (base + BitVec.ofNat 48 (64 + 64 * (t % q.fqN))) with
    | (s1, .error c) => s1.fqMiss d c
    | (s1, .ok pa) =>
      match s1.devPlace g d .write base with
      | (s2, .error c) => s2.fqMiss d c
      | (s2, .ok hd) =>
        let t' := BitVec.ofNat 64 ((t + 1) % 2 ^ 32)
        let s3 := (s2.cohWrite pa (wordsBytes r.dws.toList)).modDom d (fun x => { x with fqTail := t', fqRetry := 0 })
        (s3.cohWriteWord hd t', .put)

/-- OVF goes up by one, saturating (R324). -/
def State.fqOverflow (s : State) (d : Dom) : State :=
  s.modDom d (fun x => { x with fqOvf := if x.fqOvf.toNat < 2 ^ 32 - 1 then x.fqOvf + 1 else x.fqOvf })

/-- A record joins what waits for a domain's queue. -/
def State.fqHold (s : State) (d : Dom) (w : FqWait) : State := s.modDom d (fun x => { x with fqWait := x.fqWait ++ [w] })

/-- A record is written at once if nothing waits before it and there is room. -/
def State.fqTry (s : State) (g : CoreId) (d : Dom) (r : FaultRec) : State × FqRes :=
  if (s.dom d).fqWait.isEmpty then s.fqPut g d r else (s, .full)

/-- A notice to domain 0, at most one of each KIND for a domain waiting at a time (R323). -/
def State.noticeZero (s : State) (g : CoreId) (kind : Nat) (d : Dom) (addr : Word) : State :=
  let r := s.noticeOf 0 kind d 0x3FF 0 addr 0 0 0
  match s.fqTry g 0 r with
  | (s1, .put) => s1
  | (s1, _) =>
    if (s1.dom 0).fqWait.any (fun w => match w with
        | .notice x => x.kind == kind && x.dom == d
        | .task .. => false) then s1
    else s1.fqHold 0 (.notice r)

/-- A notice to a domain's own queue; one of KIND 5 to 8 that finds no room adds to OVF and is held in order (R323). -/
def State.noticeOwn (s : State) (g : CoreId) (d : Dom) (r : FaultRec) : State :=
  match s.fqTry g d r with
  | (s1, .put) => s1
  | (s1, x) => (if 5 ≤ r.kind && x == .full then s1.fqOverflow d else s1).fqHold d (.notice r)

/-- Areas of KIND 7 notices: spill blocks, waystation, frame pool (R323). -/
abbrev areaSpill : Fin 3 := 0
/-- The waystation. -/
abbrev areaWay : Fin 3 := 1
/-- The frame pool. -/
abbrev areaFrame : Fin 3 := 2

/-- A device access to an area of a domain failed for a core: one KIND 7 notice until an access succeeds (R323). One that waits for a
pull has not failed. -/
def State.areaFailed (s : State) (g : CoreId) (d : Dom) (area : Fin 3) (f : DevFail) (r : Option TaskRec) (frame : VA) : State :=
  match f.2 with
  | none => s
  | some cause =>
  if (s.dom d).kind7.contains (g, area) then s
  else
    let s1 := s.modDom d (fun x => { x with kind7 := (g, area) :: x.kind7 })
    let w := match r with
      | some r => (r.dw0, r.dw7)
      | none => (0, 0)
    s1.noticeOwn g d (s1.noticeOf d 7 d (s1.ownNumber d g).toNat cause.num (f.1.setWidth 64) w.1 w.2 frame)

/-- An access to an area has succeeded for a core. -/
def State.areaOk (s : State) (g : CoreId) (d : Dom) (area : Fin 3) : State :=
  if (s.dom d).kind7.contains (g, area) then s.modDom d (fun x => { x with kind7 := x.kind7.filter (fun e => e != (g, area)) })
  else s

end Sys2Proof.Machine
end

