-- ==== Sys2Proof/Machine/Tasks.lean ====
section
/-! DEFINITION. Where task records wait: deques and spill blocks (R23, R53 to R57), inbox shares and the waystation (R293,
R295, R296), and the start of a task in a slot (R24, R44, R298). -/

namespace Sys2Proof.Machine

/-! ## The spill area (R55, R56) -/

/-- SPILL.BASE. -/
def Domain.spillVa (d : Domain) : VA := d.spillBase.setWidth 48
/-- NB. -/
def Domain.nb (d : Domain) : Nat := (d.spillSize.extractLsb' 0 12).toNat
/-- The offset of the blocks. -/
def blocksAt (nb : Nat) : Nat := (64 + 16 * nb + 4095) / 4096 * 4096
/-- W0, the offset of the waystation (R296). -/
def wayAt (nb : Nat) : Nat := blocksAt nb + 4096 * nb
/-- Entries of the waystation. -/
def wayEntries (nb : Nat) : Nat := 32 * nb - 1

/-- A record waits for its domain's dead-letter queue without having been started (R23). -/
def State.deadUnstarted (s : State) (g : CoreId) (d : Dom) (tr : TaskRec) : State :=
  s.modDom d (fun x => { x with dlWait := x.dlWait ++ [⟨tr, ⟨Vector.replicate 8 0⟩, g, none, none, none⟩] })

/-- Two doublewords at an offset of the spill area. -/
def State.spillPair (s : State) (g : CoreId) (d : Dom) (off : Nat) : State × Except DevFail (Nat × Nat) :=
  let va := (s.dom d).spillVa + BitVec.ofNat 48 off
  match s.devGet g d va 2 with
  | (s1, .error c) => (s1, .error (va, c))
  | (s1, .ok ws) => (s1, .ok ((ws.getD 0 0).toNat, (ws.getD 1 0).toNat))

/-- Doublewords stored at an offset of the spill area, in one 64-byte unit. -/
def State.spillPut (s : State) (g : CoreId) (d : Dom) (off : Nat) (ws : List Word) : State × Option DevFail :=
  let va := (s.dom d).spillVa + BitVec.ofNat 48 off
  s.devPut g d va ws

/-- Records become one block of the spill area under a tag (R56): false if the area is full, absent or out of reach. Every place is
reached before anything is written, so a failure writes nothing. Which of the records are barred (R294) is kept beside the area. -/
def State.spillBlock (s : State) (g : CoreId) (d : Dom) (tag : BitVec 10) (rs : List DqRec) : State × Bool :=
  let nb := (s.dom d).nb
  let first := (rs.map (fun r => r.tr)).head?
  if nb = 0 then (s, false)
  else
    match s.spillPair g d 0 with
    | (s1, .error f) => (s1.areaFailed g d areaSpill f first 0, false)
    | (s1, .ok (head, tail)) =>
      if nb ≤ tail - head then (s1, false)
      else
        let b := tail % nb
        let base := (s1.dom d).spillVa
        let va := base + BitVec.ofNat 48 (blocksAt nb + 4096 * b)
        match s1.devCheck g d [base, base + BitVec.ofNat 48 (64 + 16 * b), va] with
        | (s2, some f) => (s2.areaFailed g d areaSpill f first 0, false)
        | (s2, none) =>
          let s3 := (s2.devPutMany g d .both rs.length va (rs.flatMap (fun r => r.tr.words))).1
          let s4 := (s3.spillPut g d (64 + 16 * b) [BitVec.ofNat 64 (2 ^ rs.length - 1), tag.setWidth 64]).1
          let n := match (s4.spillPair g d 16).2 with
            | .ok x => x.1
            | .error _ => 0
          let s5 := (s4.spillPut g d 8 [BitVec.ofNat 64 (tail + 1), BitVec.ofNat 64 (n + 1)]).1
          let bars := (rs.zipIdx.filter (fun x => x.1.barred)).map (fun x => (tail, x.2))
          let s6 := if bars.isEmpty then s5 else s5.modDom d (fun x => { x with spillBarred := x.spillBarred ++ bars })
          ((s6.areaOk g d areaSpill).tally g (some d) 0x0032 1, true)

/-- The header of block number b: LIVE and the tag. -/
def State.blockHeader (s : State) (g : CoreId) (d : Dom) (b : Nat) : State × Except DevFail (Nat × Nat) :=
  s.spillPair g d (64 + 16 * (b % (s.dom d).nb))

/-- HEAD moves past the blocks whose LIVE is zero (R56); an access that fails leaves it, with the notice. -/
def State.headOn (s : State) (g : CoreId) (d : Dom) : Nat → State
  | 0 => s
  | n + 1 =>
    match s.spillPair g d 0 with
    | (s1, .error f) => s1.areaFailed g d areaSpill f none 0
    | (s1, .ok (head, tail)) =>
      if tail ≤ head then s1
      else
        match s1.blockHeader g d head with
        | (s2, .ok (0, _)) =>
          match s2.spillPut g d 0 [BitVec.ofNat 64 (head + 1)] with
          | (s3, some f) => s3.areaFailed g d areaSpill f none 0
          | (s3, none) => s3.headOn g d n
        | (s2, .ok _) => s2
        | (s2, .error f) => s2.areaFailed g d areaSpill f none 0

/-- The newest block of a range that holds live records for a core: its number and LIVE. -/
def State.findBlock (s : State) (g : CoreId) (d : Dom) (head : Nat) (mine : BitVec 10) : Nat → State × Except DevFail (Option (Nat × Nat))
  | 0 => (s, .ok none)
  | n + 1 =>
    match s.blockHeader g d (head + n) with
    | (s1, .error f) => (s1, .error f)
    | (s1, .ok (live, tag)) =>
      if live ≠ 0 && (tag % 1024 == mine.toNat || tag % 1024 == 0x3FF) then (s1, .ok (some (head + n, live)))
      else s1.findBlock g d head mine n

/-- A record that the device reads back is used as found (R23): a gate call is cross-domain by its ORIGIN, an ORIGIN 3 record if it
was kept that it answers one (R22). -/
def TaskRec.found (ws : List Word) (answers : Bool) : TaskRec :=
  let t := TaskRec.ofWords ws false
  { t with cross := t.origin == 4 || (t.origin == 3 && answers) }

/-- The records of a block, oldest first, or the failure. -/
def State.blockRecords (s : State) (g : CoreId) (d : Dom) (b : Nat) : State × Except DevFail (List DqRec) :=
  let nb := (s.dom d).nb
  match s.devGetMany g d 64 ((s.dom d).spillVa + BitVec.ofNat 48 (blocksAt nb + 4096 * (b % nb))) with
  | (s1, .error f) => (s1, .error f)
  | (s1, .ok ws) => (s1, .ok ((List.range 64).map (fun i =>
      ⟨TaskRec.found ((ws.drop (8 * i)).take 8) false, (s1.dom d).spillBarred.contains (b, i), false⟩)))

/-- Records taken out of a block are barred there no more. -/
def State.unbar (s : State) (d : Dom) (b : Nat) (took : Nat → Bool) : State :=
  if (s.dom d).spillBarred.isEmpty then s
  else s.modDom d (fun x => { x with spillBarred := x.spillBarred.filter (fun y => !(y.1 == b && took y.2)) })

/-- Records read back enter the deque's bottom, oldest first; one of another domain goes to the dead letters (R23). -/
def State.takeBack (s : State) (g : CoreId) (e : PartId) (rs : List DqRec) : State :=
  let d := (s.core g).part[e].dom
  rs.foldl (fun s r =>
    if r.tr.dom = d then s.modPart g e (fun p => { p with deque := p.deque ++ [r] }) else s.deadUnstarted g d r.tr) s

/-- A reload of an empty deque from the newest block that names the core (R57): true if it brought a record. -/
def State.reloadDeque (s : State) (g : CoreId) (e : PartId) : State × Bool :=
  let d := (s.core g).part[e].dom
  if (s.dom d).nb = 0 then (s, false)
  else
    match s.spillPair g d 0 with
    | (s1, .error f) => (s1.areaFailed g d areaSpill f none 0, false)
    | (s1, .ok (head, tail)) =>
      match s1.findBlock g d head (s1.ownNumber d g) (min (tail - head) (s1.dom d).nb) with
      | (s2, .error f) => (s2.areaFailed g d areaSpill f none 0, false)
      | (s2, .ok none) => (s2, false)
      | (s2, .ok (some (b, live))) =>
        match s2.blockRecords g d b with
        | (s3, .error f) => (s3.areaFailed g d areaSpill f none 0, false)
        | (s3, .ok rs) =>
          match s3.spillPut g d (64 + 16 * (b % (s3.dom d).nb)) [0] with
          | (s4, some f) => (s4.areaFailed g d areaSpill f none 0, false)
          | (s4, none) =>
            let mine := (rs.zipIdx.filter (fun x => live.testBit x.2)).map (fun x => x.1)
            let s5 := (((s4.areaOk g d areaSpill).unbar d b (fun _ => true)).headOn g d (s4.dom d).nb).takeBack g e mine
            (s5, !(s5.core g).part[e].deque.isEmpty)

/-- The oldest stealable record of the blocks from number b on (R57, theft), but for one that its own core has barred (R294). -/
def State.stealBlocks (s : State) (g : CoreId) (d : Dom) : Nat → Nat → State × Option TaskRec
  | 0, _ => (s, none)
  | n + 1, b =>
    match s.blockHeader g d b with
    | (s1, .error f) => (s1.areaFailed g d areaSpill f none 0, none)
    | (s1, .ok (live, tag)) =>
      match s1.blockRecords g d b with
      | (s2, .error f) => (s2.areaFailed g d areaSpill f none 0, none)
      | (s2, .ok rs) =>
        let mine := tag % 1024 == (s2.ownNumber d g).toNat
        match rs.zipIdx.find? (fun x => live.testBit x.2 && x.1.tr.stl && !(x.1.barred && mine)) with
        | none => s2.stealBlocks g d n (b + 1)
        | some (r, i) =>
          match s2.spillPut g d (64 + 16 * (b % (s2.dom d).nb)) [BitVec.ofNat 64 (live - 2 ^ i)] with
          | (s3, some f) => (s3.areaFailed g d areaSpill f none 0, none)
          | (s3, none) =>
            let s4 := ((s3.areaOk g d areaSpill).unbar d b (fun j => j == i)).headOn g d (s3.dom d).nb
            if r.tr.dom = d then (s4, some r.tr) else (s4.deadUnstarted g d r.tr, none)

/-- A theft from the domain's spill area. -/
def State.stealSpill (s : State) (g : CoreId) (d : Dom) : State × Option TaskRec :=
  if (s.dom d).nb = 0 then (s, none)
  else
    match s.spillPair g d 0 with
    | (s1, .error f) => (s1.areaFailed g d areaSpill f none 0, none)
    | (s1, .ok (head, tail)) => s1.stealBlocks g d (min (tail - head) (s1.dom d).nb) head

/-! ## Deques (R53 to R55) -/

/-- The capacity of a deque (R53). -/
def Core.dequeCap (c : Core) : Nat := 256 - 64 * (c.shares - 1)

/-- Records of a deque that wait to be started: not those that only wait for their dead-letter entries (R327). -/
def Part.live (p : Part) : List DqRec := p.deque.filter (fun r => !r.dead)

/-- The oldest records of a deque, at most 64, become a block. -/
def State.spillTop (s : State) (g : CoreId) (e : PartId) (n : Nat) (tag : BitVec 10) : State × Bool :=
  let p := (s.core g).part[e]
  let out := p.live.take n
  if out.isEmpty then (s, p.deque.isEmpty)
  else
    match s.spillBlock g p.dom tag out with
    | (s1, true) => (s1.modPart g e (fun p => { p with deque := p.deque.filter (fun r => r.dead) ++ p.live.drop n }), true)
    | (s1, false) => (s1, false)

/-- Room for one record in a deque, after a spill if it is full (R55). -/
def State.dequeRoom (s : State) (g : CoreId) (e : PartId) : State × Bool :=
  if (s.core g).part[e].deque.length < (s.core g).dequeCap then (s, true)
  else s.spillTop g e 64 (s.ownNumber (s.core g).part[e].dom g)

/-- A domain of the core has gained a startable item: the wait before the next round of steals ends (R60). -/
def State.gained (s : State) (g : CoreId) : State :=
  if s.cycle < (s.core g).steal.wait then s.modCore g (fun c => { c with steal := { c.steal with wait := s.cycle } }) else s

/-- A record is pushed at the bottom of a deque; false while it is full and cannot spill. -/
def State.pushBottom (s : State) (g : CoreId) (e : PartId) (r : DqRec) : State × Bool :=
  match s.dequeRoom g e with
  | (s1, true) => ((s1.modPart g e (fun p => { p with deque := p.deque ++ [r] })).gained g, true)
  | (s1, false) => (s1, false)

/-- A record returns to the top of a deque (R313). -/
def State.pushTop (s : State) (g : CoreId) (e : PartId) (r : DqRec) : State × Bool :=
  match s.dequeRoom g e with
  | (s1, true) => ((s1.modPart g e (fun p => { p with deque := r :: p.deque })).gained g, true)
  | (s1, false) => (s1, false)

/-! ## The waystation (R296) -/

/-- Arrival ranks and spilling of a tuple. -/
def Core.rank (c : Core) (d : Dom) (vn : Bool) : RankState :=
  match c.ranks.find? (fun r => r.dom == d && r.reply == vn) with
  | some r => r
  | none => ⟨d, vn, 0, false, [], [], 0⟩

/-- The same, replaced. -/
def State.setRank (s : State) (g : CoreId) (r : RankState) : State :=
  s.modCore g (fun c => { c with ranks := r :: c.ranks.filter (fun x => !(x.dom == r.dom && x.reply == r.reply)) })

/-- The tag of a waystation entry. -/
def wayTag (rank : BitVec 32) (vn : Bool) (v : BitVec 10) : Word :=
  BitVec.ofNat 64 (2 ^ 63 + rank.toNat * 2 ^ 11 + (if vn then 1024 else 0) + v.toNat)

/-- The waystation of a domain has changed: what a failure holds back is offered again (R296). -/
def State.wayChanged (s : State) (d : Dom) : State :=
  (List.finRange 768).foldl (fun (s : State) (g : CoreId) =>
    if (s.core g).ranks.any (fun r => r.dom == d && r.retry != 0) then
      s.modCore g (fun c => { c with ranks := c.ranks.map (fun (r : RankState) => if r.dom = d then { r with retry := 0 } else r) })
    else s) s

/-- The places of waystation entry e and of the counts, from the base of the spill area. -/
def wayPlaces (base : VA) (nb e : Nat) : List VA :=
  let w0 := wayAt nb
  [base + BitVec.ofNat 48 w0, base + BitVec.ofNat 48 (w0 + 64 + 128 * (e % wayEntries nb)),
    base + BitVec.ofNat 48 (w0 + 64 + 128 * (e % wayEntries nb) + 64)]

/-- A record enters the waystation, tagged with a core (R296). Every place is reached before anything is written. -/
def State.wayPush (s : State) (g : CoreId) (d : Dom) (tr : TaskRec) (rank : BitVec 32) : State × Bool :=
  let nb := (s.dom d).nb
  let w0 := wayAt nb
  if nb = 0 then (s, false)
  else
    match s.spillPair g d w0 with
    | (s1, .error f) => (s1.areaFailed g d areaWay f (some tr) 0, false)
    | (s1, .ok (head, tail)) =>
      if wayEntries nb ≤ tail - head then (s1, false)
      else
        match s1.devCheck g d (wayPlaces (s1.dom d).spillVa nb tail) with
        | (s2, some f) => (s2.areaFailed g d areaWay f (some tr) 0, false)
        | (s2, none) =>
          let at_ := w0 + 64 + 128 * (tail % wayEntries nb)
          let s3 := (s2.spillPut g d at_ tr.words).1
          let s4 := (s3.spillPut g d (at_ + 64) [wayTag rank tr.vn (s3.ownNumber d g), 0, 0, 0, 0, 0, 0, 0]).1
          let n := match (s4.spillPair g d (w0 + 16)).2 with
            | .ok x => x.1
            | .error _ => 0
          let s5 := (s4.spillPut g d (w0 + 8) [BitVec.ofNat 64 (tail + 1), BitVec.ofNat 64 (n + 1)]).1
          ((s5.areaOk g d areaWay).wayChanged d, true)

/-- RHEAD moves past the entries whose FULL is 0. -/
def State.wayHeadOn (s : State) (g : CoreId) (d : Dom) : Nat → State
  | 0 => s
  | n + 1 =>
    let w0 := wayAt (s.dom d).nb
    match s.spillPair g d w0 with
    | (s1, .error _) => s1
    | (s1, .ok (head, tail)) =>
      if tail ≤ head then s1
      else
        match s1.spillPair g d (w0 + 64 + 128 * (head % wayEntries (s1.dom d).nb) + 64) with
        | (s2, .error _) => s2
        | (s2, .ok (tag, _)) =>
          if tag.testBit 63 then s2
          else (s2.spillPut g d w0 [BitVec.ofNat 64 (head + 1)]).1.wayHeadOn g d n

/-- The entries of a tuple from number e on: their numbers and ranks. -/
def State.wayScan (s : State) (g : CoreId) (d : Dom) (vn : Bool) (v : BitVec 10) :
    Nat → Nat → State × Except DevFail (List (Nat × BitVec 32))
  | 0, _ => (s, .ok [])
  | n + 1, e =>
    match s.spillPair g d (wayAt (s.dom d).nb + 64 + 128 * (e % wayEntries (s.dom d).nb) + 64) with
    | (s1, .error f) => (s1, .error f)
    | (s1, .ok (tag, _)) =>
      let t := BitVec.ofNat 64 tag
      let hit := t.getLsbD 63 && t.getLsbD 10 == vn && t.extractLsb' 0 10 == v
      match s1.wayScan g d vn v n (e + 1) with
      | (s2, .error f) => (s2, .error f)
      | (s2, .ok l) => (s2, .ok (if hit then (e, t.extractLsb' 11 32) :: l else l))

/-- The entry with the oldest rank, counted back from the next rank of the tuple. -/
def oldestRank (next : BitVec 32) : List (Nat × BitVec 32) → Option (Nat × BitVec 32)
  | [] => none
  | x :: l =>
    match oldestRank next l with
    | none => some x
    | some y => if (next - y.2).toNat < (next - x.2).toNat then some x else some y

/-- What a look into the waystation gives. -/
inductive WayRes where
  | nothing
  | failed
  | got (tr : TaskRec) (barred : Bool) (rank : BitVec 32) (last : Bool)

/-- The oldest waystation entry of a tuple is taken out (R295, R296). -/
def State.wayTake (s : State) (g : CoreId) (d : Dom) (vn : Bool) : State × WayRes :=
  let nb := (s.dom d).nb
  let w0 := wayAt nb
  let r := (s.core g).rank d vn
  if nb = 0 then (s, .nothing)
  else
    match s.spillPair g d w0 with
    | (s1, .error f) => (s1.areaFailed g d areaWay f none 0, .failed)
    | (s1, .ok (head, tail)) =>
      match s1.wayScan g d vn (s1.ownNumber d g) (min (tail - head) (wayEntries nb)) head with
      | (s2, .error f) => (s2.areaFailed g d areaWay f none 0, .failed)
      | (s2, .ok l) =>
        match oldestRank r.next l with
        | none => (s2, .nothing)
        | some (e, rank) =>
          let at_ := w0 + 64 + 128 * (e % wayEntries nb)
          match s2.devGet g d ((s2.dom d).spillVa + BitVec.ofNat 48 at_) 9 with
          | (s3, .error c) => (s3.areaFailed g d areaWay ((s3.dom d).spillVa + BitVec.ofNat 48 at_, c) none 0, .failed)
          | (s3, .ok ws) =>
            match s3.spillPut g d (at_ + 64) [(ws.getD 8 0) &&& 0x7FFFFFFFFFFFFFFF] with
            | (s4, some f) => (s4.areaFailed g d areaWay f none 0, .failed)
            | (s4, none) =>
              let s5 := ((s4.areaOk g d areaWay).wayHeadOn g d (wayEntries nb)).wayChanged d
              (s5, .got (TaskRec.found ws (r.cross.contains rank)) (r.barred.contains rank) rank (l.length == 1))

/-! ## The inbox (R295) -/

/-- Entries of an inbox share. -/
def Core.inboxCap (c : Core) (vn : Bool) : Nat := (if vn then 64 else 192) / max 1 c.shares

/-- The inbox share of an entry for a network. -/
def Part.inbox (p : Part) (vn : Bool) : List InMsg := if vn then p.inRep else p.inReq
/-- The same, replaced. -/
def Part.setInbox (p : Part) (vn : Bool) (l : List InMsg) : Part := if vn then { p with inRep := l } else { p with inReq := l }

/-- A rank's record has entered the waystation: what its bits there do not say is kept (R22, R294). -/
def RankState.keep (r : RankState) (rank : BitVec 32) (tr : TaskRec) (barred : Bool) : RankState :=
  { r with spilling := true, cross := if tr.cross then rank :: r.cross else r.cross, barred := if barred then rank :: r.barred else r.barred }

/-- An arriving message is placed in the inbox share or the waystation; false where it is refused and stays with its
sender (R292, R295, R296). A record that returns may be barred (R294, R347). -/
def State.placeMessage (s : State) (g : CoreId) (tr : TaskRec) (barred : Bool) : State × Bool :=
  let c := s.core g
  let r := c.rank tr.dom tr.vn
  let inbox := match c.entryOf tr.dom with
    | some e => if r.spilling || c.inboxCap tr.vn ≤ (c.part[e].inbox tr.vn).length then none else some e
    | none => none
  match inbox with
  | some e =>
    let s1 := s.modPart g e (fun p => p.setInbox tr.vn (p.inbox tr.vn ++ [⟨tr, r.next, false, barred⟩]))
    ((s1.setRank g { r with next := r.next + 1 }).gained g, true)
  | none =>
    match s.wayPush g tr.dom tr r.next with
    | (s1, true) =>
      (s1.setRank g { (((s1.core g).rank tr.dom tr.vn).keep r.next tr barred) with next := r.next + 1 }, true)
    | (s1, false) => (s1.setRank g { r with retry := s1.cycle + 1024 }, false)

/-- One waystation entry comes back into the inbox while the share has room; spilling ends when none remains (R295). -/
def State.wayReload (s : State) (g : CoreId) (d : Dom) (vn : Bool) : State :=
  let c := s.core g
  match c.entryOf d with
  | none => s
  | some e =>
    if c.inboxCap vn ≤ (c.part[e].inbox vn).length then s
    else
      match s.wayTake g d vn with
      | (s1, .nothing) => s1.setRank g { ((s1.core g).rank d vn) with spilling := false }
      | (s1, .failed) => s1.setRank g { ((s1.core g).rank d vn) with retry := s1.cycle + 1024 }
      | (s1, .got tr barred rank last) =>
        let r := (s1.core g).rank d vn
        let s2 := s1.setRank g { r with
          spilling := !last, cross := r.cross.filter (fun x => x != rank), barred := r.barred.filter (fun x => x != rank), retry := 0 }
        if tr.dom = d then (s2.modPart g e (fun p => p.setInbox vn (p.inbox vn ++ [⟨tr, rank, false, barred⟩]))).gained g
        else s2.deadUnstarted g d tr

/-! ## The start of a task (R24, R44, R298) -/

/-- The registers of a slot at zero, for a task of another domain (R44). -/
def Slot.scrub (sl : Slot) : Slot :=
  { sl with
    x := Vector.replicate 32 0, v := Vector.replicate 64 0, p := Vector.replicate 8 0, k := Vector.replicate 64 0
    cnt := Counters.zero, fflags := 0, frm := 0 }

/-- k7 at the start of a task (R24). -/
def startK7 (tr : TaskRec) : Word :=
  let d := if tr.cross then tr.lid.extractLsb' 0 8 else tr.dom
  let gate : BitVec 8 := if tr.cross then tr.lid.extractLsb' 8 8 else 0
  let lid : BitVec 16 := if tr.cross then 0 else tr.lid
  BitVec.ofNat 64 (lid.toNat * 2 ^ 32 + gate.toNat * 2 ^ 24 + d.toNat * 2 ^ 16 + tr.origin.toNat * 2 ^ 10 + tr.svc.toNat)

/-- The constant bank at the start of a task: the payload, TIDX, k7, and the launch's constant block (R24). -/
def startK (tr : TaskRec) (block : List Word) : Vector Word 64 :=
  Vector.ofFn (fun i : Fin 64 =>
    if h : i.val < 6 then tr.pay[i.val]
    else if i.val = 6 then tr.tidx.setWidth 64
    else if i.val = 7 then startK7 tr
    else block.getD (i.val - 8) 0)

/-- The reply grant that a started record gives (R298). -/
def startGrant (tr : TaskRec) : Grant :=
  if tr.origin = 4 && tr.pay[5].getLsbD 0 then
    ⟨true, false, tr.svc, tr.lid.extractLsb' 0 8, (tr.pay[5].setWidth 48) &&& 0xFFFFFFFFFFF8⟩
  else Grant.none

/-- The slot at the start of a task. -/
def Slot.start (sl : Slot) (t : Task) (block : List Word) : Slot :=
  let s1 := if sl.dom = t.tr.dom then sl else sl.scrub
  { s1 with
    k := startK t.tr block, cnt := Counters.zero, fflags := 0, frm := 0, pc := t.tr.handler, dom := t.tr.dom
    status := .running, task := t, q := Vector.replicate 4 ⟨0, 0, 0⟩, eng := 0, acq := 0, tile := none }

/-- The constant block of the launch of a record, for ORIGIN 0 (R24, R28). -/
def State.launchBlock (s : State) (tr : TaskRec) : List Word :=
  if tr.origin = 0 then
    match s.launches.find? (fun l => l.lid == tr.lid.setWidth 64) with
    | some l => l.desc.drop 8
    | none => []
  else []

/-- The budget of a domain's task on a core, in cycles (R42, R43). -/
def Core.budgetOf (c : Core) (d : Dom) : Nat :=
  match c.entryOf d with
  | some e => c.part[e].budget
  | none => 0

/-- A task starts in a slot: an acquire at package scope (R24, R47, R220). -/
def State.startTask (s : State) (g : CoreId) (i : SlotId) (tr : TaskRec) (src : Source) (rank : BitVec 32)
    (team : Option Nat) (bar : Option (Fin 8)) : State :=
  let t : Task := ⟨tr, src, rank, false, team, bar, startGrant tr, s.cycle, (s.core g).budgetOf tr.dom, s.nextAct⟩
  let s1 := (s.reslot g i (fun sl => sl.start t (s.launchBlock tr))).acquireDrop g
  ({ s1 with nextAct := s.nextAct + 1 }).tally g (some tr.dom) 0x0030 1

end Sys2Proof.Machine
end

