-- ==== Sys2Proof/Machine/Frames.lean ====
section
/-! DEFINITION. The frame pool, the frame's layout, and what a slot gives up when its task leaves it (R317 to R320, R381). -/

namespace Sys2Proof.Machine

/-! ## The pool (R320) -/

/-- What an allocation gives. -/
inductive FrameRes where
  | got (f : VA)
  | empty
  | failed (f : DevFail)

/-- FRAMEPOOL.BASE. -/
def Domain.fpVa (d : Domain) : VA := d.fpBase.setWidth 48

/-- Frame number n of a pool. -/
def frameAt (base : VA) (n : Nat) : VA := base + BitVec.ofNat 48 (8192 + 9216 * n)

/-- The lowest free frame from a word of the bitmap on; its bit is set. -/
def State.frameScan (s : State) (g : CoreId) (d : Dom) (base : VA) (nf : Nat) : Nat → Nat → State × FrameRes
  | 0, _ => (s, .empty)
  | n + 1, w =>
    let va := base + BitVec.ofNat 48 (8 * w)
    match s.devPlace g d .both va with
    | (s1, .error c) => (s1, .failed (va, c))
    | (s1, .ok pa) =>
      let m := s1.cohWord pa
      match (List.range 64).find? (fun b => decide (64 * w + b < nf) && !m.getLsbD b) with
      | some b => (s1.cohWriteWord pa (m ||| (1#64 <<< b)), .got (frameAt base (64 * w + b)))
      | none => s1.frameScan g d base nf n (w + 1)

/-- The number of a frame of a pool, if the VA is one. -/
def Domain.frameNumber (d : Domain) (f : VA) : Option Nat :=
  let off := f.toNat - (d.fpVa.toNat + 8192)
  if d.fpVa.toNat + 8192 ≤ f.toNat && off % 9216 == 0 && decide (off / 9216 < d.fpNf.toNat) then some (off / 9216) else none

/-- The bit of a free frame is cleared at its home; the place and cause of a failure (R320). -/
def State.frameClear (s : State) (g : CoreId) (d : Dom) (f : VA) : State × Option DevFail :=
  match (s.dom d).frameNumber f with
  | none => (s, none)
  | some n =>
    let va := (s.dom d).fpVa + BitVec.ofNat 48 (8 * (n / 64))
    match s.devPlace g d .both va with
    | (s1, .error c) => (s1, some (va, c))
    | (s1, .ok pa) =>
      let s2 := s1.cohWriteWord pa (s1.cohWord pa &&& ~~~(1#64 <<< (n % 64)))
      (s2.modDom d (fun x => { x with fpFree := if x.fpFree.toNat < x.fpNf.toNat then x.fpFree + 1 else x.fpFree }), none)

/-- A frame returns to its pool. Where the page of its bit cannot be reached, a notice of KIND 7 says so and the device tries again, as
R381 states for the other accesses to the pool (R320, R323; log 25). -/
def State.frameFree (s : State) (g : CoreId) (d : Dom) (f : VA) : State :=
  match s.frameClear g d f with
  | (s1, none) => s1
  | (s1, some x) =>
    (s1.modDom d (fun y => { y with unfreed := y.unfreed ++ [(g, f, s1.cycle + 1024)] })).areaFailed g d areaFrame x none 0

/-- One frame whose bit could not be reached is tried again. -/
def State.refreeOne (s : State) (d : Dom) (x : CoreId × VA × Nat) : State :=
  (s.modDom d (fun y => { y with unfreed := y.unfreed.erase x })).frameFree x.1 d x.2.1

/-- The frames of a domain whose bits could not be reached are tried again, once their time has come (R381). -/
def State.refree (s : State) (d : Dom) : State :=
  ((s.dom d).unfreed.filter (fun x => decide (x.2.2 ≤ s.cycle))).foldl (fun s x => s.refreeOne d x) s

/-- Every domain's, if the time of any has come. -/
def State.refreeDue (s : State) : Option State :=
  match (List.range 256).filter (fun d => (s.dom (BitVec.ofNat 8 d)).unfreed.any (fun x => decide (x.2.2 ≤ s.cycle))) with
  | [] => none
  | l => some (l.foldl (fun s d => s.refree (BitVec.ofNat 8 d)) s)

/-- A frame is taken from a domain's pool. -/
def State.frameTake (s : State) (g : CoreId) (d : Dom) : State × FrameRes :=
  let q := s.dom d
  if q.fpFree = 0 then (s, .empty)
  else
    match s.frameScan g d q.fpVa q.fpNf.toNat ((q.fpNf.toNat + 63) / 64) 0 with
    | (s1, .got f) => ((s1.modDom d (fun x => { x with fpFree := x.fpFree - 1 })).areaOk g d areaFrame, .got f)
    | r => r

/-! ## The image (R318, R319) -/

/-- A vector register as 16 doublewords. -/
def vWords (v : VReg) : List Word := (List.range 16).map (fun i => v.extractLsb' (64 * i) 64)

/-- The wake condition as S4, S5 and S6 hold it. -/
def wakeWords (w : Wake) : List Word :=
  match w with
  | .now => [0, 0, 0]
  | .cycles n => [1, BitVec.ofNat 64 n, 0]
  | .watch va _ e sc => [2 + sc.setWidth 64 <<< 4, va.setWidth 64, e]
  | .phase n _ ph => [3, n, ph.setWidth 64]

/-- The reply grant as S7 holds it. -/
def grantWord (x : Grant) : Word :=
  if x.valid then
    1#64 <<< 63 ||| (BitVec.ofBool x.consumed).setWidth 64 <<< 62 ||| x.vcore.setWidth 64 <<< 48 ||| x.dom.setWidth 64 <<< 40
  else 0

/-- Messages of an activation not yet committed (R292). -/
def Core.uncommitted (c : Core) (act : Nat) : Nat := (c.sendBuf.filter (fun m => m.act == act && !m.committed)).length

/-- S3 (R319). -/
def frameS3 (kind : Nat) (sl : Slot) (i : SlotId) (unc : Nat) : Word :=
  BitVec.ofNat 64 (kind * 2 ^ 62 + sl.level.toNat * 2 ^ 60 + unc * 2 ^ 48 + i.val * 2 ^ 44 + sl.frm.toNat * 2 ^ 5 + sl.fflags.toNat) |||
    packCounters sl.cnt

/-- The doublewords of a frame. -/
def frameImage (sl : Slot) (i : SlotId) (pc : VA) (kind unc : Nat) (w : Wake) (home : BitVec 10) : List Word :=
  sl.v.toList.flatMap vWords ++ sl.k.toList ++ (List.range 32).map (fun n => sl.readX (BitVec.ofNat 5 n)) ++
    (List.range 4).map (fun n => (sl.readP (BitVec.ofNat 3 (2 * n + 1))).setWidth 64 <<< 32 ||| (sl.readP (BitVec.ofNat 3 (2 * n))).setWidth 64) ++
    [pc.setWidth 64, sl.task.tr.dw0, sl.task.tr.dw7, frameS3 kind sl i unc] ++ wakeWords w ++ [grantWord sl.task.grant] ++
    sl.q.toList.map (fun q => q.seq) ++ sl.q.toList.map (fun q => q.ret) ++
    [BitVec.ofNat 64 (packFields 16 (fun n => (sl.q[n]?.map (fun q => q.err.toNat)).getD 0) 4), home.setWidth 64,
      if sl.task.grant.valid then sl.task.grant.handler.setWidth 64 else 0] ++ List.replicate 9 0

/-- A context is written into a frame; the place and cause of a failure. -/
def State.saveFrame (s : State) (g : CoreId) (i : SlotId) (f : VA) (pc : VA) (kind : Nat) (w : Wake) :
    State × Option DevFail :=
  let sl := s.slot g i
  s.devPutMany g sl.dom .both 144 f (frameImage sl i pc kind ((s.core g).uncommitted sl.task.act) w (s.ownNumber sl.dom g))

/-- A slot as a frame's doublewords give it (R319): registers, PC, FRM and FFLAGS, counters, seq, ret and error counts. -/
def Slot.ofFrame (sl : Slot) (ws : List Word) : Slot :=
  let w := fun n => ws.getD n 0
  let st := fun n => ws.getD (1124 + n) 0
  { sl with
    v := Vector.ofFn (fun n : Fin 64 => BitVec.ofNat 1024 (packFields 64 (fun j => (w (16 * n.val + j)).toNat) 16))
    k := Vector.ofFn (fun n : Fin 64 => w (1024 + n.val))
    x := Vector.ofFn (fun n : Fin 32 => if n.val = 0 then 0 else w (1088 + n.val))
    p := Vector.ofFn (fun n : Fin 8 => if n.val = 0 then 0 else (w (1120 + n.val / 2)).extractLsb' (32 * (n.val % 2)) 32)
    pc := (st 0).setWidth 48
    cnt := unpackCounters (st 3)
    frm := (st 3).extractLsb' 5 3
    fflags := (st 3).extractLsb' 0 5
    q := Vector.ofFn (fun n : Fin 4 => ⟨st (8 + n.val), st (12 + n.val), (st 16).extractLsb' (16 * n.val) 16⟩) }

/-! ## Leaving a slot -/

/-- Loads of an activation complete into nothing (R311). -/
def State.dropLoads (s : State) (g : CoreId) (i : SlotId) : State :=
  let act := (s.slot g i).task.act
  s.modCore g (fun c =>
    let c1 : Core := { c with pend := c.pend.map (fun (p : Pend) => if p.slot = i && p.act == act && !p.isStore then { p with act := 0 } else p) }
    c1.setSlot i { c1.slots[i] with cnt := { c1.slots[i].cnt with ld := 0 } })

/-- Uncommitted messages of an activation are discarded (R292, R312). -/
def State.dropUncommitted (s : State) (g : CoreId) (act : Nat) : State :=
  s.modCore g (fun c => { c with sendBuf := c.sendBuf.filter (fun m => !(m.act == act && !m.committed)) })

/-- Uncommitted messages of an activation are committed, in send order, as one step (R292): their number goes into cnt.sd. -/
def State.commit (s : State) (g : CoreId) (i : SlotId) : State :=
  let act := (s.slot g i).task.act
  let n := (s.core g).uncommitted act
  if n = 0 then s
  else
    s.modCore g (fun c =>
      let mine := c.sendBuf.filter (fun m => m.act == act && !m.committed)
      let rest := c.sendBuf.filter (fun m => !(m.act == act && !m.committed))
      let c1 : Core := { c with sendBuf := rest ++ mine.map (fun (m : OutMsg) => { m with committed := true, rel := s.nextPend, mark := (s.slot g i).acq }) }
      c1.setSlot i { c1.slots[i] with cnt := { c1.slots[i].cnt with sd := c1.slots[i].cnt.sd + BitVec.ofNat 6 n } })

/-- The reservation of a slot is lost (R247, R312). -/
def State.dropReservation (s : State) (g : CoreId) (i : SlotId) : State :=
  if s.resv.isEmpty then s else { s with resv := s.resv.filter (fun r => !(r.g == g && r.slot == i)) }

/-- A slot becomes free, or reserved to a record. -/
def State.leaveSlot (s : State) (g : CoreId) (i : SlotId) (st : SlotStatus) : State :=
  (s.reslot g i (fun sl => { sl with status := st, task := { sl.task with act := 0 }, tile := none })).dropReservation g i

/-- The inbox entry of a started message that has neither parked nor been suspended is freed (R313). -/
def State.dropInbox (s : State) (g : CoreId) (t : Task) : State :=
  match t.source, t.moved with
  | .inbox vn, false =>
    match (s.core g).entryOf t.tr.dom with
    | some e => s.modPart g e (fun p => p.setInbox vn ((p.inbox vn).filter (fun m => !(m.started && m.rank == t.rank))))
    | none => s
  | _, _ => s

/-- The task of a slot becomes a continuation of its core: a frame holds its context. A park is a release at package scope of what
the task has issued (R137). -/
def State.addCont (s : State) (g : CoreId) (i : SlotId) (f : VA) (w : Wake) (suspended : Bool) : State :=
  let sl := s.slot g i
  let c : Cont := ⟨s.nextCont, sl.dom, f, g, w, s.cycle, if suspended then 0 else s.nextPend, sl.acq, suspended, !suspended && w == .now, false, 0, { sl.task with moved := true }, [], none, sl.task.act⟩
  { s with conts := s.conts ++ [c], nextCont := s.nextCont + 1 }

end Sys2Proof.Machine
end

