-- ==== Sys2Proof/Machine/Bars.lean ====
section
/-! DEFINITION. Barriers: their names, their phases and arrivals, and who wakes when a phase passes (R52, R299 to R304). -/

namespace Sys2Proof.Machine

/-- A number below a limit as an index. -/
def finOf (n : Nat) [NeZero n] (i : Nat) : Option (Fin n) := if h : i < n then some ⟨i, h⟩ else none

/-- The barrier that a name addresses from a core for a task; none where the name raises ILLEGAL (R299). -/
def barOf (g : CoreId) (team : Option (Fin 8)) (name : Word) : Option BarRef :=
  let i := (name.extractLsb' 0 8).toNat
  if name.extractLsb' 11 53 ≠ 0 then none
  else
    match (name.extractLsb' 8 3).toNat with
    | 2 => (finOf 8 i).map (fun i => .quad g.die g.quad i)
    | 3 => (finOf 64 i).map (fun i => .die g.die i)
    | 4 => (finOf 32 i).map (fun i => .pkg i)
    | 5 => (finOf 8 i).map (fun i => .pod i)
    | 6 => if i = 0 then team.map (fun i => .quad g.die g.quad i) else none
    | _ => none

/-- The state of a barrier. -/
def State.bar (s : State) (r : BarRef) : Bar :=
  match r with
  | .quad d q i => ((s.die d).quadBar[q])[i]
  | .die d i => (s.die d).dieBar[i]
  | .pkg i => s.pkgBar[i]
  | .pod i => s.podBar[i]

/-- The state of a barrier replaced. -/
def State.setBar (s : State) (r : BarRef) (b : Bar) : State :=
  match r with
  | .quad d q i => s.modDie d (fun x => { x with quadBar := x.quadBar.set q (x.quadBar[q].set i b) })
  | .die d i => s.modDie d (fun x => { x with dieBar := x.dieBar.set i b })
  | .pkg i => { s with pkgBar := s.pkgBar.set i b }
  | .pod i => { s with podBar := s.podBar.set i b }

/-- Passed(ph) (R301). -/
def Bar.passed (b : Bar) (ph : BitVec 32) : Bool := decide (1 ≤ (b.phase - ph).toNat) && decide ((b.phase - ph).toNat < 2 ^ 31)

/-- Continuations whose phase has passed become startable (R69). -/
def State.wakePhase (s : State) (r : BarRef) : State :=
  if s.conts.isEmpty then s
  else
    let b := s.bar r
    { s with conts := s.conts.map (fun c => match c.wake with
        | .phase _ r' ph => if r' = r && b.passed ph && !c.suspended then { c with startable := true, since := s.cycle } else c
        | _ => c) }

/-- An arrival at a barrier: the state, and the phase arrived in (R300). A pod barrier counts at device 0 of the pod, where the arrival
and the reading of its phase are one event: another device sends its arrival there, has the phase from there, a free value, and goes by
device 0's notices (R299; log 11). -/
def State.barArrive (s : State) (r : BarRef) : State × BitVec 32 :=
  let b := s.bar r
  let count : State :=
    if b.a + 1 = b.e then (s.setBar r { b with a := 0, phase := b.phase + 1 }).wakePhase r
    else s.setBar r { b with a := b.a + 1 }
  match r with
  | .pod i =>
    if Config.nodeNumber = 0 then
      ({ count with reports := (if b.a + 1 = b.e then [.pod i (.passed (b.phase + 1))] else []) ++ count.reports }, b.phase)
    else
      let p := Config.podPhase s.now
      ((({ s with reports := .pod i .arrival :: s.reports } : State).setBar r { b with phase := p }).wakePhase r, p)
  | _ => (count, b.phase)

/-- A barrier becomes free again. -/
def State.freeBar (s : State) (r : BarRef) : State := s.setBar r Bar.free

end Sys2Proof.Machine
end

