-- ==== Sys2Proof/Machine/Ops.lean ====
section
/-! DEFINITION. Taking a trap and returning from one, shared by every instruction and event (R311 to R317, R321, R326, R331,
R335, R381), parking (R68), and the frame of an instruction that touches only its slot's registers (R65). -/

namespace Sys2Proof.Machine

/-! ## Parking and suspension -/

/-- A watched word at its home: the word, and the home slice (R69). -/
def State.watchedWord (s : State) (g : CoreId) (d : Dom) (va : VA) (loc : Loc) : State × Option (Word × DieId × Fin 16) :=
  match loc with
  | .mem pa _ _ => (s, some (s.cohWord pa, dieOf pa, homeSlice pa))
  | .tile idx t off =>
    match s.tileRef g d idx va.toNat with
    | (s1, .ok r) => (s1, some (wordOf (s1.tileRead r off 8), r.region.home, tileSlice idx.toNat t))
    | (s1, .error _) => (s1, none)
  | _ => (s, none)

/-- A watched word is registered at its home, or kept by the home core where the table of 1,024 is full (R69). A word that cannot
be reached any more wakes at once. -/
def State.register (s : State) (g : CoreId) (cont : Nat) (d : Dom) (va : VA) (loc : Loc) (expected : Word) : State :=
  match s.watchedWord g d va loc with
  | (s1, none) => s1.wake cont
  | (s1, some (w, h)) =>
    if w ≠ expected then s1.wake cont
    else
      let here := s1.watches.filter (fun w => w.reread.isNone && w.home == h)
      let reread := if 1024 ≤ here.length then some (s1.cycle + 1024) else none
      { s1 with watches := s1.watches ++ [⟨cont, d, va, loc, expected, reread, h⟩] }

/-- The wake condition of a continuation just saved takes effect (R69). -/
def State.armWake (s : State) (g : CoreId) (cont : Nat) (d : Dom) (w : Wake) : State :=
  match w with
  | .now => s
  | .cycles n => if n = 0 then s.wake cont else s
  | .watch va loc e _ => s.register g cont d va loc e
  | .phase _ r ph => if (s.bar r).passed ph then s.wake cont else s

/-- A continuation leaves its slot; a park frees it at once (R68), and the inbox entry of its message (R313). -/
def State.finishPark (s : State) (g : CoreId) (i : SlotId) (f : VA) (w : Wake) : State :=
  let id := s.nextCont
  let sl := s.slot g i
  (((s.dropInbox g sl.task).addCont g i f w false).leaveSlot g i .free).armWake g id sl.dom w

/-- A task waits in its slot for its fault record to be written (R325, R326): for room, which is counted and told to domain 0, or for a
page of the queue (R365). -/
def State.waitFault (s : State) (g : CoreId) (i : SlotId) (r : FaultRec) (after : AfterFault) (why : FqRes) : State :=
  let sl := s.slot g i
  let s1 := s.modSlot g i (fun x => { x with status := .faultWait r after (s.cycle - sl.task.since) })
  if why = .waits then s1.fqHold sl.dom (.task g i)
  else
    let s2 := s1.fqOverflow sl.dom
    (s2.fqHold sl.dom (.task g i)).noticeZero g 1 sl.dom (s2.dom sl.dom).fqOvf

/-- The task of a slot holds for a frame (R321, R381): its budget goes on from what it had counted. `told` says that its hold record has
been written. -/
def State.holdSlot (s : State) (g : CoreId) (i : SlotId) (w : FrameWait) (told : Bool) : State :=
  s.modSlot g i (fun x =>
    let since := match x.status with
      | .faultWait _ _ held => s.cycle - held
      | _ => x.task.since
    { x with status := .frameWait w (s.cycle + 1024) told, task := { x.task with since := since } })

/-- The hold record of a park or suspension that has no frame, written once; then the slot holds. -/
def State.holdRecord (s : State) (g : CoreId) (i : SlotId) (code : TrapCode) (va : VA) (pc : VA) (word : Word) (w : FrameWait) :
    State :=
  let sl := s.slot g i
  let r := s.faultOf g i ⟨code, va.setWidth 64, 0⟩ 2 pc word 0
  match s.fqTry g sl.dom r with
  | (s1, .put) => s1.holdSlot g i w true
  | (s1, x) => s1.waitFault g i r (.hold w) x

/-- The frame of a wait, if it has one already. -/
def FrameWait.frame : FrameWait → Option VA
  | .park _ f => f
  | .suspend _ _ _ f => f
/-- The wait with a frame. -/
def FrameWait.withFrame (w : FrameWait) (f : VA) : FrameWait :=
  match w with
  | .park x _ => .park x (some f)
  | .suspend t pc word _ => .suspend t pc word (some f)

/-- What comes of a try to save a context. -/
inductive SaveRes where
  | saved (f : VA)
  /-- No frame: the code of the hold record, its address, and the wait with the frame it has; no code while a page is awaited (R365). -/
  | held (c : Option TrapCode) (va : VA) (w : FrameWait)

/-- A context is saved in the frame the wait has, or in one taken now (R317, R320, R381). -/
def State.trySave (s : State) (g : CoreId) (i : SlotId) (w : FrameWait) (pc : VA) (kind : Nat) (wake : Wake) : State × SaveRes :=
  let sl := s.slot g i
  let save := fun (s : State) (f : VA) =>
    match s.saveFrame g i f pc kind wake with
    | (s1, none) => (s1.areaOk g sl.dom areaFrame, SaveRes.saved f)
    | (s1, some x) => (s1, SaveRes.held x.2 x.1 (w.withFrame f))
  match w.frame with
  | some f => save s f
  | none =>
    match s.frameTake g sl.dom with
    | (s1, .got f) => save s1 f
    | (s1, .empty) => (s1, .held (some .frameempty) 0 w)
    | (s1, .failed x) => (s1, .held x.2 x.1 w)

/-- The hold of a task that got no frame: its record first, but where it only awaits a page. -/
def State.holdFor (s : State) (g : CoreId) (i : SlotId) (c : Option TrapCode) (va pc : VA) (word : Word) (w : FrameWait) : State :=
  match c with
  | some c => s.holdRecord g i c (if c = .frameempty then 0 else va) pc word w
  | none => s.holdSlot g i w false

/-- A task parks (R68): its PC is already that of the next instruction. -/
def State.parkTask (s : State) (g : CoreId) (i : SlotId) (w : Wake) : State :=
  let sl := s.slot g i
  let pc0 := sl.pc - 8
  match s.trySave g i (.park w none) sl.pc 0 w with
  | (s1, .saved f) => s1.finishPark g i f w
  | (s1, .held c va fw) => s1.holdFor g i c va pc0 ((s.core g).wordAt sl.dom pc0) fw

/-- A suspended task whose record is written leaves its slot and its inbox entry (R317). -/
def State.finishSuspend (s : State) (g : CoreId) (i : SlotId) : State := (s.dropInbox g (s.slot g i).task).leaveSlot g i .free

/-- The resume PC of a suspension: the trapping instruction, or the next for BKPT (R317). -/
def resumePc (t : Trap) (pc : VA) : VA := if t.code = .bkpt then pc + 8 else pc

/-- A context is saved: the continuation stands, the slot's activation is over, and the fault record follows (R317). -/
def State.suspended (s : State) (g : CoreId) (i : SlotId) (f : VA) (t : Trap) (pc : VA) (word : Word) : State :=
  let sl := s.slot g i
  let r := s.faultOf g i t 1 pc word f
  let s1 := (s.addCont g i f .now true).modSlot g i (fun x => { x with task := { x.task with act := 0 } })
  match s1.fqTry g sl.dom r with
  | (s2, .put) => s2.finishSuspend g i
  | (s2, x) => s2.waitFault g i r .suspended x

/-- A suspend-class trap (R317); without a frame the task holds first (R321). -/
def State.suspendTask (s : State) (g : CoreId) (i : SlotId) (t : Trap) (pc : VA) (word : Word) : State :=
  match s.trySave g i (.suspend t pc word none) (resumePc t pc) 1 .now with
  | (s1, .saved f) => s1.suspended g i f t pc word
  | (s1, .held c va fw) => s1.holdFor g i c va pc word fw

/-- A held task got no frame again: its hold record is written now if it only awaited a page before (R321, R381). -/
def State.holdAgain (s : State) (g : CoreId) (i : SlotId) (told : Bool) (c : Option TrapCode) (va pc : VA) (word : Word) (w : FrameWait) :
    State := if told then s.holdSlot g i w true else s.holdFor g i c va pc word w

/-- A held park or suspension is tried again (R321, R381). -/
def State.retryHold (s : State) (g : CoreId) (i : SlotId) (fw : FrameWait) (told : Bool) : State :=
  let sl := s.slot g i
  match fw with
  | .park w _ =>
    let pc0 := sl.pc - 8
    match s.trySave g i fw sl.pc 0 w with
    | (s1, .saved f) => s1.finishPark g i f w
    | (s1, .held c va fw') => s1.holdAgain g i told c va pc0 ((s.core g).wordAt sl.dom pc0) fw'
  | .suspend t pc word _ =>
    match s.trySave g i fw (resumePc t pc) 1 .now with
    | (s1, .saved f) => s1.suspended g i f t pc word
    | (s1, .held c va fw') => s1.holdAgain g i told c va pc word fw'

/-! ## Aborts (R312 to R315) -/

/-- The slot in which an aborted task ran, if any, takes a status. -/
def State.leaveIf (s : State) (g : CoreId) (i : Option SlotId) (st : SlotStatus) : State :=
  match i with
  | some i => s.leaveSlot g i st
  | none => s

/-- An inbox entry whose message is not returned to it. -/
def InMsg.isOf (m : InMsg) (rank : BitVec 32) : Bool := m.started && m.rank == rank

/-- An aborted record returns (R313). -/
def State.returnRecord (s : State) (g : CoreId) (i : Option SlotId) (t : Task) (tr : TaskRec) (barred : Bool) : State :=
  let e := (s.core g).entryOf tr.dom
  match t.source, t.moved, e with
  | .inbox vn, false, some e =>
    ((s.modPart g e (fun p =>
      let l := p.inbox vn
      p.setInbox vn ((l.filter (fun m => m.isOf t.rank)).map (fun m => { m with tr := tr, started := false, barred := barred }) ++
        l.filter (fun m => !m.isOf t.rank)))).gained g).leaveIf g i .free
  | .inbox _, _, _ =>
    let s1 := s.leaveIf g i .free
    { s1 with transit := s1.transit ++ [⟨g, g, tr, barred⟩] }
  | .launch, false, _ =>
    match i with
    | some i =>
      (s.leaveSlot g i .reserved).modDie g.die (fun d =>
        { d with deliveries := d.deliveries ++ [⟨g, i, tr, t.team.getD 0, t.teamBar, barred⟩] })
    | none => s
  | .launch, true, _ =>
    (s.leaveIf g i .free).modDie g.die (fun d => { d with owed := d.owed ++ [⟨g, tr, t.team.getD 0, t.teamBar, barred⟩] })
  | _, _, some e =>
    match s.pushTop g e ⟨tr, barred, false⟩ with
    | (s1, true) => s1.leaveIf g i .free
    | (s1, false) =>
      match i with
      | some i => (s1.reslot g i (fun sl => { sl with status := .returnWait barred, task := { sl.task with tr := tr, act := 0 } })).dropReservation g i
      | none => s1.modPart g e (fun p => { p with deque := ⟨tr, barred, false⟩ :: p.deque })
  | _, _, none =>
    -- a continuation whose home core admits its domain no more: the record waits for the domain's return (log 71)
    (s.modDom tr.dom (fun x => { x with homeless := (g, ⟨tr, barred, false⟩) :: x.homeless })).leaveIf g i .free

/-- A deque record that waits for its dead-letter entry keeps its place in the deque (R327). -/
def State.deadInDeque (s : State) (g : CoreId) (tr : TaskRec) : State :=
  match (s.core g).entryOf tr.dom with
  | some e => s.modPart g e (fun p => { p with deque := ⟨tr, false, true⟩ :: p.deque })
  | none => s

/-- A record that has aborted four times waits for its dead-letter entry (R314, R327), in the place from which it started or, where it
has none, in its slot. -/
def State.deadLetter (s : State) (g : CoreId) (i : Option SlotId) (t : Task) (r : FaultRec) : State :=
  let placed := !t.moved && t.source != .launch
  let entry := match t.source with
    | .inbox vn => if placed then some (vn, t.rank) else none
    | _ => none
  let s0 := s.leaveIf g i (if placed then .free else .deadWait)
  let s1 := if placed && entry.isNone then s0.deadInDeque g t.tr else s0
  s1.modDom t.tr.dom (fun x => { x with dlWait := x.dlWait ++ [⟨t.tr, r, g, if placed then none else i, entry, t.team⟩] })

/-- The frame that a held task has taken. -/
def Slot.heldFrame (sl : Slot) : Option VA :=
  match sl.status with
  | .frameWait w _ _ => w.frame
  | _ => none

/-- Steps 3 and 4 of an abort: the slot is freed and the record returns, or becomes a dead letter (R312 to R315). -/
def State.abortReturn (s : State) (g : CoreId) (i : Option SlotId) (t : Task) (code : TrapCode) (r : FaultRec) : State :=
  if code = .sendqfull then s.returnRecord g i t t.tr true
  else if t.tr.replay = 3 then s.deadLetter g i t r
  else s.returnRecord g i t (t.tr.withReplay (t.tr.replay + 1)) false

/-- The abort of the task in a slot, its fault record being written (R312); a frame that it had taken returns to its pool (R320). -/
def State.abortSlot (s : State) (g : CoreId) (i : SlotId) (code : TrapCode) (frame : Option VA) (r : FaultRec) : State :=
  let t := (s.slot g i).task
  let s0 := match frame with
    | some f => s.frameFree g (s.slot g i).dom f
    | none => s
  let s1 := s0.tally g (some t.tr.dom) 0x0050 1
  let s2 := if code = .sendqfull then s1.tally g (some t.tr.dom) 0x0051 1 else s1
  s2.abortReturn g (some i) t code r

/-- The class action of a fault record that has been written (R311). -/
def State.afterFault (s : State) (g : CoreId) (i : SlotId) (r : FaultRec) (a : AfterFault) : State :=
  match a with
  | .abort c f => s.abortSlot g i c f r
  | .suspended => s.finishSuspend g i
  | .hold w => s.holdSlot g i w true

/-- A trap is taken (R311): loads in flight are discarded, the fault record is written, the class action follows. -/
def raiseAt (s : State) (g : CoreId) (i : SlotId) (t : Trap) (pc : VA) (word : Word) : State :=
  let sl := s.slot g i
  let s1 := s.dropLoads g i
  if t.code.cls = 1 then s1.suspendTask g i t pc word
  else
    let s2 := (s1.dropUncommitted g sl.task.act).dropReservation g i
    let r := s2.faultOf g i t 0 pc word 0
    match s2.fqTry g sl.dom r with
    | (s3, .put) => s3.abortSlot g i t.code sl.heldFrame r
    | (s3, x) => s3.waitFault g i r (.abort t.code sl.heldFrame) x

/-- The address of the instruction a slot is at: a held park has moved its PC on already, and a held suspension keeps that of its trap. -/
def Slot.insnPc (sl : Slot) : VA :=
  match sl.status with
  | .frameWait (.park _ _) _ _ => sl.pc - 8
  | .frameWait (.suspend _ pc _ _) _ _ => pc
  | _ => sl.pc

/-- The trap of the instruction a slot is at. -/
def raise (s : State) (g : CoreId) (i : SlotId) (t : Trap) : State :=
  let sl := s.slot g i
  raiseAt s g i t sl.insnPc ((s.core g).wordAt sl.dom sl.insnPc)

/-- A trap raised for an activation by something it issued earlier (R180, R366): nothing is raised where its task runs no more. -/
def State.raiseAct (s : State) (g : CoreId) (act : Nat) (t : Trap) (pc : VA) (word : Word) : State :=
  match (s.core g).slotOf act with
  | some i =>
    match (s.slot g i).status with
    | .running | .barWait .. | .ending => raiseAt s g i t pc word
    | _ => s
  | none => s

/-! ## Return: the restoration of a continuation (R317, R335, R381) -/

/-- The doublewords of a continuation's frame. A frame that cannot be reached, with R and W, leaves everything as it was, for a retry (R381). -/
def State.readFrame (s : State) (g : CoreId) (d : Dom) (f : VA) : State × Except DevFail (List Word) :=
  match s.devCheck g d ((List.range 144).map (fun n => f + BitVec.ofNat 48 (64 * n))) with
  | (s1, some x) => (s1, .error x)
  | (s1, none) => s1.devGetMany g d 144 f

/-- A continuation starts in a slot of its home core: its frame is restored, as a RESUME has read it where one has (R319), and freed, and
the start is an acquire at package scope, the wake's own included (R70, R334, R335, R381). -/
def State.restore (s : State) (i : SlotId) (c : Cont) : State :=
  let g := c.home
  match s.readFrame g c.dom c.frame with
  | (s1, .error f) =>
    let s2 := s1.areaFailed g c.dom areaFrame f none c.frame
    if f.2.isNone then s2
    else { s2 with conts := s2.conts.map (fun x => if x.id = c.id then { x with notBefore := s.cycle + 1024 } else x) }
  | (s1, .ok ws) =>
    let budget := (s1.core g).budgetOf c.dom
    let s2 := (s1.areaOk g c.dom areaFrame).reslot g i (fun sl =>
      let sl1 := (if sl.dom = c.dom then sl else sl.scrub).ofFrame (c.image.getD ws)
      let sl2 := { sl1 with dom := c.dom, status := .running, task := { c.task with since := s.cycle, budget := budget }, eng := 0, acq := s.nextPend, tile := none }
      c.late.foldl (fun sl u => sl.applyUpd u) sl2)
    let s3 := (s2.frameFree g c.dom c.frame).acquireDrop g
    { s3 with conts := s3.conts.filter (fun x => x.id != c.id), watches := s3.watches.filter (fun w => w.cont != c.id) }

/-! ## Instructions of the executing slot -/

/-- What an instruction that touches only its slot's registers comes to. -/
inductive Res where
  | done (sl : Slot)
  | jump (sl : Slot) (target : VA)
  | trap (t : Trap)

/-- An instruction of the executing slot: it issues when the slot runs a task and no register it names is awaited (R65). Nothing
changes while it does not issue. -/
def runCore (s : State) (uses : List RegName) (f : CoreId → SlotId → Slot → State) : Host.Outcome State Fault Refusal :=
  match s.agent with
  | .cmd .. => .next s
  | .slot g i =>
    let sl := s.slot g i
    if sl.status ≠ .running || (s.core g).awaits i uses then .next s else .next (f g i sl)

/-- An instruction of the executing slot that touches only registers: it completes and the PC moves on, or it traps (R311). -/
def runSlot (s : State) (uses : List RegName) (f : Slot → Res) : Host.Outcome State Fault Refusal :=
  runCore s uses (fun g i sl =>
    match f sl with
    | .done sl' => s.setSlot g i { sl' with pc := sl.pc + 8 }
    | .jump sl' t => s.setSlot g i { sl' with pc := t }
    | .trap t => raise s g i t)

/-- The PC of a slot moves to the next instruction. -/
def State.pcNext (s : State) (g : CoreId) (i : SlotId) : State := s.modSlot g i (fun sl => { sl with pc := sl.pc + 8 })

/-- A scalar result of the executing slot. -/
def State.putX (s : State) (g : CoreId) (i : SlotId) (d : Spec) (w : Word) : State := s.modSlot g i (fun sl => sl.wrW d w)

/-- The instruction is privileged to S (R19). -/
def Slot.isU (sl : Slot) : Bool := sl.level == 0

/-- A trap without address or INFO. -/
def trapOf (c : TrapCode) : Trap := ⟨c, 0, 0⟩

end Sys2Proof.Machine
end

