-- ==== Sys2Proof/Machine/Control.lean ====
section
/-! DEFINITION. Control transfer, row 0x0 (R128). -/

namespace Sys2Proof.Machine

/-- The PC-relative target PC + 8 * DISP32, modulo 2^48 (R85). -/
def relTarget (pc : VA) (disp : BitVec 32) : VA := pc + (disp.signExtend 48) * 8#48

/-- The registers of a B-format instruction. -/
def bRegs (f : FmtB) : List RegName := .p f.pred :: specRegs [f.sa, f.sb]

/-- A guarded branch: it transfers to the PC-relative target when its guard is 1 and its condition holds (R128). -/
def branchIf (f : FmtB) (s : State) (cond : Slot → Bool) : Host.Outcome State Fault Refusal :=
  runSlot s (bRegs f) (fun sl =>
    if sl.guard f.pn f.pred && cond sl then .jump sl (relTarget sl.pc f.disp) else .done sl)

/-- A branch without a guard, that reads every bit of the mask (R128). -/
def branchMask (f : FmtB) (s : State) (cond : Slot → BitVec 32 → Bool) : Host.Outcome State Fault Refusal :=
  runSlot s (bRegs f) (fun sl =>
    if cond sl (sl.mask f.pn f.pred) then .jump sl (relTarget sl.pc f.disp) else .done sl)

/-- The target of JR and JLR before its alignment check: (Src(SA) + 8 * DISP32) mod 2^48. -/
def regTarget (sl : Slot) (f : FmtB) : VA := (sl.srcW f.sa).setWidth 48 + (f.disp.signExtend 48) * 8#48

/-- A register transfer with a link register: a misaligned target raises ALIGN and nothing is written (R128). -/
def jumpReg (f : FmtB) (s : State) (link : Spec) : Host.Outcome State Fault Refusal :=
  runSlot s (bRegs f) (fun sl =>
    if sl.guard f.pn f.pred then
      let t := regTarget sl f
      if t.toNat % 8 ≠ 0 then .trap ⟨.align, t.setWidth 64, 0⟩
      else .jump (sl.wrW link ((sl.pc + 8).setWidth 64)) t
    else .done sl)

/-- NOP (R128). -/
def execNop (s : State) : Host.Outcome State Fault Refusal := runSlot s [] (fun sl => .done sl)

/-- J (R128). -/
def execJ (f : FmtB) (s : State) : Host.Outcome State Fault Refusal := branchIf f s (fun _ => true)

/-- JL: xL := PC + 8 (R128). -/
def execJl (f : FmtB) (s : State) : Host.Outcome State Fault Refusal :=
  runSlot s (bRegs f) (fun sl =>
    if sl.guard f.pn f.pred then .jump (sl.wrW f.sa ((sl.pc + 8).setWidth 64)) (relTarget sl.pc f.disp) else .done sl)

/-- JR (R128). -/
def execJr (f : FmtB) (s : State) : Host.Outcome State Fault Refusal := jumpReg f s (.x 0)

/-- JLR: the link in SB is written after the target is computed (R128). -/
def execJlr (f : FmtB) (s : State) : Host.Outcome State Fault Refusal := jumpReg f s f.sb

/-- BEQ (R128). -/
def execBeq (f : FmtB) (s : State) : Host.Outcome State Fault Refusal :=
  branchIf f s (fun sl => sl.srcW f.sa == sl.srcW f.sb)

/-- BNE (R128). -/
def execBne (f : FmtB) (s : State) : Host.Outcome State Fault Refusal :=
  branchIf f s (fun sl => sl.srcW f.sa != sl.srcW f.sb)

/-- BLT (R128). -/
def execBlt (f : FmtB) (s : State) : Host.Outcome State Fault Refusal :=
  branchIf f s (fun sl => (sl.srcW f.sa).slt (sl.srcW f.sb))

/-- BGE (R128). -/
def execBge (f : FmtB) (s : State) : Host.Outcome State Fault Refusal :=
  branchIf f s (fun sl => !(sl.srcW f.sa).slt (sl.srcW f.sb))

/-- BLTN (R128). -/
def execBltn (f : FmtB) (s : State) : Host.Outcome State Fault Refusal :=
  branchIf f s (fun sl => (sl.srcW f.sa).ult (sl.srcW f.sb))

/-- BGEN (R128). -/
def execBgen (f : FmtB) (s : State) : Host.Outcome State Fault Refusal :=
  branchIf f s (fun sl => !(sl.srcW f.sa).ult (sl.srcW f.sb))

/-- BP (R128). -/
def execBp (f : FmtB) (s : State) : Host.Outcome State Fault Refusal := branchMask f s (fun _ m => m != 0)

/-- BNP (R128). -/
def execBnp (f : FmtB) (s : State) : Host.Outcome State Fault Refusal := branchMask f s (fun _ m => m == 0)

/-- Lane i of the vector of SA is nonzero. -/
def laneNonzero (sl : Slot) (sp : Spec) (i : Nat) : Bool := sl.vsrc sp .n32 i != 0

/-- BVANY (R128). -/
def execBvany (f : FmtB) (s : State) : Host.Outcome State Fault Refusal :=
  branchMask f s (fun sl m => (List.range 32).any (fun i => m.getLsbD i && laneNonzero sl f.sa i))

/-- BVALL (R128). -/
def execBvall (f : FmtB) (s : State) : Host.Outcome State Fault Refusal :=
  branchMask f s (fun sl m => (List.range 32).all (fun i => !m.getLsbD i || laneNonzero sl f.sa i))

/-- LOOP: xC := xC - 1, and the transfer while the result is nonzero (R128). -/
def execLoop (f : FmtB) (s : State) : Host.Outcome State Fault Refusal :=
  runSlot s (bRegs f) (fun sl =>
    if sl.guard f.pn f.pred then
      let r := sl.srcW f.sa - 1
      if r ≠ 0 then .jump (sl.wrW f.sa r) (relTarget sl.pc f.disp) else .done (sl.wrW f.sa r)
    else .done sl)

end Sys2Proof.Machine
end

