-- ==== Sys2Proof/Machine/Issue.lean ====
section
/-! DEFINITION. How an access to memory issues and is performed: its elements, its checks in the order of R94, its release,
what waits in flight, and the L1 (R76, R94, R162, R163, R170, R171, R207, R213, R226 to R232, R251, R262). -/

namespace Sys2Proof.Machine

/-! ## Elements -/

/-- Registers that an M-format instruction names. -/
def mRegs (f : FmtM) : List RegName := .p f.pred :: specRegs [f.data, f.base, f.aux]

/-- Bytes of an element (R84). -/
def mSize (f : FmtM) : Nat := 2 ^ f.sz.toNat

/-- Src(BASE) + OFF12 + a displacement, as a VA (R162, R227). -/
def Slot.memVa (sl : Slot) (f : FmtM) (delta : Word) : VA := (sl.srcW f.base + f.off.signExtend 64 + delta).setWidth 48

/-- A length field: a literal n - 1, or 0xFF for the x register in AUX (R226, R227). -/
def Slot.memLen (sl : Slot) (f : FmtM) : Nat :=
  match f.aux with
  | .x n => if f.len = 0xFF then (sl.readX n).toNat else f.len.toNat + 1
  | _ => f.len.toNat + 1

/-- An element before translation: its number and VA. -/
structure Spot where
  j : Nat
  va : VA
  deriving DecidableEq, Repr

/-- The governed-on elements among n. -/
def Slot.spots (sl : Slot) (f : FmtM) (n : Nat) (va : Nat → VA) : List Spot :=
  ((List.range n).filter (fun j => gov (sl.mask f.pn f.pred) (mSize f) j)).map (fun j => ⟨j, va j⟩)

/-- The elements of a contiguous extent under a guard, all of them (R229). -/
def allSpots (n : Nat) (va : Nat → VA) : List Spot := (List.range n).map (fun j => ⟨j, va j⟩)

/-! ## Places (R163, R192, R196) -/

/-- Why an element is not accessed: its rank in R94, its VA and the trap. -/
structure BadSpot where
  rank : Nat
  va : VA
  code : TrapCode
  deriving DecidableEq, Repr

/-- The rank of an address check in R94. -/
def rankOf (c : TrapCode) : Nat :=
  match c with
  | .illegal => 0 | .align => 1 | .domain => 2 | .access => 3 | .page => 4 | _ => 5

/-- The first of two failures: by rank, then by address. -/
def firstBad (a b : BadSpot) : BadSpot :=
  if b.rank < a.rank || (b.rank == a.rank && b.va.toNat < a.va.toNat) then b else a

/-- The failure that an instruction raises. -/
def worst : List BadSpot → Option BadSpot
  | [] => none
  | x :: l =>
    match worst l with
    | none => some x
    | some y => some (firstBad x y)

/-- The scratch bank of a VA is one of the domain's (R163). -/
def Core.bankOk (c : Core) (d : Dom) (va : Nat) : Bool :=
  match c.entryOf d with
  | some e => c.part[e].banks.getLsbD (va / 2 ^ 14 % 32)
  | none => false

/-- What comes of placing one element. -/
inductive PlaceRes where
  | ok (l : Loc)
  | bad (c : TrapCode)
  /-- It waits for a pull, or for a migration of its page; where it lies meanwhile, as far as its PTE tells. -/
  | pulling (l : Loc)

/-- Where the bytes of a VA lie by the PTE alone: for an access that has found it and waits for its page, or looks at no more. A byte of a
sparse-existence region is found by its VA alone. -/
def State.lookLoc (s : State) (g : CoreId) (d : Dom) (va : VA) : Loc :=
  if inScratch va.toNat then .scratch (va.toNat - scratchBase)
  else
    match s.walk g.die d va with
    | .ok l => if pteBit l.pte 11 then .unplaced else .mem (leafAddr l.pte l.level.val va) (pteMt l.pte) (pteGrain l.pte)
    | .error _ => .unplaced

/-- The place of one element (R163, R190 to R197, R365). -/
def State.place (s : State) (g : CoreId) (d : Dom) (a : Acc) (u : Bool) (who : Option (CoreId × SlotId × Nat)) (va : VA) :
    State × PlaceRes :=
  if inScratch va.toNat then
    (s, if (s.core g).bankOk d va.toNat then .ok (.scratch (va.toNat - scratchBase)) else .bad .domain)
  else
    match s.xlate g d a u va with
    | (s1, .error (.trap c)) => (s1, .bad c)
    | (s1, .error (.pull x p)) =>
      match s1.startPull d x p va who with
      | some s2 => (s2, .pulling (s.lookLoc g d va))
      | none => (s1, .bad .access)
    | (s1, .ok x) =>
      if pteBit x.pte 11 then
        match s1.tileRef g d (pteRegion x.pte) va.toNat with
        | (s2, .error (.trap c)) => (s2, .bad c)
        | (s2, .error (.pull x p)) =>
          match s2.startPull d x p va who with
          | some s3 => (s3, .pulling .unplaced)
          | none => (s2, .bad .access)
        | (s2, .ok t) => (s2, .ok (.tile (pteRegion x.pte) t.t ((va.toNat - t.region.base) % t.region.tile)))
      else if s1.migrating x.pa then (s1, .pulling (.mem x.pa (pteMt x.pte) (pteGrain x.pte)))
      else (s1, .ok (.mem x.pa (pteMt x.pte) (pteGrain x.pte)))

/-- The places of all elements, the failures, and whether a page is awaited. -/
def State.placeAll (s : State) (g : CoreId) (d : Dom) (a : Acc) (u : Bool) (who : Option (CoreId × SlotId × Nat)) :
    List Spot → State × List Elem × List BadSpot × Bool
  | [] => (s, [], [], false)
  | x :: l =>
    match s.place g d a u who x.va with
    | (s1, r) =>
      match s1.placeAll g d a u who l with
      | (s2, es, bs, w) =>
        match r with
        | .ok loc => (s2, ⟨x.j, x.va, loc⟩ :: es, bs, w)
        | .bad c => (s2, es, ⟨rankOf c, x.va, c⟩ :: bs, w)
        | .pulling loc => (s2, ⟨x.j, x.va, loc⟩ :: es, bs, true)

/-- Elements that are not naturally aligned (R228). -/
def misaligned (size : Nat) (l : List Spot) : List BadSpot :=
  (l.filter (fun x => x.va.toNat % size != 0)).map (fun x => ⟨1, x.va, .align⟩)

/-- Elements whose PTE has a reserved value: ILLEGAL, ahead of every other check (R94, R192). DESIGN CHOICE: the PTE is looked at as it stands
in the page table, and a translation held from before does not hide it (log 6). -/
def State.reservedPtes (s : State) (g : CoreId) (d : Dom) (l : List Spot) : List BadSpot :=
  (l.filter (fun x => !inScratch x.va.toNat && (match s.walk g.die d x.va with
    | .error .illegal => true
    | _ => false))).map (fun x => ⟨0, x.va, .illegal⟩)

/-- A contiguous extent that passes 2^48 or crosses the base of the scratch window (R162). -/
def badExtent (a len : Nat) : List BadSpot :=
  if 2 ^ 48 < a + len || (a < scratchBase && scratchBase < a + len) then [⟨3, BitVec.ofNat 48 a, .access⟩] else []

/-- The failures of the bank check alone (R163). -/
def Core.badBanks (c : Core) (d : Dom) (l : List Spot) : List BadSpot :=
  (l.filter (fun x => inScratch x.va.toNat && !c.bankOk d x.va.toNat)).map (fun x => ⟨2, x.va, .domain⟩)

/-! ## Waits -/

/-- Does a command's recorded range hold an access back (R262)? -/
def SbRange.meets (r : SbRange) (isStore : Bool) (va len : Nat) : Bool :=
  (r.written || isStore) && decide (va < r.va + r.len) && decide (r.va < va + len)

/-- The range scoreboard holds an access of a domain back. -/
def Core.sbHolds (c : Core) (d : Dom) (isStore : Bool) (exts : List (Nat × Nat)) : Bool :=
  c.queues.toList.any (fun q => q.any (fun m => m.dom == d && m.ranges.any (fun r => exts.any (fun e => r.meets isStore e.1 e.2))))

/-- An access of an activation is posted to a peer: it delays a release at pod scope alone (R213). -/
def Pend.postedOnly (p : Pend) : Bool :=
  match p.kind with
  | .cp (.write _) => p.rest.isEmpty && p.elems.all (fun e => match e.loc with
    | .mem _ mt _ => mt == 2
    | _ => false)
  | _ => false

/-- FLUSH is no access that a release waits for (R213, R238). -/
def Pend.isFlush (p : Pend) : Bool :=
  match p.kind with
  | .flush _ | .waitFlush | .held .flush _ => true
  | _ => false

/-- The access happens before what an activation does next: its own, or one numbered below the mark of its slot's last acquire, which
may have made another slot's access happen before it (R215). -/
def Pend.precedes (p : Pend) (act mark : Nat) : Bool := p.act == act || decide (p.id < mark)

/-- Every access that happened before a release of an activation is performed: its own numbered below `rel`, and those below `mark`
(R213, R215). -/
def Core.releasedUpTo (c : Core) (act rel mark : Nat) (pod : Bool) : Bool :=
  !c.pend.any (fun p => p.precedes act mark && decide (p.id < rel) && !p.isFlush && (pod || !p.postedOnly))

/-- Every load and store that happens before what an activation does next is performed, as a release at a scope waits for (R213, R215). -/
def Core.released (c : Core) (act mark : Nat) (pod : Bool) : Bool :=
  !c.pend.any (fun p => p.precedes act mark && !p.isFlush && (pod || !p.postedOnly))

/-- An acquire of the activation is still in flight: no later access is performed before it (R211). -/
def Core.acquiring (c : Core) (act : Nat) : Bool := c.pend.any (fun p => p.act == act && p.ord.isAcq)

/-! ## An access in flight -/

/-- An access as it issues. -/
structure MemOp where
  isStore : Bool
  acc : Acc
  size : Nat
  spots : List Spot
  /-- Failures that the instruction itself finds, beside those of its elements. -/
  bad : List BadSpot
  /-- Extents for the range scoreboard. -/
  exts : List (Nat × Nat)
  ord : MOrd
  scope : Scope
  /-- It meets existence, and so every byte of each tile that it touches (R241). -/
  whole : Bool

/-- The extents of single elements. -/
def spotExts (size : Nat) (l : List Spot) : List (Nat × Nat) := l.map (fun x => (x.va.toNat, size))

/-- The access waits for its pages. -/
def Pend.isHeld (p : Pend) : Bool :=
  match p.kind with
  | .held .. => true
  | _ => false

/-- The access meets existence, and so every byte of each tile that it touches (R241). -/
def PendKind.whole (k : PendKind) : Bool :=
  match k with
  | .held (.ldx ..) _ | .held (.xtest _) _ | .held (.erase _) _ | .cp (.ldx ..) | .cp .xtest | .cp .erase => true
  | _ => false

/-- An extent of VAs, with all of the tiles that it may touch, the largest being of 64 KiB (R37). -/
def tileExt (x : Nat × Nat) : Nat × Nat :=
  let lo := x.1 / 65536 * 65536
  (lo, (x.1 + x.2 + 65535) / 65536 * 65536 - lo)

/-- What an element of a size has in common with others: its place and length, for one that meets existence its whole tile. -/
def Elem.place (e : Elem) (size : Nat) (whole : Bool) : Loc × Nat :=
  match e.loc with
  | .tile i t o => if whole then (.tile i t 0, 65536) else (.tile i t o, size)
  | l => (l, size)

/-- The places of an access that has issued. -/
def Pend.places (p : Pend) : List (Loc × Nat) := (p.elems ++ p.rest.map (fun x => x.1)).map (fun e => e.place p.size p.kind.whole)

/-- A place of a tile, of the domain's own. -/
def Loc.isTile (l : Loc) : Bool :=
  match l with
  | .tile .. => true
  | _ => false

/-- A place in scratch or a tile, at whose coherence point an access is performed without the L1 (R230). -/
def Loc.near (l : Loc) : Bool :=
  match l with
  | .scratch _ | .tile .. => true
  | _ => false

/-- Places of accesses of one core, of two domains, have a common byte. -/
def placesMeet (d : Dom) (a : List (Loc × Nat)) (e : Dom) (b : List (Loc × Nat)) : Bool :=
  a.any (fun x => b.any (fun y => (d == e || !x.1.isTile) && x.1.meets x.2 y.1 y.2))

/-- Two lists of extents have a common address. -/
def extsMeet (a b : List (Nat × Nat)) : Bool := a.any (fun x => b.any (fun y => decide (x.1 < y.1 + y.2) && decide (y.1 < x.1 + x.2)))

/-- The addresses that an access waiting for its pages touches, where their places are not known yet or lie in tiles. -/
def Pend.heldExts (p : Pend) : List (Nat × Nat) :=
  let l := (p.elems.filter (fun e => e.loc == .unplaced || e.loc.isTile)).map (fun e => (e.va.toNat, match p.kind with
    | .held (.xtest n) _ => n * 65536
    | .held (.erase len) _ => len
    | _ => p.size))
  if p.kind.whole then l.map tileExt else l

/-- An earlier access of the core that waits for its pages has a byte in common: a later one waits behind it (R207, R208). Two names of one
byte are found by its place, the bytes of tiles by their VAs too, which are their only names. -/
def Core.heldMeets (c : Core) (d : Dom) (whole : Bool) (exts : List (Nat × Nat)) (places : List (Loc × Nat)) : Bool :=
  c.pend.any (fun p => p.isHeld &&
    ((p.dom == d && extsMeet p.heldExts (if whole then exts.map tileExt else exts)) || placesMeet p.dom p.places d places))

/-- An earlier access of the core under way to scratch or tiles has a byte in common with a later one. -/
def Core.nearMeets (c : Core) (d : Dom) (places : List (Loc × Nat)) : Bool :=
  c.pend.any (fun p => !p.isHeld && placesMeet p.dom (p.places.filter (fun x => x.1.near)) d places)

/-- The places of an access's elements. -/
def MemOp.places (m : MemOp) (es : List Elem) : List (Loc × Nat) := es.map (fun e => e.place m.size m.whole)

/-- The launch of a task, which a cross-domain one has not (R22). -/
def TaskRec.launch (tr : TaskRec) : Option Word := if tr.cross then none else some (tr.lid.setWidth 64)

/-- A launch counts a remote operation (R344). -/
def State.remoteUp (s : State) (tr : TaskRec) : State :=
  { s with launches := s.launches.map (fun l => if some l.lid = tr.launch then { l with remote := l.remote + 1 } else l) }

/-- An access joins those in flight, and its counter goes up. -/
def State.pushPend (s : State) (g : CoreId) (i : SlotId) (kind : PendKind) (elems : List Elem) (vals : List (Nat × Word))
    (dest : LoadDest) (m : MemOp) : State :=
  let sl := s.slot g i
  let p : Pend := ⟨s.nextPend, i, sl.task.act, sl.dom, sl.task.tr.launch, sl.task.team, kind, sl.pc, (s.core g).wordAt sl.dom sl.pc,
    m.size, elems, vals, dest, m.ord, m.scope, m.isStore, s.cycle, sl.acq, [], false⟩
  let s1 := s.modCore g (fun c =>
    let c1 : Core := { c with pend := c.pend ++ [p] }
    let n := c1.slots[i].cnt
    c1.setSlot i { c1.slots[i] with cnt := if m.isStore then { n with st := n.st + 1 } else { n with ld := n.ld + 1 } })
  { s1 with nextPend := s1.nextPend + 1 }

/-- An access in flight, replaced. -/
def State.setPend (s : State) (g : CoreId) (p : Pend) : State :=
  s.modCore g (fun c => { c with pend := c.pend.map (fun q => if q.id = p.id then p else q) })

/-- An access in flight ends. -/
def State.dropPend (s : State) (g : CoreId) (id : Nat) : State :=
  s.modCore g (fun c => { c with pend := c.pend.filter (fun q => q.id != id) })

/-- An access in flight by its number. -/
def Core.pendOf (c : Core) (id : Nat) : Option Pend := c.pend.find? (fun p => p.id == id)

/-- The access has issued and is counted, and waits for its pages (R225, R365). -/
def State.hold (s : State) (g : CoreId) (i : SlotId) (m : MemOp) (op : HeldOp) (dest : LoadDest) (es : List Elem) : State :=
  (s.pushPend g i (.held op (s.slot g i).isU) es [] dest m).pcNext g i

/-- The tile of an element that has been placed; its region and its tables were reached when it was (R196). -/
def State.tileAt (s : State) (g : CoreId) (d : Dom) (idx : BitVec 6) (va : VA) : State × Option TileRef :=
  match s.tileRef g d idx va.toNat with
  | (s1, .ok t) => (s1, some t)
  | (s1, .error _) => (s1, none)

/-- An access may issue now and be performed later at its scratch and tile places, out of order with what the slot does next to other bytes
(R211, R380): a load, or a write that will need no tile born, so that it cannot stop at an empty depot after later instructions
(R231, R311). -/
def State.mayDefer (s : State) (g : CoreId) (d : Dom) (m : MemOp) (es : List Elem) : Bool :=
  es.any (fun e => e.loc.near) &&
    (!m.acc.writes || es.all (fun e => match e.loc with
      | .tile idx _ _ => (match s.tileAt g d idx e.va with
        | (s1, some t) => s1.tilePresent t
        | (_, none) => false)
      | _ => true))

/-- How an access that has found its places goes on: none where it waits at its instruction, for an earlier one under way to its scratch or
tile bytes which it cannot join; else whether it is performed later. -/
def State.lateness (s : State) (g : CoreId) (d : Dom) (m : MemOp) (es : List Elem) : Option Bool :=
  let meets := (s.core g).nearMeets d (m.places es)
  let late := (s.later || meets) && s.mayDefer g d m es
  if meets && !late then none else some late

/-- An access issues when nothing holds it back and every check has passed; it traps with the first failure in the order of R94
(R231); where a page is pulled or migrates, or an earlier access that waits so has a byte in common with it, it waits, counted (R207,
R208, R225, R365). An access of several tiles that is under way goes on. `go` performs it, now or later. -/
def State.issue (s : State) (g : CoreId) (i : SlotId) (m : MemOp) (op : HeldOp) (dest : LoadDest)
    (go : State → Bool → List Elem → State) : State :=
  let sl := s.slot g i
  let c := s.core g
  let full := if m.isStore then sl.cnt.st == 63 else sl.cnt.ld == 63
  match sl.tile with
  | some t => go s false t.elems
  | none =>
  if c.sbHolds sl.dom (m.isStore || m.acc.writes) m.exts then s.sbStall g sl.dom
  else if c.acquiring sl.task.act || full then s
  else if m.ord.isRel && m.scope.wide && !c.released sl.task.act sl.acq (m.scope == .pod) then s
  else
    let early := m.bad ++ s.reservedPtes g sl.dom m.spots ++ misaligned m.size m.spots ++ c.badBanks sl.dom m.spots
    match worst early with
    | some b => raise s g i ⟨b.code, b.va.setWidth 64, 0⟩
    | none =>
      match s.placeAll g sl.dom m.acc sl.isU (some (g, i, sl.task.act)) m.spots with
      | (s1, es, bs, waits) =>
        match worst bs with
        | some b => raise s1 g i ⟨b.code, b.va.setWidth 64, 0⟩
        | none =>
          if waits || (!es.isEmpty && c.heldMeets sl.dom m.whole m.exts (m.places es)) then s1.hold g i m op dest es
          else
            match s1.lateness g sl.dom m es with
            | none => s1
            | some late => go s1 late es

/-! ## Where an access stands: at its instruction, or waiting counted -/

/-- An access is performed by its instruction, in a slot as the instruction has found it; or it issues and is performed later; or it has
waited for its pages in flight. -/
inductive Via where
  | now (i : SlotId) (sl : Slot)
  | late (i : SlotId) (sl : Slot)
  | held (p : Pend)

/-- An access at its instruction, performed now or later. -/
def Via.of (late : Bool) (i : SlotId) (sl : Slot) : Via := if late then .late i sl else .now i sl

/-- What the access does to scratch and tiles is performed in flight, one event after another. -/
def Via.flies (v : Via) : Bool :=
  match v with
  | .now .. => false
  | .late .. | .held _ => true

/-- The trap of an access that has waited: it ends, and its task traps if it still runs. -/
def State.pendTrap (s : State) (g : CoreId) (p : Pend) (t : Trap) : State :=
  ((s.dropPend g p.id).count g p.act (if p.isStore then .st else .ld)).raiseAct g p.act t p.pc p.word

/-- A slot's access of several tiles goes on in a later turn (R351). -/
def State.setTile (s : State) (g : CoreId) (i : SlotId) (t : TileStep) : State := s.modSlot g i (fun sl => { sl with tile := some t })

/-- A slot's access of several tiles is over, if it was one. -/
def State.overVia (s : State) (g : CoreId) (v : Via) : State :=
  match v with
  | .now i sl => if sl.tile.isSome then s.modSlot g i (fun sl => { sl with tile := none }) else s
  | .late .. | .held _ => s

/-- A trap of an access. -/
def State.trapVia (s : State) (g : CoreId) (v : Via) (t : Trap) : State :=
  match v with
  | .now i _ | .late i _ => raise (s.overVia g v) g i t
  | .held p => s.pendTrap g p t

/-- The domain of an access. -/
def Via.dom (v : Via) : Dom :=
  match v with
  | .now _ sl | .late _ sl => sl.dom
  | .held p => p.dom

/-- A loaded value extended (R226). -/
def extLoad (size : Nat) (sext : Bool) (w : Word) : Word :=
  let b := 8 * size
  if sext && size < 8 && w.getLsbD (b - 1) then BitVec.ofNat 64 (w.toNat % 2 ^ b + (2 ^ 64 - 2 ^ b))
  else BitVec.ofNat 64 (w.toNat % 2 ^ b)

/-- The value of element j among those read. -/
def valOf (vals : List (Nat × Word)) (j : Nat) : Option Word := (vals.find? (fun x => x.1 == j)).map (fun x => x.2)

/-- Consecutive x registers from the values. -/
def putXs (sl : Slot) (r : BitVec 5) : List (Nat × Word) → Slot
  | [] => sl
  | x :: l => putXs (sl.writeX (r + BitVec.ofNat 5 x.1) x.2) r l

/-- Consecutive k registers from the values. -/
def putKs (sl : Slot) (r : BitVec 6) : List (Nat × Word) → Slot
  | [] => sl
  | x :: l => putKs (sl.writeK (r + BitVec.ofNat 6 x.1) x.2) r l

/-- The destinations of a load are written (R233 to R235, R240, R264). -/
def Slot.putLoad (sl : Slot) (size : Nat) (d : LoadDest) (vals : List (Nat × Word)) : Slot :=
  let merge := fun (r : BitVec 6) => sl.writeV r (vbuild size (128 / size) (fun j => (valOf vals j).getD (elemOf (sl.readV r) size j)))
  match d with
  | .discard => sl
  | .x r sext =>
    match vals with
    | [] => sl
    | v :: _ => sl.writeX r (extLoad size sext v.2)
  | .v r => merge r
  | .k r _ => putKs sl r vals
  | .xs r => putXs sl r vals
  | .vx r pd present => (merge r).writeP pd present

/-- A slot has made an acquire: at quad scope or wider every clean entry of its core goes (R213), and wider than the slot what other slots
have issued may happen before what it does next (R215). -/
def State.acquireAt (s : State) (g : CoreId) (i : Option SlotId) (sc : Scope) : State :=
  let s1 := match i with
    | some i => if sc = .slot then s else s.modSlot g i (fun sl => { sl with acq := s.nextPend })
    | none => s
  if sc.wide then s1.acquireDrop g else s1

/-- What a FENCE without R among its successors does of an acquire: it marks what other slots have issued (R215, R216). -/
def State.acquireMark (s : State) (g : CoreId) (i : SlotId) (sc : Scope) : State :=
  if sc = .slot then s else s.modSlot g i (fun sl => { sl with acq := s.nextPend })

/-- A load is complete: its destinations are written if its task still runs, and its counter falls (R76, R232). -/
def State.finishLoad (s : State) (g : CoreId) (p : Pend) : State :=
  let s1 := s.dropPend g p.id
  let s2 := match (s1.core g).slotOf p.act with
    | some i => s1.modSlot g i (fun sl => sl.putLoad p.size p.dest p.vals)
    | none => s1
  let s3 := s2.count g p.act .ld
  if p.ord.isAcq then s3.acquireAt g ((s3.core g).slotOf p.act) p.scope else s3

/-- A store is complete. -/
def State.finishStore (s : State) (g : CoreId) (p : Pend) : State := (s.dropPend g p.id).count g p.act .st

/-! ## The L1 -/

/-- The bytes of an access in flight, as runs of cached memory. -/
def memRuns (size : Nat) (es : List Elem) : List Run :=
  joinRuns (es.filterMap (fun e => match e.loc with
    | .mem pa _ _ => some ⟨pa, size⟩
    | _ => none))

/-- The bytes of an access in flight. -/
def Pend.runs (p : Pend) : List Run := memRuns p.size (p.elems ++ p.rest.map (fun x => x.1))

/-- Two lists of runs have a common byte. -/
def runsMeet (a b : List Run) : Bool := a.any (fun x => b.any (fun y => x.meets y))

/-- The bytes that fills in flight will bring to a core, with their domains (R251). -/
def Core.fillRuns (c : Core) : List (Run × Dom) := c.fills.flatMap (fun f => f.left.map (fun r => (r, f.dom)))

/-- The access waits at the L1: for a fill of its bytes, and for one that issued before it and is not resolved (R251). -/
def State.l1Behind (s : State) (g : CoreId) (p : Pend) : Bool :=
  let rs := p.runs
  let before := (s.core g).pend.takeWhile (fun q => q.id != p.id)
  runsMeet rs ((s.core g).fillRuns.map (fun x => x.1)) ||
    before.any (fun q => match q.kind with
      | .waitLoad | .waitStore _ | .waitFlush | .cp _ => runsMeet rs q.runs
      | .load _ todo _ => runsMeet rs todo
      | _ => false)

/-- A load waits for a store of another slot that is not yet performed, a store for any (R207; log 74). -/
def State.l1Blocked (s : State) (g : CoreId) (p : Pend) (isLoad : Bool) : Bool :=
  s.l1Behind g p ||
    (s.core g).pend.any (fun q => q.id != p.id && (!isLoad || q.slot != p.slot) && (match q.kind with
      | .store .. => true
      | _ => false) && runsMeet p.runs q.runs)

/-- The limit of fill trackers for a domain (R183, R188). -/
def Core.trackers (c : Core) : Nat :=
  let n := (c.l1ctl.extractLsb' 8 8).toNat
  if n = 0 then 48 else n

/-- The fill requests for the holes of runs, by granule (R170). -/
def fillRequests (l : List L1Entry) (pending : List Run) (rs : List Run) : List Run :=
  (rs.foldl (fun out r => (blocks 4096 2 r).foldl (fun out q => out ++ holeRuns l (pending ++ out) q) out) []).flatMap granules

/-- A message is a write-back. -/
def Msg.isWriteBack (m : Msg) : Bool :=
  match m with
  | .writeBack .. => true
  | _ => false

/-- What an access of a domain has made of a core's L1, with the messages that it sends: write-backs are counted for the domain, and
evicted entries of other domains for theirs (R372). -/
def State.putL1 (s : State) (g : CoreId) (d : Dom) (l : List L1Entry) (msgs : List Msg) : State :=
  let c := s.core g
  let gone := c.l1.filter (fun e => e.dom != d && !l.any (fun x => x.dom == e.dom && x.run.has e.lo))
  let s1 := gone.foldl (fun s e => s.tally g (some e.dom) 0x0014 1) s
  let s2 := s1.tally g (some d) 0x0013 (msgs.filter Msg.isWriteBack).length
  (s2.modCore g (fun c => { c with l1 := l })).send msgs

/-- Entries of other domains that hold bytes of runs leave the L1 (R175). -/
def State.l1Admit (s : State) (g : CoreId) (d : Dom) (rs : List Run) : State :=
  rs.foldl (fun s r =>
    let o := evictOthers g d r (s.core g).l1
    if o.1.length = (s.core g).l1.length then s else s.putL1 g d o.1 o.2) s

/-- Bytes of runs that the L1 holds for a domain. -/
def heldBytes (l : List L1Entry) (d : Dom) (rs : List Run) : List (Nat × Byte) :=
  rs.flatMap (fun r => (List.range r.len).filterMap (fun k => (l1Byte l d (r.pa + k)).map (fun b => (r.pa + k, b))))

/-- A byte got so far. -/
def gotByte (got : List (Nat × Byte)) (pa : Nat) : Option Byte := (got.find? (fun x => x.1 == pa)).map (fun x => x.2)

/-- The value of an element from the bytes got, if all are there. -/
def gotWord (got : List (Nat × Byte)) (pa n : Nat) : Option Word :=
  let l := (List.range n).filterMap (fun k => gotByte got (pa + k))
  if l.length = n then some (wordOf l) else none

/-- A byte as the core's own slots see it: its owned value, else the current one (R207). -/
def State.ownByte (s : State) (g : CoreId) (pa : Nat) : Byte := ((s.core g).ownedByte pa).getD (s.cohByte pa)

/-- The value of an element whose bytes come from more than one place, taken as one event, and the core without the clean bytes that would
hide it from a later load (R208, R209; log 75). -/
def State.mixedWord (s : State) (g : CoreId) (d : Dom) (pa n : Nat) : State × Word :=
  let w := wordOf ((List.range n).map (fun k => s.ownByte g (pa + k)))
  let old := (List.range n).any (fun k => match l1Byte (s.core g).l1 d (pa + k) with
    | some b => b != s.ownByte g (pa + k)
    | none => false)
  (if old then (s.dropOwnClean g d ⟨pa, n⟩).hideFills g ⟨pa, n⟩ else s, w)

/-- The values of the elements of a load that has all its bytes. -/
def State.loadWords (s : State) (g : CoreId) (p : Pend) (got : List (Nat × Byte)) (mixed : List Nat) : List Elem → State × List (Nat × Word)
  | [] => (s, [])
  | e :: l =>
    match e.loc with
    | .mem pa _ _ =>
      match (if mixed.contains e.j then s.mixedWord g p.dom pa p.size else (s, (gotWord got pa p.size).getD 0)) with
      | (s1, w) =>
        match s1.loadWords g p got mixed l with
        | (s2, vs) => (s2, (e.j, w) :: vs)
    | _ => s.loadWords g p got mixed l

/-- A load that meets poison raises POISON (R180). -/
def State.loadPoison (s : State) (g : CoreId) (p : Pend) (va : VA) : State := s.pendTrap g p ⟨.poison, va.setWidth 64, 0⟩

/-- A load through the L1 that has all its bytes completes (R170). -/
def State.tryFinish (s : State) (g : CoreId) (p : Pend) : State :=
  match p.kind with
  | .load got _ mixed =>
    let ready := p.elems.all (fun e => match e.loc with
      | .mem pa _ _ => (gotWord got pa p.size).isSome
      | _ => true)
    if !ready then s.setPend g p
    else
      match p.elems.find? (fun e => mixed.contains e.j && (match e.loc with
        | .mem pa _ _ => s.poisonedAt pa p.size
        | _ => false)) with
      | some e => s.loadPoison g p e.va
      | none =>
        match s.loadWords g p got mixed p.elems with
        | (s1, vs) => s1.finishLoad g { p with vals := p.vals ++ vs }
  | _ => s

/-- The lowest element whose bytes lie in a poisoned sector of the L1 (R180). -/
def poisonedElem (l : List L1Entry) (p : Pend) : Option Elem :=
  p.elems.find? (fun e => match e.loc with
    | .mem pa _ _ => (List.range p.size).any (fun k => l1Poisoned l p.dom (pa + k))
    | _ => false)

/-- The grain of the page of an address, from the elements that touch its frame (R185). -/
def grainAt (es : List Elem) (pa : Nat) : Nat :=
  (es.findSome? (fun e => match e.loc with
    | .mem a _ gr => if a / 4096 = pa / 4096 then some gr else none
    | _ => none)).getD 0

/-- How many of a number of fills find a tracker: 48 on the core, PERDOM for the domain (R183, R188). -/
def Core.freeTrackers (c : Core) (d : Dom) : Nat :=
  min (48 - c.fills.length) (c.trackers - (c.fills.filter (fun f => f.dom == d)).length)

/-- Fills are sent, each with a tracker. -/
def State.sendFills (s : State) (g : CoreId) (d : Dom) (l : List (Run × Nat)) : State :=
  if l.isEmpty then s
  else
    ((s.modCore g (fun c => { c with fills := c.fills ++ l.map (fun r => ⟨d, [r.1]⟩) })).send
      (l.map (fun r => Msg.fillReq g d r.1 r.2))).tally g (some d) 0x0011 l.length

/-- The fills of a load that find a tracker are sent; the others wait, each until a tracker frees (R183). -/
def State.loadFills (s : State) (g : CoreId) (p : Pend) : State :=
  match p.kind with
  | .load got todo mixed =>
    let n := (s.core g).freeTrackers p.dom
    (s.sendFills g p.dom ((todo.take n).map (fun r => (r, grainAt p.elems r.pa)))).tryFinish g { p with kind := .load got (todo.drop n) mixed }
  | _ => s

/-- The elements of a load whose bytes come from more than one place: neither a single entry holds them whole, nor a single fill brings them
(R209). -/
def mixedElems (l : List L1Entry) (reqs : List Run) (p : Pend) : List Nat :=
  p.elems.filterMap (fun e => match e.loc with
    | .mem pa _ _ =>
      if l.any (fun x => x.whole p.dom pa p.size) || reqs.any (fun r => decide (r.pa ≤ pa) && decide (pa + p.size ≤ r.pa + r.len)) then none
      else some e.j
    | _ => none)

/-- A waiting load is resolved at the L1 if nothing holds it: what the entries hold are hits, whatever their states, and the holes are
asked for (R170). -/
def State.resolveLoad (s : State) (g : CoreId) (p : Pend) : State :=
  let rs := p.runs
  if s.l1Blocked g p true then s
  else
    let s1 := s.l1Admit g p.dom rs
    let c := s1.core g
    match poisonedElem c.l1 p with
    | some e => s1.loadPoison g p e.va
    | none =>
      let reqs := fillRequests c.l1 (c.fillRuns.map (fun x => x.1)) rs
      let got := heldBytes c.l1 p.dom rs
      let s2 := s1.setCore g { c with l1 := rs.foldl (fun l r => l1Touch s1.now p.dom r l) c.l1 }
      (s2.tally g (some p.dom) 0x0010 (if reqs.isEmpty then 1 else 0)).loadFills g { p with kind := .load got reqs (mixedElems c.l1 reqs p) }

/-- The data of a store as a function of the address; of two elements on one byte the later stays (R234). -/
def dataAt (data : List (Nat × Byte)) (pa : Nat) : Byte := ((data.reverse.find? (fun x => x.1 == pa)).map (fun x => x.2)).getD 0

/-- What the pieces of a store do at the L1, frame by frame (R171). -/
def storeFrames (d : Dom) (f : Nat → Byte) : List Run → StoreOut → StoreOut
  | [], o => o
  | r :: l, o => storeFrames d f l (l1Store d f r o)

/-- The runs a store writes, without repetition. -/
def storeRuns (rs : List Run) : List Run := rs.foldl (fun out r => out ++ runsMinus [r] out) []

/-- A store that can be registered at no slice of the die, for want of an L2 way for a visitor entry, passes through (R182, R184; log
8). -/
def State.noRegister (s : State) (d : DieId) (dom : Dom) (r : Run) : Bool := visited d r.pa && s.l2ways d dom == 0

/-- What a store does at the L1; where nothing can be registered, or `all` says so, every byte passes through. -/
def State.storeAt (s : State) (g : CoreId) (p : Pend) (data : List (Nat × Byte)) (rs : List Run) (all : Bool) : StoreOut :=
  let c := s.core g
  let o : StoreOut := ⟨⟨⟨g, c.l1ways p.dom, rs, s.now, []⟩, c.l1, []⟩, [], []⟩
  let far := rs.filter (fun r => all || s.noRegister g.die p.dom r)
  let o1 := far.foldl (fun (o : StoreOut) r =>
    let bad := fun (e : L1Entry) => e.run.meets r
    { o with
      out := { o.out with l1 := o.out.l1.filter (fun e => !bad e), msgs := o.out.msgs ++ (o.out.l1.filter bad).flatMap (evictMsgs g) }
      through := o.through ++ [r] }) o
  storeFrames p.dom (dataAt data) (rs.filter (fun r => !(all || s.noRegister g.die p.dom r))) o1

/-- The elements of an access of which runs hold a byte, but none of the runs every byte. -/
def splitElems (size : Nat) (es : List Elem) (l : List Run) : List Run :=
  es.filterMap (fun e => match e.loc with
    | .mem pa _ _ =>
      if l.any (fun r => r.meets ⟨pa, size⟩) && !l.any (fun r => decide (r.pa ≤ pa) && decide (pa + size ≤ r.pa + r.len)) then some ⟨pa, size⟩
      else none
    | _ => none)

/-- What a store does at the L1, so that each element is one event (R209; log 75): where an element would pass through in part, every byte
of the store does. -/
def State.storeWhole (s : State) (g : CoreId) (p : Pend) (data : List (Nat × Byte)) (rs : List Run) : StoreOut :=
  let o := s.storeAt g p data rs false
  if (splitElems p.size p.elems o.through).isEmpty then o else s.storeAt g p data rs true

/-- The registrations of a store: those of its pieces and holes, an element of which only a part needs one being registered whole, as the one
event at which it is performed (R171, R209; log 75). -/
def storeRegs (size : Nat) (es : List Elem) (regs : List Run) : List Run :=
  let split := storeRuns (splitElems size es regs)
  if split.isEmpty then regs else runsMinus regs split ++ split

/-- A waiting store is resolved at the L1 if nothing holds it; it is performed once every registration and every byte that
passes through has been (R171, R173, R206). Bytes that it writes in place, where the rest of their element is to be registered, keep their
old value for every other agent until then (R207, R209). -/
def State.resolveStore (s : State) (g : CoreId) (p : Pend) (data : List (Nat × Byte)) : State :=
  if s.l1Blocked g p false then s
  else
    let rs := (storeRuns p.runs).flatMap (blocks 4096 2)
    let o := s.storeWhole g p data rs
    let regs := (storeRegs p.size p.elems o.regs).flatMap granules
    let thr := o.through.flatMap granules
    let wait := (splitElems p.size p.elems o.regs).flatMap (fun r => (List.range r.len).filterMap (fun k =>
      ((s.core g).ownedByte (r.pa + k)).map (fun b => (r.pa + k, b))))
    let s1 := s.putL1 g p.dom o.out.l1 (o.out.msgs ++ regs.map (fun r => Msg.reg g p.id r (grainAt p.elems r.pa)) ++
      thr.map (fun r => Msg.through g p.id r.pa ((List.range r.len).map (fun k => dataAt data (r.pa + k)))))
    let s2 := (s1.tally g (some p.dom) 0x0012 regs.length).tally g (some p.dom) 0x0010 (if regs.length + thr.length = 0 then 1 else 0)
    let now := runsMinus rs (regs ++ thr)
    let s3 := now.foldl (fun s r => (s.clearPoison r.pa r.len).storeEvent none 0 (.mem r.pa 0 0) r.len) s2
    let p' := { p with kind := PendKind.store (regs.length + thr.length) wait }
    if regs.length + thr.length = 0 then s3.finishStore g p' else s3.setPend g p'

/-- A waiting FLUSH is resolved if nothing holds it: owned-dirty bytes are written back and become owned-clean (R238, R251). -/
def State.resolveFlush (s : State) (g : CoreId) (p : Pend) : State :=
  if s.l1Behind g p then s
  else
    let c := s.core g
    let rs := p.runs.flatMap (blocks 4096 2)
    let dirty := rs.flatMap (dirtyOf (c.l1.filter (fun e => e.dom == p.dom)))
    if dirty.isEmpty then s.finishStore g p
    else
      let l := rs.foldl (fun (o : List L1Entry × List Msg) q =>
        let n := l1Flush g c.l1ways s.now p.dom q o.1
        (n.1, o.2 ++ n.2)) (c.l1, [])
      let wbs := dirty.flatMap (fun x => (granules ⟨x.1, x.2.1.length⟩).map (fun r =>
        Msg.writeBack g r.pa ((x.2.1.drop (r.pa - x.1)).take r.len) false false (some p.id)
          (x.2.2.filter (fun b => decide (32 * b < r.pa + r.len) && decide (r.pa < 32 * b + 32)))))
      (s.setPend g { p with kind := .flush wbs.length }).putL1 g p.dom l.1 (wbs ++ l.2)

/-- An access that waits at the L1 is tried. -/
def State.tryPend (s : State) (g : CoreId) (id : Nat) : State :=
  match (s.core g).pendOf id with
  | none => s
  | some p =>
    match p.kind with
    | .waitLoad => s.resolveLoad g p
    | .waitStore data => s.resolveStore g p data
    | .waitFlush => s.resolveFlush g p
    | .load _ todo _ => if todo.isEmpty then s else s.loadFills g p
    | _ => s

/-- Every access that waits at the L1 of a core is tried, in the order of issue (R251). -/
def State.tryAll (s : State) (g : CoreId) : State :=
  ((s.core g).pend.map (fun p => p.id)).foldl (fun s id => s.tryPend g id) s

/-! ## Scratch and tiles -/

/-- Bytes of a core's scratch (R163). -/
def Core.scratchRead (c : Core) (off n : Nat) : List Byte := cellsRead zeroByte c.scratch off n

/-- Bytes stored in a core's scratch, one store event (R165, R206). -/
def State.scratchWrite (s : State) (g : CoreId) (d : Dom) (off : Nat) (l : List Byte) : State :=
  (s.modCore g (fun c => { c with scratch := cellsWrite zeroByte c.scratch off l })).storeEvent (some g) d (.scratch off) l.length

/-- The value of a scratch or tile element, read where it lies, and whether it was present (R198, R240). -/
def State.readHere (s : State) (g : CoreId) (d : Dom) (size : Nat) (e : Elem) : State × Option (Word × Bool) :=
  match e.loc with
  | .scratch off => (s, some (wordOf ((s.core g).scratchRead off size), true))
  | .tile idx _ off =>
    match s.tileAt g d idx e.va with
    | (s1, some t) => (s1, some (wordOf (s1.tileRead t off size), s1.tilePresent t))
    | (s1, none) => (s1, none)
  | _ => (s, none)

/-- The values of all scratch and tile elements, the elements that were absent, and the elements that remain. -/
def State.readAllHere (s : State) (g : CoreId) (d : Dom) (size : Nat) :
    List Elem → State × List (Nat × Word) × List Nat × List Elem
  | [] => (s, [], [], [])
  | e :: l =>
    match s.readHere g d size e with
    | (s1, r) =>
      match s1.readAllHere g d size l with
      | (s2, vs, absent, rest) =>
        match r with
        | some (w, present) => (s2, (e.j, w) :: vs, if present then absent else e.j :: absent, rest)
        | none => (s2, vs, absent, e :: rest)

/-- Element a comes before b in ascending tile order, the elements in no tile last. -/
def tileBefore (a b : Elem) : Bool :=
  match a.loc, b.loc with
  | .tile i t _, .tile k u _ => decide (i.toNat < k.toNat) || (i == k && (decide (t < u) || (t == u && decide (a.j ≤ b.j))))
  | _, .tile .. => false
  | _, _ => true

/-- An element put in its place. -/
def tileInsert (e : Elem) : List Elem → List Elem
  | [] => [e]
  | x :: l => if tileBefore e x then e :: x :: l else x :: tileInsert e l

/-- Elements in ascending tile order (R197). -/
def tileOrder : List Elem → List Elem
  | [] => []
  | e :: l => tileInsert e (tileOrder l)

/-- Tile elements stored in order; the VA of the first whose depot is empty (R199, R200, R231). -/
def State.storeTiles (s : State) (g : CoreId) (d : Dom) (bytes : Nat → List Byte) : List Elem → State × Option VA
  | [] => (s, none)
  | e :: l =>
    match e.loc with
    | .tile idx _ off =>
      match s.tileAt g d idx e.va with
      | (s1, none) => (s1, some e.va)
      | (s1, some t) =>
        match s1.tileWrite d t off (bytes e.j) with
        | none => (s1, some e.va)
        | some s2 => s2.storeTiles g d bytes l
    | _ => s.storeTiles g d bytes l

/-- Scratch elements stored. -/
def State.storeScratch (s : State) (g : CoreId) (d : Dom) (bytes : Nat → List Byte) (es : List Elem) : State :=
  es.foldl (fun s e => match e.loc with
    | .scratch off => s.scratchWrite g d off (bytes e.j)
    | _ => s) s

/-- Memory that the L1 may hold: MT 00 or MT 01. -/
def Elem.cached (e : Elem) : Bool :=
  match e.loc with
  | .mem _ mt _ => mt == 0 || mt == 1
  | _ => false

/-- A place beyond the device: the acknowledgement of a store there is a remote operation's (R344). -/
def Loc.remote (l : Loc) : Bool :=
  match l with
  | .mem pa mt _ => mt == 2 || (mt == 3 && isFabric pa)
  | _ => false

/-- An access goes to its coherence point or target. -/
def State.toPoint (s : State) (g : CoreId) (id : Nat) : State := s.send [.cp g id]

/-- The first tile element whose bytes are poisoned (R180, R231). -/
def State.poisonedTile (s : State) (g : CoreId) (d : Dom) (size : Nat) : List Elem → State × Option VA
  | [] => (s, none)
  | e :: l =>
    match e.loc with
    | .tile idx _ off =>
      match s.tileAt g d idx e.va with
      | (s1, some t) =>
        if s1.tilePresent t && s1.poisonedAt (s1.tilePa t + off) size then (s1, some e.va) else s1.poisonedTile g d size l
      | (s1, none) => s1.poisonedTile g d size l
    | _ => s.poisonedTile g d size l

/-- An access goes on in flight: counted from now, or with the kind it waited for. -/
def State.flyVia (s : State) (g : CoreId) (v : Via) (kind : PendKind) (es : List Elem) (vals : List (Nat × Word)) (dest : LoadDest)
    (m : MemOp) : State :=
  match v with
  | .now i _ | .late i _ => (s.pushPend g i kind es vals dest m).pcNext g i
  | .held p => s.setPend g { p with kind := kind, elems := es, vals := vals, dest := dest }

/-- The number of the access in flight that flyVia makes. -/
def State.idVia (s : State) (v : Via) : Nat :=
  match v with
  | .now .. | .late .. => s.nextPend
  | .held p => p.id

/-- An access in flight has elements in cached memory besides, with the words of a store (R230). -/
def State.withRest (s : State) (g : CoreId) (id : Nat) (rest : List (Elem × Word)) : State :=
  if rest.isEmpty then s
  else s.modCore g (fun c => { c with pend := c.pend.map (fun q => if q.id = id then { q with rest := rest } else q) })

/-- A load whose values are all there ends. -/
def State.endLoad (s : State) (g : CoreId) (v : Via) (m : MemOp) (dest : LoadDest) (vals : List (Nat × Word)) : State :=
  match v with
  | .now i _ | .late i _ =>
    let s1 := (s.modSlot g i (fun sl => sl.putLoad m.size dest vals)).pcNext g i
    if m.ord.isAcq then s1.acquireAt g (some i) m.scope else s1
  | .held p => s.finishLoad g { p with dest := dest, vals := vals }

/-- A store that is performed ends. -/
def State.endStore (s : State) (g : CoreId) (v : Via) : State :=
  match v with
  | .now i _ | .late i _ => s.pcNext g i
  | .held p => s.finishStore g p

/-- The elements of the first tile in ascending order, those of the other tiles, and the others (R197). -/
def splitTile (es : List Elem) : List Elem × List Elem × List Elem :=
  let isTile := fun (e : Elem) => match e.loc with
    | .tile .. => true
    | _ => false
  let ts := tileOrder (es.filter isTile)
  let same := fun (e : Elem) => match ts with
    | f :: _ => (match f.loc, e.loc with
      | .tile i t _, .tile k u _ => i == k && t == u
      | _, _ => false)
    | [] => false
  (ts.filter same, ts.filter (fun e => !same e), es.filter (fun e => !isTile e))

/-- What an access under way has read so far, and the elements that were absent. -/
def Via.soFar (v : Via) : List (Nat × Word) × List Nat :=
  match v with
  | .now _ sl => (match sl.tile with
    | some t => (t.vals, t.absent)
    | none => ([], []))
  | .late .. | .held _ => ([], [])

/-- The access is a write on several tiles: from its second tile on it is a release at package scope, which waits (R351). -/
def State.tilesWait (s : State) (g : CoreId) (sl : Slot) (more : List Elem) : Bool :=
  !more.isEmpty && sl.tile.isNone && !(s.core g).released sl.task.act sl.acq false

/-- The element is read at its coherence point: it is not in cached memory, or the load is an acquire at quad scope or wider (R210, R230). -/
def MemOp.atPoint (m : MemOp) (e : Elem) : Bool := !e.cached || (m.ord.isAcq && m.scope.wide)

/-- What of a load is performed in flight: first the elements at their coherence points and targets, with `op`, then those that the L1
serves (R210, R230; log 28). -/
def State.flyLoad (s : State) (g : CoreId) (v : Via) (m : MemOp) (op : CpOp) (dest : LoadDest) (vals : List (Nat × Word)) (es : List Elem) :
    State :=
  let id := s.idVia v
  let pt := es.filter m.atPoint
  let l1 := es.filter (fun e => !m.atPoint e)
  if pt.isEmpty then (s.flyVia g v .waitLoad l1 vals dest m).tryPend g id
  else ((s.flyVia g v (.cp op) pt vals dest m).withRest g id (l1.map (fun e => (e, 0)))).toPoint g id

/-- A load that has passed its checks: scratch and tiles are read here, or in flight with `op` where they are performed later; memory through
the L1, or at its coherence point for an acquire at quad scope or wider and for uncached memory (R210, R230). -/
def State.goLoad (s : State) (g : CoreId) (v : Via) (m : MemOp) (op : CpOp) (dest : List Nat → LoadDest) (es : List Elem) : State :=
  match v with
  | .now i sl =>
    (match (if s.poison.isEmpty then (s, none) else s.poisonedTile g sl.dom m.size es) with
    | (s0, some va) => s0.trapVia g v ⟨.poison, va.setWidth 64, 0⟩
    | (s0, none) =>
      let sp := splitTile es
      let old := v.soFar
      match sp.2.1 with
      | x :: l =>
        (match s0.readAllHere g sl.dom m.size sp.1 with
        | (s1, vals, absent, _) => s1.setTile g i ⟨x :: l ++ sp.2.2, old.1 ++ vals, old.2 ++ absent⟩)
      | [] =>
        match s0.readAllHere g sl.dom m.size es with
        | (s1, new, gone, rest) =>
          let vals := old.1 ++ new
          let s2 := s1.overVia g v
          if rest.isEmpty then s2.endLoad g v m (dest (old.2 ++ gone)) vals else s2.flyLoad g v m .read (dest (old.2 ++ gone)) vals rest)
  | _ => if es.isEmpty then s.endLoad g v m (dest []) [] else s.flyLoad g v m op (dest []) [] es

/-- A launch counts an access beyond the device (R344). -/
def State.remoteVia (s : State) (v : Via) : State :=
  match v with
  | .now _ sl | .late _ sl => s.remoteUp sl.task.tr
  | .held p => { s with launches := s.launches.map (fun l => if some l.lid = p.lid then { l with remote := l.remote + 1 } else l) }

/-- An access goes in flight to its coherence points and targets, with `op`, all of its elements (R205). -/
def State.flyPoint (s : State) (g : CoreId) (v : Via) (m : MemOp) (op : CpOp) (dest : LoadDest) (es : List Elem) : State :=
  let s1 := if m.isStore && es.any (fun e => e.loc.remote) then s.remoteVia v else s
  (s1.flyVia g v (.cp op) es [] dest m).toPoint g (s.idVia v)

/-- The bytes of a store by address, from its elements and their words. -/
def storeData (size : Nat) (l : List (Elem × Word)) : List (Nat × Byte) :=
  l.flatMap (fun x => match x.1.loc with
    | .mem pa _ _ => (bytesOf size x.2.toNat).zipIdx.map (fun b => (pa + b.2, b.1))
    | _ => [])

/-- What of a store is performed in flight: first the elements at their coherence points and targets, then those that the L1 takes (R230;
log 28). -/
def State.flyStore (s : State) (g : CoreId) (v : Via) (m : MemOp) (w : Nat → Word) (es : List Elem) : State :=
  let id := s.idVia v
  let pt := es.filter (fun e => !e.cached)
  let l1 := (es.filter Elem.cached).map (fun e => (e, w e.j))
  if pt.isEmpty then (s.flyVia g v (.waitStore (storeData m.size l1)) (l1.map (fun x => x.1)) [] .discard m).tryPend g id
  else
    let s1 := if pt.any (fun e => e.loc.remote) then s.remoteVia v else s
    ((s1.flyVia g v (.cp (.write (pt.map (fun e => w e.j)))) pt [] .discard m).withRest g id l1).toPoint g id

/-- A store that has passed its checks: tiles first, then scratch, then memory, or all of it in flight where it is performed later (R230,
R231). `w` gives each element's value. -/
def State.goStore (s : State) (g : CoreId) (v : Via) (m : MemOp) (w : Nat → Word) (es : List Elem) : State :=
  match v with
  | .now i sl =>
    let bytes := fun j => bytesOf m.size (w j).toNat
    let sp := splitTile es
    if s.tilesWait g sl sp.2.1 then s
    else
      (match s.storeTiles g sl.dom bytes sp.1 with
      | (s1, some va) => s1.trapVia g v ⟨.allocfail, va.setWidth 64, 0⟩
      | (s1, none) =>
        match sp.2.1 with
        | x :: l => s1.setTile g i ⟨x :: l ++ sp.2.2, [], []⟩
        | [] =>
          let s2 := (s1.overVia g v).storeScratch g sl.dom bytes es
          let rest := es.filter (fun e => match e.loc with
            | .mem .. => true
            | _ => false)
          if rest.isEmpty then s2.endStore g v else s2.flyStore g v m w rest)
  | _ => if es.isEmpty then s.endStore g v else s.flyStore g v m w es

end Sys2Proof.Machine
end

