-- ==== Sys2Proof/Machine/Loads.lean ====
section
/-! DEFINITION. Loads, stores, cache control and existence: row 0x9 and POOLADD (R226 to R243). -/

namespace Sys2Proof.Machine

/-! ## Scalar loads and stores, LDK -/

/-- An M-format instruction that its guard P[0] may turn off, and that does nothing then (R229). -/
def guardedM (f : FmtM) (s : State) (uses : List RegName) (go : CoreId → SlotId → Slot → State) :
    Host.Outcome State Fault Refusal :=
  runCore s (uses ++ mRegs f) (fun g i sl => if sl.guard f.pn f.pred then go g i sl else s.pcNext g i)

/-- The x register of a specifier as a load's destination; x0 discards (R233). -/
def xDest (d : Spec) (sext : Bool) : LoadDest :=
  match d with
  | .x n => if n = 0 then .discard else .x n sext
  | _ => .discard

/-- The governed-on elements of a contiguous extent pass 2^48 or lie on both sides of the base of the scratch window (R162, R228,
R229). -/
def badSpots (a : VA) (size : Nat) (l : List Spot) : List BadSpot :=
  match l with
  | [] => []
  | x :: _ => badExtent (a.toNat + size * x.j) (size * ((l.getLast?.map (fun y => y.j)).getD x.j + 1 - x.j))

/-- The access of contiguous elements from BASE + OFF12. What would lie at 2^48 and above is no address: such an extent raises ACCESS
unless it is misaligned too (R94, R162, R228). -/
def contig (f : FmtM) (sl : Slot) (isStore : Bool) (spots : List Spot) : MemOp :=
  ⟨isStore, if isStore then .write else .read, mSize f,
    spots.filter (fun x => decide ((sl.memVa f 0).toNat + mSize f * x.j < 2 ^ 48)),
    badSpots (sl.memVa f 0) (mSize f) spots ++ misaligned (mSize f) (spots.take 1), [], f.ord, f.scope, false⟩

/-- The same with its extents for the range scoreboard. -/
def contigOp (f : FmtM) (sl : Slot) (isStore : Bool) (spots : List Spot) : MemOp :=
  let m := contig f sl isStore spots
  { m with exts := spotExts (mSize f) m.spots }

/-- LD (R233). -/
def execLd (f : FmtM) (s : State) : Host.Outcome State Fault Refusal :=
  guardedM f s [] (fun g i sl =>
    let m := contigOp f sl false [⟨0, sl.memVa f 0⟩]
    s.issue g i m .load (xDest f.data (f.len == 1)) (fun s late es => s.goLoad g (.of late i sl) m .read (fun _ => xDest f.data (f.len == 1)) es))

/-- The values of a store's elements, for one that waits for its pages. -/
def storeWords (m : MemOp) (w : Nat → Word) : HeldOp := .store (m.spots.map (fun x => w x.j))

/-- A store issues with each element's value. -/
def State.issueStore (s0 : State) (g : CoreId) (i : SlotId) (m : MemOp) (w : Nat → Word) : State :=
  s0.issue g i m (storeWords m w) .discard (fun s late es => s.goStore g (.of late i (s0.slot g i)) m w es)

/-- ST: the low bytes of Src(DATA, n64) (R233). -/
def execSt (f : FmtM) (s : State) : Host.Outcome State Fault Refusal :=
  guardedM f s [] (fun g i sl =>
    let m := contigOp f sl true [⟨0, sl.memVa f 0⟩]
    s.issueStore g i m (fun _ => sl.srcW f.data))

/-- The k register of a specifier. -/
def kIndex (d : Spec) : BitVec 6 :=
  match d with
  | .c n => n
  | _ => 0

/-- The registers that LDK writes. -/
def ldkRegs (f : FmtM) : List RegName := (LoadDest.k (kIndex f.data) (f.len.toNat + 1)).regs

/-- LDK (R235). -/
def execLdk (f : FmtM) (s : State) : Host.Outcome State Fault Refusal :=
  guardedM f s (ldkRegs f) (fun g i sl =>
    let n := f.len.toNat + 1
    let m := contigOp f sl false (allSpots n (fun j => sl.memVa f (BitVec.ofNat 64 (8 * j))))
    s.issue g i m .load (.k (kIndex f.data) n) (fun s late es => s.goLoad g (.of late i sl) m .read (fun _ => .k (kIndex f.data) n) es))

/-! ## Vector loads and stores (R234) -/

/-- The v register of a specifier. -/
def vIndex (d : Spec) : BitVec 6 :=
  match d with
  | .v n => n
  | _ => 0

/-- A register length beyond its limit raises ILLEGAL, ranked first (R227). -/
def lenBad (n limit : Nat) : List BadSpot := if limit < n then [⟨0, 0, .illegal⟩] else []

/-- The access of the contiguous vector forms. -/
def vecContig (f : FmtM) (sl : Slot) (isStore : Bool) : MemOp :=
  let n := sl.memLen f
  let bad := lenBad (n * mSize f) 128
  if bad.isEmpty then contigOp f sl isStore (sl.spots f n (fun j => sl.memVa f (BitVec.ofNat 64 (mSize f * j))))
  else { contigOp f sl isStore [] with bad := bad }

/-- Element j's address of the strided forms (R227). -/
def stridedVa (f : FmtM) (sl : Slot) (j : Nat) : VA := sl.memVa f (sl.srcW f.aux * BitVec.ofNat 64 j)

/-- Element j's address of the gather forms: the index is read as s32 or s64 (R227). -/
def gatherVa (f : FmtM) (sl : Slot) (j : Nat) : VA :=
  let w := elemOf (sl.readV (vIndex f.aux)) (mSize f) j
  sl.memVa f (if f.sz = 2 then (w.setWidth 32).signExtend 64 else w)

/-- The access of the strided and gather forms, whose length is a literal. -/
def vecScatter (f : FmtM) (sl : Slot) (isStore : Bool) (va : Nat → VA) : MemOp :=
  let spots := sl.spots f (f.len.toNat + 1) va
  ⟨isStore, if isStore then .write else .read, mSize f, spots, [], spotExts (mSize f) spots, f.ord, f.scope, false⟩

/-- A vector load that has its access. DESIGN CHOICE: one of no element, since its length is 0 or every element is governed off, performs
nothing and takes no acquire action, which no rule states (R229, R232; log 84). -/
def vecLoad (f : FmtM) (s : State) (op : Slot → MemOp) : Host.Outcome State Fault Refusal :=
  runCore s (mRegs f) (fun g i sl =>
    let m := op sl
    s.issue g i m .load (.v (vIndex f.data)) (fun s late es =>
      if m.spots.isEmpty then s.pcNext g i else s.goLoad g (.of late i sl) m .read (fun _ => .v (vIndex f.data)) es))

/-- A vector store that has its access. -/
def vecStore (f : FmtM) (s : State) (op : Slot → MemOp) : Host.Outcome State Fault Refusal :=
  runCore s (mRegs f) (fun g i sl =>
    let m := op sl
    s.issueStore g i m (fun j => elemOf (sl.readV (vIndex f.data)) (mSize f) j))

/-- LDV (R234). -/
def execLdv (f : FmtM) (s : State) : Host.Outcome State Fault Refusal := vecLoad f s (fun sl => vecContig f sl false)
/-- STV (R234). -/
def execStv (f : FmtM) (s : State) : Host.Outcome State Fault Refusal := vecStore f s (fun sl => vecContig f sl true)
/-- LDVS (R234). -/
def execLdvs (f : FmtM) (s : State) : Host.Outcome State Fault Refusal :=
  vecLoad f s (fun sl => vecScatter f sl false (stridedVa f sl))
/-- STVS (R234). -/
def execStvs (f : FmtM) (s : State) : Host.Outcome State Fault Refusal :=
  vecStore f s (fun sl => vecScatter f sl true (stridedVa f sl))
/-- LDVG (R234). -/
def execLdvg (f : FmtM) (s : State) : Host.Outcome State Fault Refusal :=
  vecLoad f s (fun sl => vecScatter f sl false (gatherVa f sl))
/-- STVG (R234). -/
def execStvg (f : FmtM) (s : State) : Host.Outcome State Fault Refusal :=
  vecStore f s (fun sl => vecScatter f sl true (gatherVa f sl))

/-! ## LDX (R240) -/

/-- Lane i of pD: some governed-on element below n in it, and every such element present. -/
def ldxPresent (size : Nat) (on : List Nat) (absent : List Nat) : BitVec 32 :=
  pbuild (fun i =>
    let mine := on.filter (fun j => decide (j * size < 4 * i + 4) && decide (4 * i < j * size + size))
    !mine.isEmpty && mine.all (fun j => !absent.contains j))

/-- The p register of a specifier. -/
def pIndex (d : Spec) : BitVec 3 :=
  match d with
  | .c n => n.setWidth 3
  | _ => 0

/-- LDX: data and existence together (R240). -/
def execLdx (f : FmtM) (s : State) : Host.Outcome State Fault Refusal :=
  runCore s (.p (pIndex f.aux) :: mRegs f) (fun g i sl =>
    let n := f.len.toNat + 1
    let m : MemOp := { contigOp f sl false (sl.spots f n (fun j => sl.memVa f (BitVec.ofNat 64 (mSize f * j)))) with whole := true }
    let on := m.spots.map (fun x => x.j)
    s.issue g i m (.ldx (vIndex f.data) (pIndex f.aux) on) (.vx (vIndex f.data) (pIndex f.aux) 0) (fun s late es =>
      s.goLoad g (.of late i sl) m (.ldx on []) (fun absent => .vx (vIndex f.data) (pIndex f.aux) (ldxPresent m.size on absent)) es))

/-! ## ZERO and cache control (R236 to R239) -/

/-- The elements of ZERO, PREF, FLUSH and INVAL, with the run-time limit of n * s <= 1,024 (R227). -/
def longOp (f : FmtM) (sl : Slot) (isStore : Bool) : MemOp :=
  let n := sl.memLen f
  let bad := lenBad (n * mSize f) 1024
  if bad.isEmpty then contigOp f sl isStore (allSpots n (fun j => sl.memVa f (BitVec.ofNat 64 (mSize f * j))))
  else { contigOp f sl isStore [] with bad := bad }

/-- ZERO (R236). -/
def execZero (f : FmtM) (s : State) : Host.Outcome State Fault Refusal :=
  guardedM f s [] (fun g i sl =>
    let m := longOp f sl true
    s.issueStore g i m (fun _ => 0))

/-- The parts of an extent in each page of 4 KiB, below 2^48. -/
def pageParts (a len : Nat) : List (Nat × Nat) :=
  ((blocks 4096 (len / 4096 + 1) ⟨a, len⟩).filter (fun r => decide (r.pa < 2 ^ 48))).map (fun r => (r.pa, r.len))

/-- The parts of an extent that PREF may fill, each of one page: where their bytes lie, and the grain. It does nothing for the others.
DESIGN CHOICE: a page whose PTE has a reserved value is a translation failure here, for which R237 has PREF do nothing, and no ILLEGAL
(R192; log 85). -/
def State.prefRuns (s : State) (g : CoreId) (d : Dom) (u : Bool) : List (Nat × Nat) → State × List (Run × Nat)
  | [] => (s, [])
  | x :: l =>
    if inScratch x.1 then s.prefRuns g d u l
    else
      match s.xlate g d .read u (BitVec.ofNat 48 x.1) with
      | (s1, .error _) => s1.prefRuns g d u l
      | (s1, .ok t) =>
        if pteBit t.pte 11 || (pteMt t.pte != 0 && pteMt t.pte != 1) || s1.migrating t.pa then s1.prefRuns g d u l
        else
          match s1.prefRuns g d u l with
          | (s2, rs) => (s2, (⟨t.pa, x.2⟩, pteGrain t.pte) :: rs)

/-- The L1 asks for what it lacks of a run, as a load of the domain would; no fill is asked for, and no other domain's entry leaves for it,
where no tracker is free (R170, R237). -/
def State.prefetch (s : State) (g : CoreId) (d : Dom) (x : Run × Nat) : State :=
  let c := s.core g
  let sent := (fillRequests (evictOthers g d x.1 c.l1).1 (c.fillRuns.map (fun y => y.1)) [x.1]).take (c.freeTrackers d)
  (s.l1Admit g d sent).sendFills g d (sent.map (fun r => (r, x.2)))

/-- Earlier accesses of the core wait at the L1 on a byte of runs (R251). -/
def Core.l1Queued (c : Core) (rs : List Run) : Bool :=
  c.pend.any (fun q => match q.kind with
    | .waitLoad | .waitStore _ | .waitFlush | .cp _ => runsMeet rs q.runs
    | .load _ todo _ => runsMeet rs todo
    | _ => false)

/-- Runs of memory as places. -/
def runPlaces (rs : List Run) : List (Loc × Nat) := rs.map (fun r => (.mem r.pa 0 0, r.len))

/-- PREF (R237): no trap but ILLEGAL. It is resolved at the L1 after what has issued before it to a common byte (R251). -/
def execPref (f : FmtM) (s : State) : Host.Outcome State Fault Refusal :=
  guardedM f s [] (fun g i sl =>
    let m := longOp f sl false
    if (lenBad (sl.memLen f * mSize f) 1024).isEmpty = false then raise s g i (trapOf .illegal)
    else if (s.core g).sbHolds sl.dom false m.exts then s.sbStall g sl.dom
    else
      match s.prefRuns g sl.dom sl.isU (pageParts (sl.memVa f 0).toNat (m.spots.length * m.size)) with
      | (s1, rs) =>
        let at_ := rs.map (fun x => x.1)
        if (s.core g).l1Queued at_ || (s.core g).heldMeets sl.dom false [] (runPlaces at_) then s1
        else (rs.foldl (fun s x => s.prefetch g sl.dom x) s1).pcNext g i)

/-- What comes of a page of cache control. -/
inductive LookRes where
  | ok (l : List Elem)
  | bad (c : TrapCode)
  | waits

/-- The part of an extent that lies in one page, byte by byte as elements of size 1: V alone is needed and no U check is made; a page
with EXIST = 1, MT 10 or MT 11 and scratch are left out (R238, R239). -/
def State.lookPage (s : State) (g : CoreId) (d : Dom) (who : Option (CoreId × SlotId × Nat)) (x : Nat × Nat) : State × LookRes :=
  let va := BitVec.ofNat 48 x.1
  if inScratch x.1 then (s, .ok [])
  else
    match s.xlate g d .look false va with
    | (s1, .error (.trap c)) => (s1, .bad c)
    | (s1, .error (.pull a p)) =>
      match s1.startPull d a p va who with
      | some s2 => (s2, .waits)
      | none => (s1, .bad .access)
    | (s1, .ok t) =>
      if s1.migrating t.pa then (s1, .waits)
      else if pteBit t.pte 11 || (pteMt t.pte != 0 && pteMt t.pte != 1) then (s1, .ok [])
      else (s1, .ok ((List.range x.2).map (fun k => ⟨0, va + BitVec.ofNat 48 k, .mem (t.pa + k) (pteMt t.pte) (pteGrain t.pte)⟩)))

/-- The parts of an extent in cached memory, page by page: their bytes, the failures, and whether a page is awaited. -/
def State.lookPages (s : State) (g : CoreId) (d : Dom) (who : Option (CoreId × SlotId × Nat)) :
    List (Nat × Nat) → State × List Elem × List BadSpot × Bool
  | [] => (s, [], [], false)
  | x :: l =>
    match s.lookPage g d who x with
    | (s1, r) =>
      match s1.lookPages g d who l with
      | (s2, es, bs, w) =>
        match r with
        | .ok a => (s2, a ++ es, bs, w)
        | .bad c => (s2, es, ⟨rankOf c, BitVec.ofNat 48 x.1, c⟩ :: bs, w)
        | .waits => (s2, es, bs, true)

/-- FLUSH and INVAL as they issue: the checks of their extent, in the order of R94, then what they do with the bytes found; they wait for a
page, and behind an earlier access to a common byte that waits for one (R228, R238, R239, R251). -/
def State.cacheOp (s : State) (g : CoreId) (i : SlotId) (f : FmtM) (sl : Slot) (go : State → List Elem → State) (waits : State → MemOp → State) :
    State :=
  let m := longOp f sl true
  let exts := if m.spots.isEmpty then [] else pageParts (sl.memVa f 0).toNat (m.spots.length * m.size)
  if (s.core g).sbHolds sl.dom true m.exts then s.sbStall g sl.dom
  else if (s.core g).acquiring sl.task.act then s
  else
    match worst (m.bad ++ s.reservedPtes g sl.dom m.spots ++ misaligned m.size m.spots) with
    | some b => raise s g i ⟨b.code, b.va.setWidth 64, 0⟩
    | none =>
      match s.lookPages g sl.dom (some (g, i, sl.task.act)) exts with
      | (s1, es, bs, w) =>
        match worst bs with
        | some b => raise s1 g i ⟨b.code, b.va.setWidth 64, 0⟩
        | none =>
          if w || (s.core g).heldMeets sl.dom false m.exts (runPlaces (memRuns 1 es)) then waits s1 m else go s1 es

/-- FLUSH in flight, an access of single bytes that waits at the L1 in its turn (R238, R251). -/
def flushOp : MemOp := ⟨true, .look, 1, [], [], [], .plain, .slot, false⟩

/-- FLUSH: owned-dirty bytes of the extent are written back and become owned-clean (R238); it counts in cnt.st. -/
def execFlush (f : FmtM) (s : State) : Host.Outcome State Fault Refusal :=
  guardedM f s [] (fun g i sl =>
    if sl.cnt.st == 63 then s
    else
      s.cacheOp g i f sl
        (fun s es =>
          if es.isEmpty then s.pcNext g i
          else (((s.pushPend g i .waitFlush es [] .discard flushOp).pcNext g i).tryPend g s.nextPend))
        (fun s m => s.hold g i { m with ord := .plain } .flush .discard (m.spots.map (fun x => ⟨x.j, x.va, s.lookLoc g sl.dom x.va⟩))))

/-- An access of cache control would wait at the L1: for fills of its bytes, and behind earlier accesses to them (R251). -/
def State.l1Waits (s : State) (g : CoreId) (rs : List Run) : Bool :=
  runsMeet rs ((s.core g).fillRuns.map (fun x => x.1)) || (s.core g).l1Queued rs

/-- INVAL: clean bytes of the extent are dropped; the slot does not go on before (R239, R251). -/
def execInval (f : FmtM) (s : State) : Host.Outcome State Fault Refusal :=
  guardedM f s [] (fun g i sl =>
    s.cacheOp g i f sl
      (fun s es =>
        let rs := memRuns 1 es
        if s.l1Waits g rs then s
        else
          let c := s.core g
          let l := (rs.flatMap (blocks 4096 2)).foldl (fun (o : List L1Entry × List Msg) q =>
            let n := l1Inval g c.l1ways s.now sl.dom q o.1
            (n.1, o.2 ++ n.2)) (c.l1, [])
          ((s.setCore g { c with l1 := l.1 }).send l.2).pcNext g i)
      (fun s _ => s))

/-! ## XTEST and ERASE (R241, R242) -/

/-- What comes of finding a tile. -/
inductive TileRes where
  | ok (t : TileRef)
  | bad (c : TrapCode)
  | pulling

/-- The tile of a VA, in a page with EXIST = 1: translation first, then the region (R38, R241, R242). DESIGN CHOICE: the scratch window is
no page with EXIST = 1, whichever banks the domain has: ACCESS, and no DOMAIN of step 5 of R94 (log 86). -/
def State.tileOf (s : State) (g : CoreId) (d : Dom) (a : Acc) (u : Bool) (who : Option (CoreId × SlotId × Nat)) (va : Nat) :
    State × TileRes :=
  if inScratch va then (s, .bad .access)
  else
    match s.xlate g d a u (BitVec.ofNat 48 va) with
    | (s1, .error (.trap c)) => (s1, .bad c)
    | (s1, .error (.pull x p)) =>
      match s1.startPull d x p (BitVec.ofNat 48 va) who with
      | some s2 => (s2, .pulling)
      | none => (s1, .bad .access)
    | (s1, .ok x) =>
      if !pteBit x.pte 11 then (s1, .bad .access)
      else
        match s1.tileRef g d (pteRegion x.pte) va with
        | (s2, .error (.trap c)) => (s2, .bad c)
        | (s2, .error (.pull x p)) =>
          match s2.startPull d x p (BitVec.ofNat 48 va) who with
          | some s3 => (s3, .pulling)
          | none => (s2, .bad .access)
        | (s2, .ok t) => (s2, .ok t)

/-- What comes of finding all tiles. -/
inductive TilesRes where
  | ok (l : List TileRef)
  | bad (c : TrapCode) (va : Nat)
  | pulling

/-- The tiles of n consecutive steps of a size, in ascending order, the first failure deciding. -/
def State.tilesFrom (s : State) (g : CoreId) (d : Dom) (a : Acc) (u : Bool) (who : Option (CoreId × SlotId × Nat)) (z : Nat) :
    Nat → Nat → State × TilesRes
  | 0, _ => (s, .ok [])
  | n + 1, va =>
    if 2 ^ 48 ≤ va then (s, .bad .access va)
    else
      match s.tileOf g d a u who va with
      | (s1, .bad c) => (s1, .bad c va)
      | (s1, .pulling) => (s1, .pulling)
      | (s1, .ok t) =>
        match s1.tilesFrom g d a u who z n (va + z) with
        | (s2, .ok l) => (s2, .ok (t :: l))
        | r => r

/-- The elements of consecutive tiles, one for each. -/
def tileElems (ts : List TileRef) (a z : Nat) : List Elem :=
  ts.zipIdx.map (fun x => ⟨x.2, BitVec.ofNat 48 (a + x.2 * z), .tile x.1.region.idx x.1.t 0⟩)

/-- The word that XTEST writes, from the bits of its tiles (R241). -/
def xtestWord (vals : List (Nat × Word)) : Word := BitVec.ofNat 64 (packFields 1 (fun k => if valOf vals k = some 1 then 1 else 0) 64)

/-- The bit of a tile in XTEST: whether it is present (R241). -/
def State.xtestBit (s : State) (g : CoreId) (d : Dom) (e : Elem) : State × Word :=
  let r := match e.loc with
    | .tile idx _ _ => s.tileAt g d idx e.va
    | _ => (s, none)
  (r.1, if (r.2.map (fun t => r.1.tilePresent t)).getD false then 1 else 0)

/-- XTEST on its tiles in ascending order, one load event for each, in a turn of its own (R241, R351). -/
def State.xtestRun (s : State) (g : CoreId) (i : SlotId) (sl : Slot) (m : MemOp) (dest : LoadDest) (vals : List (Nat × Word)) :
    List Elem → State
  | [] => s.endLoad g (.now i sl) m dest [(0, xtestWord vals)]
  | e :: l =>
    match s.xtestBit g sl.dom e with
    | (s1, bit) =>
      match l with
      | x :: l' => s1.setTile g i ⟨x :: l', vals ++ [(e.j, bit)], []⟩
      | [] => (s1.overVia g (.now i sl)).endLoad g (.now i sl) m dest [(0, xtestWord (vals ++ [(e.j, bit)]))]

/-- XTEST and ERASE go in flight: as the scheduler has it, or behind earlier accesses under way to their tiles (R208, R380). -/
def State.tilesLate (s : State) (g : CoreId) (d : Dom) (m : MemOp) (es : List Elem) : Bool :=
  s.later || (s.core g).nearMeets d (m.places es)

/-- The pages of an extent, one VA in each of 4 KiB, in ascending order. -/
def pageSteps (a len : Nat) : List Nat :=
  (List.range ((a + len + 4095) / 4096 - a / 4096)).map (fun k => max a ((a / 4096 + k) * 4096))

/-- The regions of the pages of an extent: all the same, or ACCESS (R241, R242). -/
def State.regionPages (s : State) (g : CoreId) (d : Dom) (acc : Acc) (u : Bool) (who : Option (CoreId × SlotId × Nat)) (idx : Option (BitVec 6)) :
    List Nat → State × TilesRes
  | [] => (s, .ok [])
  | va :: l =>
    if 2 ^ 48 ≤ va then (s, .bad .access va)
    else
      match s.tileOf g d acc u who va with
      | (s1, .bad c) => (s1, .bad c va)
      | (s1, .pulling) => (s1, .pulling)
      | (s1, .ok t) =>
        if idx.isSome && idx != some t.region.idx then (s1, .bad .access va)
        else
          match s1.regionPages g d acc u who (some t.region.idx) l with
          | (s2, .ok r) => (s2, .ok (t :: r))
          | r => r

/-- An access of XTEST or ERASE that waits for its pages is counted, or goes on waiting (R365). -/
def State.holdVia (s : State) (g : CoreId) (v : Via) (m : MemOp) (a : VA) (op : HeldOp) (dest : LoadDest) : State :=
  match v with
  | .now i _ | .late i _ => s.hold g i m op dest [⟨0, a, .unplaced⟩]
  | .held _ => s

/-- One spot in each page of an extent below 2^48. -/
def pageSpots (a len : Nat) : List Spot :=
  ((pageSteps a len).filter (fun x => decide (x < 2 ^ 48))).map (fun x => ⟨0, BitVec.ofNat 48 x⟩)

/-- XTEST, in the order of checks of R241: ILLEGAL for reserved PTEs (R94), the page of a, ALIGN, then the pages of the other tiles. It
waits for a page, and behind an earlier access to its tiles that waits for one. -/
def State.xtestGo (s : State) (g : CoreId) (v : Via) (m : MemOp) (dest : LoadDest) (u : Bool) (who : Option (CoreId × SlotId × Nat))
    (a : VA) (n : Nat) : State :=
  let d := v.dom
  match s.tileOf g d .read u who a.toNat with
  | (s1, .bad c) => s1.trapVia g v ⟨c, a.setWidth 64, 0⟩
  | (s1, .pulling) => s1.holdVia g v m a (.xtest n) dest
  | (s1, .ok t0) =>
    let z := t0.region.tile
    let len := n * z
    match worst (s1.reservedPtes g d (pageSpots a.toNat len)) with
    | some b => s1.trapVia g v ⟨b.code, b.va.setWidth 64, 0⟩
    | none =>
      if a.toNat % z ≠ 0 then s1.trapVia g v ⟨.align, a.setWidth 64, 0⟩
      else if (s1.core g).sbHolds d false [(a.toNat, len)] then s1.sbStall g d
      else
        match s1.regionPages g d .read u who (some t0.region.idx) (pageSteps a.toNat len) with
        | (s2, .bad c va) => s2.trapVia g v ⟨c, BitVec.ofNat 64 va, 0⟩
        | (s2, .pulling) => s2.holdVia g v m a (.xtest n) dest
        | (s2, .ok _) =>
          match s2.tilesFrom g d .read u who z n a.toNat with
          | (s3, .bad c va) => s3.trapVia g v ⟨c, BitVec.ofNat 64 va, 0⟩
          | (s3, .pulling) => s3.holdVia g v m a (.xtest n) dest
          | (s3, .ok ts) =>
            let es := tileElems ts a.toNat z
            match v with
            | .now i sl =>
              if (s3.core g).heldMeets d true [(a.toNat, len)] (m.places es) then s3.hold g i m (.xtest n) dest es
              else if s3.tilesLate g d m es then s3.flyPoint g v m .xtest dest es
              else s3.xtestRun g i sl m dest [] es
            | _ => s3.flyPoint g v m .xtest dest es

/-- XTEST (R241). -/
def execXtest (f : FmtM) (s : State) : Host.Outcome State Fault Refusal :=
  guardedM f s [] (fun g i sl =>
    let n := sl.memLen f
    let a := sl.memVa f 0
    let m : MemOp := ⟨false, .read, 8, [], lenBad n 64, [], f.ord, f.scope, true⟩
    let dest := xDest f.data false
    s.issue g i m (.xtest n) dest (fun s _ _ =>
      match sl.tile with
      | some t => s.xtestRun g i sl m dest t.vals t.elems
      | none => if n = 0 then s.pcNext g i else s.xtestGo g (.now i sl) m dest sl.isU (some (g, i, sl.task.act)) a n))

/-- The slot's own reservation on an extent goes (R247). -/
def State.dropOwnResv (s : State) (g : CoreId) (i : SlotId) (a len : Nat) : State :=
  if s.resv.isEmpty then s
  else { s with resv := s.resv.filter (fun r => !(r.g == g && r.slot == i && decide (r.va.toNat < a + len) && decide (a < r.va.toNat + r.size))) }

/-- The tile of an element erased, as one event (R201). -/
def State.eraseElem (s : State) (g : CoreId) (d : Dom) (e : Elem) : State :=
  let r := match e.loc with
    | .tile idx _ _ => s.tileAt g d idx e.va
    | _ => (s, none)
  match r.2 with
  | some t => r.1.tileErase d t
  | none => r.1

/-- ERASE on its tiles in ascending order, one event for each, in a turn of its own (R201, R242, R351). -/
def State.eraseRun (s : State) (g : CoreId) (i : SlotId) (sl : Slot) : List Elem → State
  | [] => s.endStore g (.now i sl)
  | e :: l =>
    match l with
    | x :: l' => (s.eraseElem g sl.dom e).setTile g i ⟨x :: l', [], []⟩
    | [] => ((s.eraseElem g sl.dom e).overVia g (.now i sl)).endStore g (.now i sl)

/-- ERASE, in the order of checks of R242, reserved PTEs first (R94). It waits for a page, and behind an earlier access to its tiles that
waits for one. -/
def State.eraseGo (s : State) (g : CoreId) (v : Via) (m : MemOp) (u : Bool) (who : Option (CoreId × SlotId × Nat)) (a len : Nat) : State :=
  let d := v.dom
  match worst (s.reservedPtes g d (pageSpots a len)) with
  | some b => s.trapVia g v ⟨b.code, b.va.setWidth 64, 0⟩
  | none =>
    match s.regionPages g d .write u who none (pageSteps a len) with
    | (s1, .bad c va) => s1.trapVia g v ⟨c, BitVec.ofNat 64 va, 0⟩
    | (s1, .pulling) => s1.holdVia g v m (BitVec.ofNat 48 a) (.erase len) .discard
    | (s1, .ok []) => s1.endStore g v
    | (s1, .ok (t0 :: _)) =>
      let z := t0.region.tile
      if a % z ≠ 0 || len % z ≠ 0 then s1.trapVia g v ⟨.align, BitVec.ofNat 64 a, 0⟩
      else
        match s1.tilesFrom g d .write u who z (len / z) a with
        | (s2, .bad c va) => s2.trapVia g v ⟨c, BitVec.ofNat 64 va, 0⟩
        | (s2, .pulling) => s2.holdVia g v m (BitVec.ofNat 48 a) (.erase len) .discard
        | (s2, .ok ts) =>
          let es := tileElems ts a z
          match v with
          | .now i sl =>
            if (s2.core g).heldMeets d true [(a, len)] (m.places es) then s2.hold g i m (.erase len) .discard es
            else if s2.tilesLate g d m es then s2.flyPoint g v m .erase .discard es
            else if s2.tilesWait g sl (es.drop 1) then s2
            else (s2.dropOwnResv g i a len).eraseRun g i sl es
          | _ => s2.flyPoint g v m .erase .discard es

/-- ERASE (R242). -/
def execErase (f : FmtM) (s : State) : Host.Outcome State Fault Refusal :=
  guardedM f s [] (fun g i sl =>
    let a := (sl.memVa f 0).toNat
    let len := (sl.srcW f.aux).toNat
    let m : MemOp := ⟨true, .write, 1, [], if 2 ^ 22 < len then [⟨0, 0, .illegal⟩] else [], [(a, len)], f.ord, f.scope, true⟩
    s.issue g i m (.erase len) .discard (fun s _ _ =>
      match sl.tile with
      | some t => s.eraseRun g i sl t.elems
      | none => if len = 0 then s.pcNext g i else s.eraseGo g (.now i sl) m sl.isU (some (g, i, sl.task.act)) a len))

/-! ## POOLADD (R243) -/

/-- The tile at a VA for POOLADD: its PA, or why not. The PTE is left as it is (R243). -/
def State.poolTile (s : State) (g : CoreId) (d : Dom) (z va : Nat) : State × Except TrapCode Nat :=
  if 2 ^ 48 < va + z || inScratch (va + z - 1) then (s, .error .access)
  else
    match s.walk g.die d (BitVec.ofNat 48 va) with
    | .error c => (s, .error c)
    | .ok l =>
      let off := va % 2 ^ levelShift l.level.val
      if !permOk l.pte .both false || pteMt l.pte != 0 || pteBit l.pte 11 || pteBit l.pte 12 || decide (2 ^ levelShift l.level.val < off + z) then
        (s, .error .access)
      else
        match s.xlate g d .quiet false (BitVec.ofNat 48 va) with
        | (s1, .ok x) => (s1, .ok x.pa)
        | (s1, .error (.trap c)) => (s1, .error c)
        | (s1, .error (.pull _ _)) => (s1, .error .access)

/-- The tiles of n steps: their addresses, and the failures (R243). -/
def State.poolScan (s : State) (g : CoreId) (d : Dom) (z : Nat) (die : Option DieId) : Nat → Nat → State × List Nat × List BadSpot
  | 0, _ => (s, [], [])
  | n + 1, va =>
    match s.poolTile g d z va with
    | (s1, .error c) =>
      match s1.poolScan g d z die n (va + z) with
      | (s2, l, bs) => (s2, l, ⟨rankOf c, BitVec.ofNat 48 va, c⟩ :: bs)
    | (s1, .ok pa) =>
      let off := die.isSome && die != some (dieOf pa)
      match s1.poolScan g d z (die.or (some (dieOf pa))) n (va + z) with
      | (s2, l, bs) => (s2, pa :: l, if off then ⟨3, BitVec.ofNat 48 va, .access⟩ :: bs else bs)

/-- The tiles of n steps, all on one die, or the failure that POOLADD raises: the first in the order of R94 (R243). -/
def State.poolTiles (s : State) (g : CoreId) (d : Dom) (z n va : Nat) : State × Except (TrapCode × VA) (List Nat) :=
  match s.poolScan g d z none n va with
  | (s1, l, bs) =>
    match worst bs with
    | some b => (s1, .error (b.code, b.va))
    | none => (s1, .ok l)

/-- A tile of the registry meets a run (R243). -/
def RegTile.meets (t : RegTile) (pa z : Nat) : Bool := decide (t.pa < pa + z) && decide (pa < t.pa + 2 ^ (9 + t.tsz.toNat))

/-- One tile is pushed, if nothing holds its bytes and the depot has room; the number added so far. -/
def State.poolPush (s : State) (d : Dom) (tsz : Nat) (pool : BitVec 4) (o : Nat) (pa : Nat) : State × Nat :=
  let h := dieOf pa
  let depot := s.depot h d tsz pool
  if (s.die h).registry.any (fun t => t.meets pa (2 ^ (9 + tsz))) || 65536 ≤ depot.length then (s, o)
  else
    let s1 := s.setDepot h d tsz pool (pa :: depot)
    (s1.modDie h (fun x => { x with registry := ⟨pa, BitVec.ofNat 3 tsz, d⟩ :: x.registry }), o + 1)

/-- Tiles pushed in the given order. -/
def State.poolPushAll (s : State) (d : Dom) (tsz : Nat) (pool : BitVec 4) : List Nat → Nat → State × Nat
  | [], o => (s, o)
  | pa :: l, o => match s.poolPush d tsz pool o pa with
    | (s1, o1) => s1.poolPushAll d tsz pool l o1

/-- The registers of an S-format instruction. -/
def sRegs (f : FmtS) : List RegName := specRegs [f.dst, f.sa, f.sb, f.sc]

/-- POOLADD (R243). -/
def execPooladd (f : FmtS) (s : State) : Host.Outcome State Fault Refusal :=
  runCore s (sRegs f) (fun g i sl =>
    let n := (sl.srcW f.sb).toNat
    let tsz := (f.imm.extractLsb' 0 3).toNat
    let pool := f.imm.extractLsb' 3 4
    let z := 2 ^ (9 + tsz)
    let v := ((sl.srcW f.sa).setWidth 48).toNat
    if 4096 < n then raise s g i (trapOf .illegal)
    else if sl.isU then raise s g i (trapOf .priv)
    else if n = 0 then (s.putX g i f.dst 0).pcNext g i
    else if v % z ≠ 0 then raise s g i ⟨.align, BitVec.ofNat 64 v, 0⟩
    else
      match s.poolTiles g sl.dom z n v with
      | (s1, .error (c, va)) => raise s1 g i ⟨c, va.setWidth 64, 0⟩
      | (s1, .ok l) =>
        if !(s1.core g).released sl.task.act sl.acq true then s1
        else
          match s1.poolPushAll sl.dom tsz pool l.reverse 0 with
          | (s2, added) => (s2.putX g i f.dst (BitVec.ofNat 64 added)).pcNext g i)

end Sys2Proof.Machine
end

