-- ==== Sys2Proof/Machine/Atomics.lean ====
section
/-! DEFINITION. Atomics, LR and SC, vector atomics and FENCE: row 0xA (R244 to R250), and what a coherence point or target does
with an access in flight (R205, R210, R224, R230, R232). -/

namespace Sys2Proof.Machine

/-! ## The operations (R244, R245) -/

/-- The float type of an atomic's size. -/
def floatTy (size : Nat) : Ty := if size = 4 then .f32 else .f64
/-- The signed type of an atomic's size. -/
def signedTy (size : Nat) : Ty := if size = 4 then .s32 else .s64
/-- The unsigned type of an atomic's size. -/
def plainTy (size : Nat) : Ty := if size = 4 then .n32 else .n64

/-- The new value of an atomic, or none where nothing is written (R244). -/
def amoNew (k : AmoKind) (size : Nat) (old src expected : Word) : Option Word :=
  let low := lowBits (plainTy size)
  let a := intOf (signedTy size) old
  let b := intOf (signedTy size) src
  match k with
  | .add => some (low (old + src))
  | .and => some (low (old &&& src))
  | .or => some (low (old ||| src))
  | .xor => some (low (old ^^^ src))
  | .min => some (if a < b then old else src)
  | .max => some (if a < b then src else old)
  | .minn => some (if old.toNat < src.toNat then old else src)
  | .maxn => some (if old.toNat < src.toNat then src else old)
  | .swp => some src
  | .cas => if old = expected then some src else none
  | .fadd => some (addStd (floatTy size) .rne false old src).1

/-- Kinds that the fabric carries (R245). -/
def fabricCarries (k : AmoKind) (size : Nat) : Bool :=
  match k with
  | .add | .swp | .cas => true
  | .and | .or | .xor => size == 8
  | _ => false

/-- Host memory (MT 01). -/
def Loc.hosted (l : Loc) : Bool :=
  match l with
  | .mem _ mt _ => mt == 1
  | _ => false

/-- The first trap of an atomic, LR or SC at its places: POISON of any element, then ATOMUNSUP where a place beyond the device does not
carry the operation (R245, R247). -/
def State.badAtomic (s : State) (size : Nat) (carried : Bool) (es : List Elem) : Option Trap :=
  match es.find? (fun e => match e.loc with
    | .mem pa _ _ => s.poisonedAt pa size
    | _ => false) with
  | some e => some ⟨.poison, e.va.setWidth 64, 0⟩
  | none => if !carried && es.any (fun e => e.loc.remote) then some (trapOf .atomunsup) else none

/-- Bytes stored by an atomic or SC at its place: where host memory is owned by the die's visitor slice, there (R245). -/
def State.pointWrite (s : State) (d : DieId) (dom : Dom) (l : Loc) (size : Nat) (w : Word) (owned : Bool) : State :=
  match l with
  | .mem pa _ _ =>
    if owned then s.storeFrom d dom pa (bytesOf size w.toNat)
    else s.cohWrite pa (bytesOf size w.toNat)
  | _ => s

/-! ## Scratch and tile elements -/

/-- One atomic on a scratch or tile element: its old value, or the trap. -/
def State.amoHere (s : State) (g : CoreId) (d : Dom) (size : Nat) (k : AmoKind) (src expected : Word) (e : Elem) :
    State × Except Trap Word :=
  match e.loc with
  | .scratch off =>
    let old := wordOf ((s.core g).scratchRead off size)
    match amoNew k size old src expected with
    | some w => (s.scratchWrite g d off (bytesOf size w.toNat), .ok old)
    | none => (s, .ok old)
  | .tile idx _ off =>
    match s.tileAt g d idx e.va with
    | (s1, none) => (s1, .error ⟨.access, e.va.setWidth 64, 0⟩)
    | (s1, some t) =>
      let old := wordOf (s1.tileRead t off size)
      match amoNew k size old src expected with
      | none => (s1, .ok old)
      | some w =>
        match s1.tileWrite d t off (bytesOf size w.toNat) with
        | some s2 => (s2, .ok old)
        | none => (s1, .error ⟨.allocfail, e.va.setWidth 64, 0⟩)
  | _ => (s, .ok 0)

/-- The first poisoned tile element of an access performed by its instruction (R180, R231). -/
def State.poisonVia (s : State) (g : CoreId) (v : Via) (size : Nat) (es : List Elem) : State × Option VA :=
  if s.poison.isEmpty || v.flies then (s, none) else s.poisonedTile g v.dom size es

/-! ## Issue of the scalar atomics -/

/-- An access of one element for an atomic, LR or SC. -/
def atomOp (f : FmtM) (sl : Slot) (isStore : Bool) (acc : Acc) : MemOp :=
  { contigOp f sl isStore [⟨0, sl.memVa f 0⟩] with acc := acc }

/-- An atomic, LR or SC ends here: its result is written, an acquire takes effect, an atomic at quad scope or wider drops every clean
entry (R210), and it is counted no more. -/
def State.endAtomic (s : State) (g : CoreId) (v : Via) (ord : MOrd) (sc : Scope) (drops : Bool) (dest : LoadDest) (w : Option Word) : State :=
  let vals := match w with
    | some w => [(0, w)]
    | none => []
  match v with
  | .now i _ | .late i _ =>
    let s1 := s.modSlot g i (fun sl => sl.putLoad 8 dest vals)
    let s2 := if ord.isAcq then s1.acquireAt g (some i) sc else if drops && sc.wide then s1.acquireDrop g else s1
    s2.pcNext g i
  | .held p =>
    let s1 := if p.isStore then s.finishStore g p else s.finishLoad g { p with size := 8, dest := dest, vals := vals }
    if p.isStore && ord.isAcq then s1.acquireAt g ((s1.core g).slotOf p.act) sc else if drops && sc.wide then s1.acquireDrop g else s1

/-- The extension that a load's destination carries. -/
def LoadDest.sext (d : LoadDest) : Bool :=
  match d with
  | .x _ e => e
  | _ => false

/-- A scalar atomic that has passed its checks (R244, R245). -/
def State.goAmo (s : State) (g : CoreId) (v : Via) (m : MemOp) (dest : LoadDest) (k : AmoKind) (src expected : Word) (es : List Elem) :
    State :=
  let d := v.dom
  match s.poisonVia g v m.size es with
  | (s, some va) => s.trapVia g v ⟨.poison, va.setWidth 64, 0⟩
  | (s, none) =>
    match s.badAtomic m.size (fabricCarries k m.size) es with
    | some t => s.trapVia g v t
    | none =>
      match es with
      | [] => s.endStore g v
      | e :: _ =>
        if v.flies || !e.loc.near then s.flyPoint g v m (.amo k src expected) dest es
        else
          match s.amoHere g d m.size k src expected e with
          | (s1, .error t) => s1.trapVia g v t
          | (s1, .ok old) => s1.endAtomic g v m.ord m.scope true dest (some (extLoad m.size dest.sext old))

/-- A scalar atomic (R244, R245). -/
def amoOp (f : FmtM) (s : State) (k : AmoKind) : Host.Outcome State Fault Refusal :=
  guardedM f s [] (fun g i sl =>
    let size := mSize f
    let m := atomOp f sl (f.data == .x 0) .both
    let src := sl.src f.aux (if k = .fadd then floatTy size else plainTy size)
    let expected := sl.src f.data (plainTy size)
    let dest := xDest f.data (f.len == 1)
    s.issue g i m (.amo k src expected) dest (fun s late es => s.goAmo g (.of late i sl) m dest k src expected es))

/-- AMOADD (R244). -/
def execAmoadd (f : FmtM) (s : State) : Host.Outcome State Fault Refusal := amoOp f s .add
/-- AMOAND (R244). -/
def execAmoand (f : FmtM) (s : State) : Host.Outcome State Fault Refusal := amoOp f s .and
/-- AMOOR (R244). -/
def execAmoor (f : FmtM) (s : State) : Host.Outcome State Fault Refusal := amoOp f s .or
/-- AMOXOR (R244). -/
def execAmoxor (f : FmtM) (s : State) : Host.Outcome State Fault Refusal := amoOp f s .xor
/-- AMOMIN (R244). -/
def execAmomin (f : FmtM) (s : State) : Host.Outcome State Fault Refusal := amoOp f s .min
/-- AMOMAX (R244). -/
def execAmomax (f : FmtM) (s : State) : Host.Outcome State Fault Refusal := amoOp f s .max
/-- AMOMINN (R244). -/
def execAmominn (f : FmtM) (s : State) : Host.Outcome State Fault Refusal := amoOp f s .minn
/-- AMOMAXN (R244). -/
def execAmomaxn (f : FmtM) (s : State) : Host.Outcome State Fault Refusal := amoOp f s .maxn
/-- AMOSWP (R244). -/
def execAmoswp (f : FmtM) (s : State) : Host.Outcome State Fault Refusal := amoOp f s .swp
/-- AMOCAS (R244). -/
def execAmocas (f : FmtM) (s : State) : Host.Outcome State Fault Refusal := amoOp f s .cas
/-- AMOFADD (R244). -/
def execAmofadd (f : FmtM) (s : State) : Host.Outcome State Fault Refusal := amoOp f s .fadd

/-! ## LR and SC (R246, R247) -/

/-- The home slice at which a reservation is held. -/
def State.resvHome (s : State) (g : CoreId) (d : Dom) (e : Elem) : State × Option (DieId × Fin 16) :=
  match e.loc with
  | .scratch _ | .unplaced => (s, none)
  | .mem pa _ _ => (s, some (if isFabric pa then g.die else dieOf pa, homeSlice pa))
  | .tile idx t _ =>
    match s.tileAt g d idx e.va with
    | (s1, some r) => (s1, some (r.region.home, tileSlice idx.toNat t))
    | (s1, none) => (s1, none)

/-- The table of a home slice is full (R247). -/
def State.resvFull (s : State) (h : Option (DieId × Fin 16)) : Bool :=
  h.isSome && decide (512 ≤ (s.resv.filter (fun r => r.home == h)).length)

/-- A reservation is placed, in place of the slot's earlier one (R246). -/
def State.reserve (s : State) (g : CoreId) (i : SlotId) (d : Dom) (size : Nat) (e : Elem) (h : Option (DieId × Fin 16)) : State :=
  let s1 := s.dropReservation g i
  { s1 with resv := s1.resv ++ [⟨g, i, d, e.va, size, e.loc, s1.cycle, h⟩] }

/-- The slot holds a reservation on exactly an element (R246). -/
def State.reserved (s : State) (g : CoreId) (i : SlotId) (d : Dom) (size : Nat) (e : Elem) : Bool :=
  s.resv.any (fun r => r.g == g && r.slot == i && r.dom == d && r.va == e.va && r.size == size && r.loc == e.loc)

/-- An LR or SC of the activation is in flight: a later one of its own follows it, so that each meets the reservation that stands at its
place in program order (R246, R248; log 74). -/
def Core.resvBusy (c : Core) (act : Nat) : Bool :=
  c.pend.any (fun p => p.act == act && (match p.kind with
    | .cp .lr | .cp (.sc _) | .held .lr _ | .held (.sc _) _ => true
    | _ => false))

/-- An LR that has passed its checks: its read and its reservation are one event at the coherence point, for scratch and for a tile at
whose slice there is room by its instruction (R246, R247). -/
def State.goLr (s : State) (g : CoreId) (v : Via) (slot : SlotId) (m : MemOp) (dest : LoadDest) (es : List Elem) : State :=
  let d := v.dom
  match s.poisonVia g v m.size es with
  | (s, some va) => s.trapVia g v ⟨.poison, va.setWidth 64, 0⟩
  | (s, none) =>
    match s.badAtomic m.size false es with
    | some t => s.trapVia g v t
    | none =>
      match es with
      | [] => s.endStore g v
      | e :: _ =>
        if v.flies || !e.loc.near then s.flyPoint g v m .lr dest es
        else
          match s.resvHome g d e with
          | (s1, h) =>
            if (s1.dropReservation g slot).resvFull h then s1.flyPoint g v m .lr dest es
            else
              match s1.readHere g d m.size e with
              | (s2, some w) =>
                (s2.reserve g slot d m.size e h).endAtomic g v m.ord m.scope false dest (some (extLoad m.size dest.sext w.1))
              | (s2, none) => s2.trapVia g v ⟨.access, e.va.setWidth 64, 0⟩

/-- LR (R246): its read and its reservation are one event at the coherence point. -/
def execLr (f : FmtM) (s : State) : Host.Outcome State Fault Refusal :=
  guardedM f s [] (fun g i sl =>
    let m := atomOp f sl false .read
    let dest := xDest f.data (f.len == 1)
    if (s.core g).resvBusy sl.task.act then s
    else s.issue g i m .lr dest (fun s late es => s.goLr g (.of late i sl) i m dest es))

/-- SC on scratch or a tile: its status, or the trap. -/
def State.scHere (s : State) (g : CoreId) (i : SlotId) (d : Dom) (size : Nat) (val : Word) (e : Elem) : State × Except Trap Word :=
  let ok := s.reserved g i d size e
  let s1 := s.dropReservation g i
  if !ok then (s1, .ok 1)
  else
    match e.loc with
    | .scratch off => (s1.scratchWrite g d off (bytesOf size val.toNat), .ok 0)
    | .tile idx _ off =>
      match s1.tileAt g d idx e.va with
      | (s2, none) => (s2, .error ⟨.access, e.va.setWidth 64, 0⟩)
      | (s2, some t) =>
        match s2.tileWrite d t off (bytesOf size val.toNat) with
        | some s3 => (s3, .ok 0)
        | none => (s2, .error ⟨.allocfail, e.va.setWidth 64, 0⟩)
    | _ => (s1, .ok 1)

/-- An SC that has passed its checks (R246). -/
def State.goSc (s : State) (g : CoreId) (v : Via) (slot : SlotId) (m : MemOp) (dest : LoadDest) (val : Word) (es : List Elem) : State :=
  let d := v.dom
  match s.poisonVia g v m.size es with
  | (s, some va) => s.trapVia g v ⟨.poison, va.setWidth 64, 0⟩
  | (s, none) =>
    match s.badAtomic m.size false es with
    | some t => s.trapVia g v t
    | none =>
      match es with
      | [] => s.endStore g v
      | e :: _ =>
        if v.flies || !e.loc.near then s.flyPoint g v m (.sc val) dest es
        else
          match s.scHere g slot d m.size val e with
          | (s1, .error t) => s1.trapVia g v t
          | (s1, .ok w) => s1.endAtomic g v m.ord m.scope true dest (some w)

/-- SC (R246). -/
def execSc (f : FmtM) (s : State) : Host.Outcome State Fault Refusal :=
  guardedM f s [] (fun g i sl =>
    let m := atomOp f sl false .write
    let val := sl.src f.aux (plainTy (mSize f))
    let dest := xDest f.data false
    if (s.core g).resvBusy sl.task.act then s
    else s.issue g i m (.sc val) dest (fun s late es => s.goSc g (.of late i sl) i m dest val es))

/-! ## Vector atomics (R249) -/

/-- Scratch and tile elements in turn, the first trap ending them. -/
def State.vamoHere (s : State) (g : CoreId) (d : Dom) (size : Nat) (k : AmoKind) (src : Nat → Word) : List Elem → State × Option Trap
  | [] => (s, none)
  | e :: l =>
    match s.amoHere g d size k (src e.j) 0 e with
    | (s1, .error t) => (s1, some t)
    | (s1, .ok _) => s1.vamoHere g d size k src l

/-- A vector atomic that has passed its checks: tiles one after another, each in a turn of its own, scratch, then memory; or all of it in
flight where it is performed later (R249, R351). -/
def State.goVamo (s : State) (g : CoreId) (v : Via) (m : MemOp) (k : AmoKind) (src : Nat → Word) (es : List Elem) : State :=
  let sp := splitTile es
  let fly := fun (s : State) (l : List Elem) => s.flyPoint g v m (.vamo (k == .fadd) (l.map (fun e => src e.j))) .discard l
  match s.poisonVia g v m.size es with
  | (s, some va) => s.trapVia g v ⟨.poison, va.setWidth 64, 0⟩
  | (s, none) =>
    match s.badAtomic m.size (fabricCarries k m.size) es with
    | some t => s.trapVia g v t
    | none =>
      match v with
      | .now i sl =>
        if s.tilesWait g sl sp.2.1 then s
        else
          (match sp.2.1 with
          | x :: l =>
            (match s.vamoHere g sl.dom m.size k src sp.1 with
            | (s1, some t) => s1.trapVia g v t
            | (s1, none) => s1.setTile g i ⟨x :: l ++ sp.2.2, [], []⟩)
          | [] =>
            match s.vamoHere g sl.dom m.size k src (es.filter (fun e => e.loc.near)) with
            | (s1, some t) => s1.trapVia g v t
            | (s1, none) =>
              let s2 := s1.overVia g v
              let far := es.filter (fun e => !e.loc.near)
              if far.isEmpty then s2.endStore g v else fly s2 far)
      | _ => if es.isEmpty then s.endStore g v else fly s es

/-- VAMOADD and VAMOFADD. -/
def vamoOp (f : FmtM) (s : State) (k : AmoKind) : Host.Outcome State Fault Refusal :=
  runCore s (mRegs f) (fun g i sl =>
    let m := { vecScatter f sl true (gatherVa f sl) with acc := .both }
    let src := fun j => elemOf (sl.readV (vIndex f.data)) (mSize f) j
    s.issue g i m (.vamo k (m.spots.map (fun x => src x.j))) .discard (fun s late es => s.goVamo g (.of late i sl) m k src es))

/-- VAMOADD (R249). -/
def execVamoadd (f : FmtM) (s : State) : Host.Outcome State Fault Refusal := vamoOp f s .add
/-- VAMOFADD (R249). -/
def execVamofadd (f : FmtM) (s : State) : Host.Outcome State Fault Refusal := vamoOp f s .fadd

/-! ## FENCE (R216, R250) -/

/-- Loads that happen before what an activation does next are performed, the reads of atomics that return nothing too (R216). -/
def Core.loadsDone (c : Core) (act mark : Nat) : Bool :=
  !c.pend.any (fun p => p.precedes act mark && (!p.isStore || (match p.kind with
    | .cp (.amo ..) | .cp (.vamo ..) | .held (.amo ..) _ | .held (.vamo ..) _ => true
    | _ => false)))

/-- Bytes that a COPY, COPY2 or XCOPY copies (R267, R268, R272). -/
def copyTotal (t : Tcw) : Nat :=
  if t.op.toNat = 2 then ((t.w0.extractLsb' 16 16).toNat + 1) * ((t.w0.extractLsb' 0 16).toNat + 1) else (t.w3.extractLsb' 0 32).toNat

/-- A GSUM has read an entry whose segment is lower than that of the run before it, and reads no more (R279). -/
def Cmd.sumFalls (m : Cmd) : Bool := numOf ((m.buf.drop 8).take 1) == 1 && decide (numOf ((m.buf.drop 13).take 4) < numOf (m.buf.take 4))

/-- The command still has memory to read: a copy until it holds every byte, an MMA until its last K-block and the atomic add of its skip
count, a GSUM until its last entry's row, an ordered ACCUM until its contributions are sent (R216). -/
def Cmd.readsLeft (m : Cmd) : Bool :=
  match m.st, m.tcw.op.toNat with
  | .done .., _ => false
  | _, 1 | _, 2 | _, 5 => decide (m.progress + m.buf.length < copyTotal m.tcw)
  | _, 34 => decide (m.progress ≤ (m.tcw.w3.extractLsb' 48 16).toNat) && !m.sumFalls
  | st, 4 => !m.tcw.w0.getLsbD 29 || (st != .issued && decide (m.sent + m.buf.length < (m.tcw.w3.extractLsb' 0 32).toNat))
  | _, 16 => decide (m.progress ≤ (m.tcw.w0.extractLsb' 0 7).toNat) || m.tcw.w3.extractLsb' 0 48 != 0
  | _, 3 | _, 18 | _, 19 | _, 20 | _, 63 => false
  | _, _ => true

/-- The command still has memory to write: an MLDA, MRSTR, MZERO and SIGNAL never do, an MMA only its skip count (R216). -/
def Cmd.writesLeft (m : Cmd) : Bool :=
  match m.st, m.tcw.op.toNat with
  | .done .., _ => false
  | _, 16 => m.tcw.w3.extractLsb' 0 48 != 0
  | _, 17 | _, 19 | _, 21 | _, 63 => false
  | _, _ => true

/-- Commands of a queue that an activation enqueued have performed their accesses of the kinds asked for (R216). -/
def Core.engineDone (c : Core) (act : Nat) (q : QueueId) (rd wr : Bool) : Bool :=
  !c.queues[q].any (fun m => m.act == act && ((rd && m.readsLeft) || (wr && m.writesLeft)))

/-- FENCE: waits for its predecessors, and drops clean entries where R follows at quad scope or wider (R213, R216). -/
def execFence (f : FmtF) (s : State) : Host.Outcome State Fault Refusal :=
  runCore s [] (fun g i sl =>
    let c := s.core g
    let act := sl.task.act
    let has := fun (m : BitVec 8) n => m.getLsbD n
    let engines := f.sm.extractLsb' 0 6 != 0
    let loads := has f.pm 7 && (f.scope != .slot || engines) && !c.loadsDone act sl.acq
    let stores := has f.pm 6 && (f.scope.wide || engines) && !c.released act sl.acq (f.scope == .pod)
    let cp := !c.engineDone act 0 (has f.pm 5) (has f.pm 4)
    let mx := !c.engineDone act 1 (has f.pm 3) (has f.pm 2)
    let gx := !c.engineDone act 2 (has f.pm 1) (has f.pm 0)
    if loads || stores || cp || mx || gx then s
    else (if has f.sm 7 then s.acquireAt g (some i) f.scope else s.acquireMark g i f.scope).pcNext g i)

/-! ## At the coherence point or target (R205, R232) -/

/-- Nodes that elements reach under MT 11: a die of the device, or one of the fabric. -/
def ioNodes (es : List Elem) : List (BitVec 10 × Bool) :=
  es.filterMap (fun e => match e.loc with
    | .mem pa mt _ => if mt = 3 then some (nodeOf pa, isFabric pa) else none
    | _ => none)

/-- No earlier access of the core is under way that a later one must follow: at a common byte, or of its slot at a common node under
MT 11 (R167, R208). -/
def State.pointReady (s : State) (g : CoreId) (p : Pend) : Bool :=
  let before := (s.core g).pend.takeWhile (fun q => q.id != p.id)
  let io := ioNodes p.elems
  let near := p.places.filter (fun x => x.1.near)
  !before.any (fun q => !q.isFlush &&
    (runsMeet p.runs q.runs || placesMeet p.dom near q.dom q.places || (q.slot == p.slot && (ioNodes q.elems).any (fun n => io.contains n))))

/-- After an access at the coherence point, the core's clean bytes of it go (R208). -/
def State.afterPoint (s : State) (g : CoreId) (d : Dom) (e : Elem) (size : Nat) : State :=
  match e.loc with
  | .mem pa _ _ => (s.dropOwnClean g d ⟨pa, size⟩).hideFills g ⟨pa, size⟩
  | _ => s

/-- Host memory that the die's visitor slice must hold in E or M for the access (R245, R247). -/
def Loc.needsOwn (l : Loc) (own : Bool) : Bool := own && l.hosted

/-- One atomic event on an element: its old value, or the trap. -/
def State.amoPoint (s : State) (g : CoreId) (d : Dom) (size : Nat) (k : AmoKind) (src expected : Word) (e : Elem) :
    State × Except Trap Word :=
  match e.loc with
  | .mem pa _ _ =>
    let old := wordOf (s.cohRead pa size)
    let s1 := match amoNew k size old src expected with
      | some w => s.pointWrite g.die d e.loc size w (e.loc.needsOwn (!fabricCarries k size))
      | none => s
    (s1.afterPoint g d e size, .ok old)
  | _ => s.amoHere g d size k src expected e

/-- The trap of an element whose tile is found no more: its region is the domain's no longer. -/
def Elem.lostTile (e : Elem) : Trap := ⟨.access, e.va.setWidth 64, 0⟩

/-- Elements of a load read at their coherence points or targets: their values, and those that were absent. -/
def State.readPoints (s : State) (g : CoreId) (d : Dom) (size : Nat) : List Elem → State × Except Trap (List (Nat × Word) × List Nat)
  | [] => (s, .ok ([], []))
  | e :: l =>
    match (match e.loc with
      | .mem pa _ _ => (s.afterPoint g d e size, some (wordOf (s.cohRead pa size), true))
      | _ => s.readHere g d size e) with
    | (s1, none) => (s1, .error e.lostTile)
    | (s1, some (w, present)) =>
      match s1.readPoints g d size l with
      | (s2, .ok (vs, absent)) => (s2, .ok ((e.j, w) :: vs, if present then absent else e.j :: absent))
      | r => r

/-- Elements of a store performed at their coherence points or targets, each with its value. -/
def State.writePoints (s : State) (g : CoreId) (d : Dom) (size : Nat) (w : Nat → Word) : List Elem → State × Option Trap
  | [] => (s, none)
  | e :: l =>
    match e.loc with
    | .mem pa _ _ => ((s.storeFrom g.die d pa (bytesOf size (w e.j).toNat)).afterPoint g d e size).writePoints g d size w l
    | .scratch off => (s.scratchWrite g d off (bytesOf size (w e.j).toNat)).writePoints g d size w l
    | .tile .. =>
      (match s.storeTiles g d (fun j => bytesOf size (w j).toNat) [e] with
      | (s1, none) => s1.writePoints g d size w l
      | (s1, some va) => (s1, some ⟨.allocfail, va.setWidth 64, 0⟩))
    | .unplaced => s.writePoints g d size w l

/-- Elements of a vector atomic, in ascending order. -/
def State.vamoPoints (s : State) (g : CoreId) (d : Dom) (size : Nat) (k : AmoKind) (w : Nat → Word) : List Elem → State × Option Trap
  | [] => (s, none)
  | e :: l =>
    match s.amoPoint g d size k (w e.j) 0 e with
    | (s1, .ok _) => s1.vamoPoints g d size k w l
    | (s1, .error t) => (s1, some t)

/-- The access in flight is an atomic or SC. -/
def Pend.isAtomic (p : Pend) : Bool :=
  match p.kind with
  | .cp (.amo ..) | .cp (.vamo ..) | .cp (.sc _) => true
  | _ => false

/-- The bytes of cached memory of an access whose other places are performed go to the L1 (R230). -/
def State.restGo (s : State) (g : CoreId) (p : Pend) : State :=
  (s.setPend g { p with
    kind := if p.isStore then .waitStore (storeData p.size p.rest) else .waitLoad
    elems := p.rest.map (fun x => x.1)
    rest := [] }).tryPend g p.id

/-- An access in flight that has nothing more at a coherence point or target: it goes on at the L1, or ends. Its counter falls, an acquire
takes effect (R232), and an atomic or SC at quad scope or wider drops every clean entry, whatever its order (R210). -/
def State.finishPoint (s : State) (g : CoreId) (p : Pend) : State :=
  if !p.rest.isEmpty then s.restGo g p
  else
    let s1 := if p.isStore then s.finishStore g p else s.finishLoad g p
    let s2 := if p.isStore && p.ord.isAcq then s1.acquireAt g ((s1.core g).slotOf p.act) p.scope else s1
    if p.isAtomic && p.scope.wide && !p.ord.isAcq then s2.acquireDrop g else s2

/-- An access performed beyond the device waits for the acknowledgement that lowers its counts (R224, R245, R344). -/
def State.posted (s : State) (g : CoreId) (p : Pend) : State :=
  if p.isStore && p.elems.any (fun e => e.loc.remote) then
    s.send [.posted g p.id p.lid]
  else s.finishPoint g p

/-- Poison ends the access: a store is performed all the same, and clears or leaves the poison of its sectors, and existence has none (R180,
R231). -/
def CpOp.meetsPoison (op : CpOp) : Bool :=
  match op with
  | .write _ | .tidw _ | .xtest | .erase => false
  | _ => true

/-- The poison that an access meets in memory at its coherence point: the VA of the first element. -/
def State.pointPoison (s : State) (p : Pend) : Option VA :=
  match p.kind with
  | .cp op =>
    if s.poison.isEmpty || !op.meetsPoison then none
    else (p.elems.find? (fun e => match e.loc with
      | .mem pa _ _ => s.poisonedAt pa p.size
      | _ => false)).map (fun e => e.va)
  | _ => none

/-- A poisoned access ends with POISON and writes nothing (R231). -/
def State.pointTrap (s : State) (g : CoreId) (p : Pend) (va : VA) : State := s.pendTrap g p ⟨.poison, va.setWidth 64, 0⟩

/-- The slot still runs the task that issued an access. -/
def State.pendSlot (s : State) (g : CoreId) (p : Pend) : Bool := (s.core g).slotOf p.act == some p.slot

/-- An LR at its coherence point: the value read, with the reservation placed for the slot whose task issued it; none where its tile is
found no more. -/
def State.lrPoint (s : State) (g : CoreId) (p : Pend) (e : Elem) (h : Option (DieId × Fin 16)) : State × Option Word :=
  match (match e.loc with
    | .mem pa _ _ => (s.afterPoint g p.dom e p.size, some (wordOf (s.cohRead pa p.size)))
    | _ => (match s.readHere g p.dom p.size e with
      | (s1, r) => (s1, r.map (fun x => x.1)))) with
  | (s1, none) => (s1, none)
  | (s1, some w) => (if s1.pendSlot g p then s1.reserve g p.slot p.dom p.size e h else s1, some w)

/-- An SC at its coherence point: the test and the store are one event (R246). -/
def State.scPoint (s : State) (g : CoreId) (p : Pend) (val : Word) (e : Elem) : State × Except Trap Word :=
  let mine := s.pendSlot g p
  match e.loc with
  | .mem .. =>
    if mine && s.reserved g p.slot p.dom p.size e then
      let s1 := (s.dropReservation g p.slot).pointWrite g.die p.dom e.loc p.size val (e.loc.needsOwn true)
      (s1.afterPoint g p.dom e p.size, .ok 0)
    else ((if mine then s.dropReservation g p.slot else s).afterPoint g p.dom e p.size, .ok 1)
  | _ => if mine then s.scHere g p.slot p.dom p.size val e else (s, .ok 1)

/-- The value of element j among those that the access carries, one for each element. -/
def Pend.carried (p : Pend) (data : List Word) (j : Nat) : Word :=
  (((p.elems.zip data).find? (fun x => x.1.j == j)).map (fun x => x.2)).getD 0

end Sys2Proof.Machine
end

