-- ==== Sys2Proof/Machine/Scalar.lean ====
section
/-! DEFINITION. Scalar integer arithmetic, immediates, bits and predicates: rows 0x1 to 0x3 (R129 to R132). -/

namespace Sys2Proof.Machine

/-- A scalar R-format instruction: under its guard it changes its slot's registers by `body`. -/
def scalarR (f : FmtR) (s : State) (body : Slot → Slot) : Host.Outcome State Fault Refusal :=
  runSlot s (rRegs f) (fun sl => .done (if sl.guard f.pn f.pred then body sl else sl))

/-- An operand as an integer of the instruction's type. -/
def Slot.intSrc (sl : Slot) (sp : Spec) (t : Ty) : Int := intOf t (sl.src sp t)

/-- A two-operand integer instruction: the exact result, wrapped or clamped (R129). -/
def intOp2 (f : FmtR) (s : State) (op : Int → Int → Int) : Host.Outcome State Fault Refusal :=
  scalarR f s (fun sl => sl.wr f.dst f.ty (wrapInt f.ty f.sat (op (sl.intSrc f.sa f.ty) (sl.intSrc f.sb f.ty))))

/-- A two-operand instruction on w-bit patterns. -/
def bitOp2 (f : FmtR) (s : State) (op : Word → Word → Word) : Host.Outcome State Fault Refusal :=
  scalarR f s (fun sl => sl.wr f.dst f.ty (lowBits f.ty (op (sl.src f.sa f.ty) (sl.src f.sb f.ty))))

/-- A shift or rotation of the w-bit pattern of a by the count b mod w (R129, R131). -/
def shiftOp (f : FmtR) (s : State) (op : Word → Nat → Word) : Host.Outcome State Fault Refusal :=
  scalarR f s (fun sl =>
    sl.wr f.dst f.ty (op (sl.src f.sa f.ty) (sl.srcCount f.sb f.ty % (f.ty.width : Int)).toNat))

/-- A one-operand instruction on the w-bit pattern. -/
def bitOp1 (f : FmtR) (s : State) (op : Word → Word) : Host.Outcome State Fault Refusal :=
  scalarR f s (fun sl => sl.wr f.dst f.ty (op (sl.src f.sa f.ty)))

/-- A comparison writes 1 or 0 into the whole register (R129). -/
def cmpOp (f : FmtR) (s : State) (op : Int → Int → Bool) : Host.Outcome State Fault Refusal :=
  scalarR f s (fun sl => sl.wrW f.dst (if op (sl.intSrc f.sa f.ty) (sl.intSrc f.sb f.ty) then 1 else 0))

/-- Div(a, b) (R129). -/
def divInt (t : Ty) (a b : Int) : Int :=
  if b = 0 then ((2 ^ t.width : Nat) : Int) - 1
  else if t.isS && a == minInt t && b == -1 then minInt t
  else a.tdiv b

/-- Rem(a, b) (R129). -/
def remInt (t : Ty) (a b : Int) : Int :=
  if b = 0 then a
  else if t.isS && a == minInt t && b == -1 then 0
  else a - b * a.tdiv b

/-- floor(a * b / 2^w). -/
def highInt (t : Ty) (a b : Int) : Int := a * b / ((2 ^ t.width : Nat) : Int)

/-- A w-bit pattern shifted left. -/
def shlPat (t : Ty) (a : Word) (n : Nat) : Word := lowBits t (BitVec.ofNat 64 (a.toNat * 2 ^ n))
/-- A w-bit pattern shifted right logically. -/
def shrPat (a : Word) (n : Nat) : Word := BitVec.ofNat 64 (a.toNat / 2 ^ n)
/-- A w-bit pattern shifted right, filling with bit w - 1. -/
def sraPat (t : Ty) (a : Word) (n : Nat) : Word :=
  let m := a.toNat % 2 ^ t.width
  let i : Int := if signBit t a then (m : Int) - ((2 ^ t.width : Nat) : Int) else (m : Int)
  patOf t (i / ((2 ^ n : Nat) : Int))

/-- ADD (R129). -/
def execAdd (f : FmtR) (s : State) : Host.Outcome State Fault Refusal := intOp2 f s (fun a b => a + b)
/-- SUB (R129). -/
def execSub (f : FmtR) (s : State) : Host.Outcome State Fault Refusal := intOp2 f s (fun a b => a - b)
/-- MUL (R129). -/
def execMul (f : FmtR) (s : State) : Host.Outcome State Fault Refusal := intOp2 f s (fun a b => a * b)
/-- MULH (R129). -/
def execMulh (f : FmtR) (s : State) : Host.Outcome State Fault Refusal := intOp2 f s (highInt f.ty)
/-- MULHN (R129). -/
def execMulhn (f : FmtR) (s : State) : Host.Outcome State Fault Refusal := intOp2 f s (highInt f.ty)
/-- DIV (R129). -/
def execDiv (f : FmtR) (s : State) : Host.Outcome State Fault Refusal := intOp2 f s (divInt f.ty)
/-- DIVN (R129). -/
def execDivn (f : FmtR) (s : State) : Host.Outcome State Fault Refusal := intOp2 f s (divInt f.ty)
/-- REM (R129). -/
def execRem (f : FmtR) (s : State) : Host.Outcome State Fault Refusal := intOp2 f s (remInt f.ty)
/-- REMN (R129). -/
def execRemn (f : FmtR) (s : State) : Host.Outcome State Fault Refusal := intOp2 f s (remInt f.ty)
/-- AND (R129). -/
def execAndR (f : FmtR) (s : State) : Host.Outcome State Fault Refusal := bitOp2 f s (fun a b => a &&& b)
/-- OR (R129). -/
def execOrR (f : FmtR) (s : State) : Host.Outcome State Fault Refusal := bitOp2 f s (fun a b => a ||| b)
/-- XOR (R129). -/
def execXorR (f : FmtR) (s : State) : Host.Outcome State Fault Refusal := bitOp2 f s (fun a b => a ^^^ b)
/-- SHL (R129). -/
def execShl (f : FmtR) (s : State) : Host.Outcome State Fault Refusal := shiftOp f s (shlPat f.ty)
/-- SHR (R129). -/
def execShr (f : FmtR) (s : State) : Host.Outcome State Fault Refusal := shiftOp f s shrPat
/-- SRA (R129). -/
def execSra (f : FmtR) (s : State) : Host.Outcome State Fault Refusal := shiftOp f s (sraPat f.ty)
/-- SLT (R129). -/
def execSlt (f : FmtR) (s : State) : Host.Outcome State Fault Refusal := cmpOp f s (fun a b => decide (a < b))
/-- SLTN (R129). -/
def execSltn (f : FmtR) (s : State) : Host.Outcome State Fault Refusal := cmpOp f s (fun a b => decide (a < b))
/-- MIN (R129). -/
def execMin (f : FmtR) (s : State) : Host.Outcome State Fault Refusal := intOp2 f s (fun a b => if a < b then a else b)
/-- MAX (R129). -/
def execMax (f : FmtR) (s : State) : Host.Outcome State Fault Refusal := intOp2 f s (fun a b => if a < b then b else a)
/-- MINN (R129). -/
def execMinn (f : FmtR) (s : State) : Host.Outcome State Fault Refusal := intOp2 f s (fun a b => if a < b then a else b)
/-- MAXN (R129). -/
def execMaxn (f : FmtR) (s : State) : Host.Outcome State Fault Refusal := intOp2 f s (fun a b => if a < b then b else a)

/-! ## Immediates (R130) -/

/-- IMM32 sign-extended. -/
def immS (f : FmtI) : Word := f.imm.signExtend 64

/-- An I-format instruction: under its guard, DST := op of its source. -/
def immOp (f : FmtI) (s : State) (op : Slot → Word) : Host.Outcome State Fault Refusal :=
  runSlot s (.p f.pred :: specRegs [f.dst, f.sa]) (fun sl => .done (if sl.guard f.pn f.pred then sl.wrW f.dst (op sl) else sl))

/-- ADDI (R130). -/
def execAddi (f : FmtI) (s : State) : Host.Outcome State Fault Refusal := immOp f s (fun sl => sl.srcW f.sa + immS f)
/-- ANDI (R130). -/
def execAndi (f : FmtI) (s : State) : Host.Outcome State Fault Refusal := immOp f s (fun sl => sl.srcW f.sa &&& immS f)
/-- ORI (R130). -/
def execOri (f : FmtI) (s : State) : Host.Outcome State Fault Refusal := immOp f s (fun sl => sl.srcW f.sa ||| immS f)
/-- XORI (R130). -/
def execXori (f : FmtI) (s : State) : Host.Outcome State Fault Refusal := immOp f s (fun sl => sl.srcW f.sa ^^^ immS f)
/-- SHLI (R130). -/
def execShli (f : FmtI) (s : State) : Host.Outcome State Fault Refusal := immOp f s (fun sl => sl.srcW f.sa <<< f.imm.toNat)
/-- SHRI (R130). -/
def execShri (f : FmtI) (s : State) : Host.Outcome State Fault Refusal := immOp f s (fun sl => sl.srcW f.sa >>> f.imm.toNat)
/-- SRAI (R130). -/
def execSrai (f : FmtI) (s : State) : Host.Outcome State Fault Refusal :=
  immOp f s (fun sl => (sl.srcW f.sa).sshiftRight f.imm.toNat)
/-- SLTI (R130). -/
def execSlti (f : FmtI) (s : State) : Host.Outcome State Fault Refusal :=
  immOp f s (fun sl => if (sl.srcW f.sa).slt (immS f) then 1 else 0)
/-- LI (R130). -/
def execLi (f : FmtI) (s : State) : Host.Outcome State Fault Refusal := immOp f s (fun _ => immS f)
/-- LIH: bits 63:32 := IMM32, bits 31:0 kept (R130). -/
def execLih (f : FmtI) (s : State) : Host.Outcome State Fault Refusal :=
  immOp f s (fun sl => f.imm ++ (sl.srcW f.dst).extractLsb' 0 32)
/-- ADPC: (PC + s) mod 2^48 (R130). -/
def execAdpc (f : FmtI) (s : State) : Host.Outcome State Fault Refusal :=
  immOp f s (fun sl => (sl.pc + f.imm.signExtend 48).setWidth 64)

/-! ## Bits (R131) -/

/-- Set bits among the low n bits. -/
def popCount (x : Nat) : Nat → Nat
  | 0 => 0
  | n + 1 => popCount x n + x / 2 ^ n % 2

/-- Leading zero bits of a w-bit pattern. -/
def clzOf (t : Ty) (a : Word) : Word :=
  let n := a.toNat % 2 ^ t.width
  BitVec.ofNat 64 (if n = 0 then t.width else t.width - 1 - n.log2)

/-- Trailing zero bits among the low n bits from bit i upward. -/
def ctzFrom (x : Nat) : Nat → Nat → Nat
  | 0, _ => 0
  | n + 1, i => if x / 2 ^ i % 2 = 1 then 0 else ctzFrom x n (i + 1) + 1

/-- The bits of a pattern in reverse order, in groups of b bits, n groups. -/
def reverseGroups (b n x : Nat) : Nat := packFields b (fun i => x / 2 ^ (b * (n - 1 - i))) n

/-- A field of L bits at pos, replaced (INS). -/
def insertField (t : Ty) (old a : Word) (pos len : Nat) : Word :=
  lowBits t (BitVec.ofNat 64
    (old.toNat % 2 ^ pos + (a.toNat % 2 ^ len) * 2 ^ pos + old.toNat / 2 ^ (pos + len) * 2 ^ (pos + len)))

/-- A field of L bits at pos, extended by the type's signedness (EXTR). -/
def extractField (t : Ty) (a : Word) (pos len : Nat) : Word :=
  let x := a.toNat / 2 ^ pos % 2 ^ len
  if t.isS && x / 2 ^ (len - 1) % 2 == 1 then patOf t ((x : Int) - ((2 ^ len : Nat) : Int)) else BitVec.ofNat 64 x

/-- The position of a field: Src(SB) mod w (R131). -/
def fieldPos (f : FmtR) (sl : Slot) : Nat := (sl.srcCount f.sb f.ty % (f.ty.width : Int)).toNat

/-- The length of a field: IMM12[5:0] + 1 (R131). -/
def fieldLen (f : FmtR) : Nat := f.imm.toNat % 64 + 1

/-- CLZ (R131). -/
def execClz (f : FmtR) (s : State) : Host.Outcome State Fault Refusal := bitOp1 f s (clzOf f.ty)
/-- CTZ (R131). -/
def execCtz (f : FmtR) (s : State) : Host.Outcome State Fault Refusal :=
  bitOp1 f s (fun a => BitVec.ofNat 64 (ctzFrom a.toNat f.ty.width 0))
/-- POPC (R131). -/
def execPopc (f : FmtR) (s : State) : Host.Outcome State Fault Refusal :=
  bitOp1 f s (fun a => BitVec.ofNat 64 (popCount a.toNat f.ty.width))
/-- BREV (R131). -/
def execBrev (f : FmtR) (s : State) : Host.Outcome State Fault Refusal :=
  bitOp1 f s (fun a => BitVec.ofNat 64 (reverseGroups 1 f.ty.width a.toNat))
/-- BSWAP (R131). -/
def execBswap (f : FmtR) (s : State) : Host.Outcome State Fault Refusal :=
  bitOp1 f s (fun a => BitVec.ofNat 64 (reverseGroups 8 f.ty.size a.toNat))
/-- EXTR (R131). -/
def execExtr (f : FmtR) (s : State) : Host.Outcome State Fault Refusal :=
  scalarR f s (fun sl => sl.wr f.dst f.ty (extractField f.ty (sl.src f.sa f.ty) (fieldPos f sl) (fieldLen f)))
/-- INS (R131). -/
def execIns (f : FmtR) (s : State) : Host.Outcome State Fault Refusal :=
  scalarR f s (fun sl =>
    sl.wr f.dst f.ty (insertField f.ty (sl.src f.dst f.ty) (sl.src f.sa f.ty) (fieldPos f sl) (fieldLen f)))
/-- ROL (R131). -/
def execRol (f : FmtR) (s : State) : Host.Outcome State Fault Refusal :=
  shiftOp f s (fun a n => shlPat f.ty a n ||| shrPat a (f.ty.width - n))
/-- ROR (R131). -/
def execRor (f : FmtR) (s : State) : Host.Outcome State Fault Refusal :=
  shiftOp f s (fun a n => shrPat a n ||| shlPat f.ty a (f.ty.width - n))
/-- CSEL (R131). -/
def execCsel (f : FmtR) (s : State) : Host.Outcome State Fault Refusal :=
  scalarR f s (fun sl =>
    sl.wr f.dst f.ty (if sl.src f.sc f.ty != 0 then sl.src f.sa f.ty else sl.src f.sb f.ty))

/-! ## Predicates (R132) -/

/-- The first predicate source, IMM12[2:0]. -/
def FmtR.pa (f : FmtR) : BitVec 3 := f.imm.extractLsb' 0 3
/-- The second predicate source, IMM12[5:3]. -/
def FmtR.pb (f : FmtR) : BitVec 3 := f.imm.extractLsb' 3 3

/-- A predicate instruction: all 32 bits, 0 in governed-off lanes (R132). -/
def predOp (f : FmtR) (s : State) (op : Slot → BitVec 32) : Host.Outcome State Fault Refusal :=
  runSlot s (rRegs f) (fun sl => .done (sl.wrP f.dst (sl.mask f.pn f.pred &&& op sl)))

/-- MOVP (R132). -/
def execMovp (f : FmtR) (s : State) : Host.Outcome State Fault Refusal :=
  scalarR f s (fun sl => sl.wrW f.dst ((sl.readP (FmtR.pa f)).setWidth 64))
/-- PMOV (R132). -/
def execPmov (f : FmtR) (s : State) : Host.Outcome State Fault Refusal :=
  predOp f s (fun sl => (sl.src f.sa .n32).setWidth 32)
/-- PAND (R132). -/
def execPand (f : FmtR) (s : State) : Host.Outcome State Fault Refusal :=
  predOp f s (fun sl => sl.readP (FmtR.pa f) &&& sl.readP (FmtR.pb f))
/-- POR (R132). -/
def execPor (f : FmtR) (s : State) : Host.Outcome State Fault Refusal :=
  predOp f s (fun sl => sl.readP (FmtR.pa f) ||| sl.readP (FmtR.pb f))
/-- PXOR (R132). -/
def execPxor (f : FmtR) (s : State) : Host.Outcome State Fault Refusal :=
  predOp f s (fun sl => sl.readP (FmtR.pa f) ^^^ sl.readP (FmtR.pb f))
/-- PNOT (R132). -/
def execPnot (f : FmtR) (s : State) : Host.Outcome State Fault Refusal :=
  predOp f s (fun sl => ~~~ sl.readP (FmtR.pa f))

end Sys2Proof.Machine
end

