-- ==== Sys2Proof/Machine/Float.lean ====
section
/-! DEFINITION. Scalar floating point, row 0x4 (R133, R134). -/

namespace Sys2Proof.Machine

/-- A scalar float instruction: under its guard it writes the pattern that `op` gives and ORs its flags. -/
def floatOp (f : FmtR) (s : State) (res : Ty) (op : Slot → Word × BitVec 5) : Host.Outcome State Fault Refusal :=
  scalarR f s (fun sl => let r := op sl; (sl.wr f.dst res r.1).orFlags r.2)

/-- A rounded result of an exact operation, with the flags of both (R133). -/
def rounded (t : Ty) (mode : RMode) (sat : Bool) (v : FVal × BitVec 5) : Word × BitVec 5 :=
  let r := roundStd t mode sat v.1
  (r.1, r.2 ||| v.2)

/-- A scalar operand as a value. -/
def Slot.fsrc (sl : Slot) (sp : Spec) (t : Ty) : FVal := decodeStd t (sl.src sp t)

/-- A float instruction with one rounding, on the values of its sources (R133). -/
def arithOp (f : FmtR) (s : State) (op : RMode → Slot → FVal × BitVec 5) : Host.Outcome State Fault Refusal :=
  floatOp f s f.ty (fun sl => rounded f.ty (sl.modeOf f.mode) f.sat (op (sl.modeOf f.mode) sl))

/-- FADD (R133). -/
def execFadd (f : FmtR) (s : State) : Host.Outcome State Fault Refusal :=
  arithOp f s (fun m sl => addNum m (sl.fsrc f.sa f.ty) (sl.fsrc f.sb f.ty))
/-- FSUB (R133). -/
def execFsub (f : FmtR) (s : State) : Host.Outcome State Fault Refusal :=
  arithOp f s (fun m sl => addNum m (sl.fsrc f.sa f.ty) (sl.fsrc f.sb f.ty).negate)
/-- FMUL (R133). -/
def execFmul (f : FmtR) (s : State) : Host.Outcome State Fault Refusal :=
  arithOp f s (fun _ sl => mulNum (sl.fsrc f.sa f.ty) (sl.fsrc f.sb f.ty))
/-- FFMA (R133). -/
def execFfma (f : FmtR) (s : State) : Host.Outcome State Fault Refusal :=
  arithOp f s (fun m sl => fmaNum m (sl.fsrc f.sa f.ty) (sl.fsrc f.sb f.ty) (sl.fsrc f.sc f.ty))
/-- FDIV (R133). -/
def execFdiv (f : FmtR) (s : State) : Host.Outcome State Fault Refusal :=
  arithOp f s (fun _ sl => divNum (sl.fsrc f.sa f.ty) (sl.fsrc f.sb f.ty))
/-- FSQRT (R133). -/
def execFsqrt (f : FmtR) (s : State) : Host.Outcome State Fault Refusal :=
  arithOp f s (fun _ sl => sqrtNum (sl.fsrc f.sa f.ty))
/-- FSCAL: n = Src(SB, s64) (R133). -/
def execFscal (f : FmtR) (s : State) : Host.Outcome State Fault Refusal :=
  arithOp f s (fun _ sl => scalNum (sl.fsrc f.sa f.ty) (sl.srcW f.sb).toInt)
/-- FMIN (R134). -/
def execFmin (f : FmtR) (s : State) : Host.Outcome State Fault Refusal :=
  floatOp f s f.ty (fun sl => minNum f.ty false (sl.src f.sa f.ty) (sl.src f.sb f.ty))
/-- FMAX (R134). -/
def execFmax (f : FmtR) (s : State) : Host.Outcome State Fault Refusal :=
  floatOp f s f.ty (fun sl => minNum f.ty true (sl.src f.sa f.ty) (sl.src f.sb f.ty))

/-- A float compare: its truth and NV (R90). -/
def floatCompare (t : Ty) (c : Nat) (a b : Word) : Bool × BitVec 5 :=
  let x := decodeStd t a
  let y := decodeStd t b
  (floatCond c (cmpNum x y), compareNV c (x.isNan || y.isNan) (x.isSig || y.isSig))

/-- FCMP (R134). -/
def execFcmp (f : FmtR) (s : State) : Host.Outcome State Fault Refusal :=
  floatOp f s .n64 (fun sl =>
    let r := floatCompare f.ty f.imm.toNat (sl.src f.sa f.ty) (sl.src f.sb f.ty)
    (if r.1 then 1 else 0, r.2))
/-- FCLASS (R134). -/
def execFclass (f : FmtR) (s : State) : Host.Outcome State Fault Refusal :=
  floatOp f s .n64 (fun sl => (classOf f.ty (sl.src f.sa f.ty), 0))

/-- The result type of a conversion, IMM12[3:0] (R88). -/
def resultTy (f : FmtR) : Ty := (Ty.ofCode (f.imm.extractLsb' 0 4)).getD .n64

/-- A scalar conversion from TYPE to the type of IMM12[3:0] (R116, R134). -/
def convertOp (f : FmtR) (s : State) : Host.Outcome State Fault Refusal :=
  floatOp f s (resultTy f) (fun sl => convert f.ty (resultTy f) (sl.modeOf f.mode) f.sat (sl.src f.sa f.ty))

/-- FCVTI (R134). -/
def execFcvti (f : FmtR) (s : State) : Host.Outcome State Fault Refusal := convertOp f s
/-- FCVTF (R134). -/
def execFcvtf (f : FmtR) (s : State) : Host.Outcome State Fault Refusal := convertOp f s
/-- FCVTW (R134). -/
def execFcvtw (f : FmtR) (s : State) : Host.Outcome State Fault Refusal := convertOp f s

/-- A pattern with its sign bit set to a value. -/
def withSign (t : Ty) (a : Word) (neg : Bool) : Word :=
  BitVec.ofNat 64 (a.toNat % 2 ^ (t.width - 1) + (if neg then 2 ^ (t.width - 1) else 0))

/-- FSGNJ (R134). -/
def execFsgnj (f : FmtR) (s : State) : Host.Outcome State Fault Refusal :=
  floatOp f s f.ty (fun sl => (withSign f.ty (sl.src f.sa f.ty) (signBit f.ty (sl.src f.sb f.ty)), 0))
/-- FSGNJN (R134). -/
def execFsgnjn (f : FmtR) (s : State) : Host.Outcome State Fault Refusal :=
  floatOp f s f.ty (fun sl => (withSign f.ty (sl.src f.sa f.ty) (!signBit f.ty (sl.src f.sb f.ty)), 0))
/-- FSGNJX (R134). -/
def execFsgnjx (f : FmtR) (s : State) : Host.Outcome State Fault Refusal :=
  floatOp f s f.ty (fun sl =>
    (withSign f.ty (sl.src f.sa f.ty) (signBit f.ty (sl.src f.sa f.ty) != signBit f.ty (sl.src f.sb f.ty)), 0))
/-- FRINT (R134). -/
def execFrint (f : FmtR) (s : State) : Host.Outcome State Fault Refusal :=
  floatOp f s f.ty (fun sl => frintOf f.ty (sl.modeOf f.mode) (sl.src f.sa f.ty))

end Sys2Proof.Machine
end

