-- ==== Sys2Proof/Machine/Vector.lean ====
section
/-! DEFINITION. Vector integer and float arithmetic, compares and single-element transforms: rows 0x5 to 0x7 without
the conversions (R144 to R151). -/

namespace Sys2Proof.Machine

/-- An elementwise vector instruction: governed-on elements take the value and raise the flags that `op` gives (R144). -/
def vecOp (f : FmtR) (s : State) (op : Slot → Nat → Word × BitVec 5) : Host.Outcome State Fault Refusal :=
  runSlot s (rRegs f) (fun sl =>
    let m := sl.mask f.pn f.pred
    let old := match f.dst with
      | .v n => sl.readV n
      | _ => 0
    .done ((sl.wrV f.dst (vmerge m f.ty.size old (fun j => (op sl j).1))).orFlags
      (govFlags m f.ty.size (128 / f.ty.size) (fun j => (op sl j).2))))

/-- Element j of a vector source as an integer. -/
def Slot.vint (sl : Slot) (sp : Spec) (t : Ty) (j : Nat) : Int := intOf t (sl.vsrc sp t j)

/-- Element j of a vector source as a float value. -/
def Slot.vflt (sl : Slot) (sp : Spec) (t : Ty) (j : Nat) : FVal := decodeStd t (sl.vsrc sp t j)

/-- An integer instruction on elements a and b, wrapped or clamped. -/
def vecInt (f : FmtR) (s : State) (sat : Bool) (op : Int → Int → Int) : Host.Outcome State Fault Refusal :=
  vecOp f s (fun sl j => (wrapInt f.ty sat (op (sl.vint f.sa f.ty j) (sl.vint f.sb f.ty j)), 0))

/-- A bitwise instruction on elements a and b. -/
def vecBits (f : FmtR) (s : State) (op : Word → Word → Word) : Host.Outcome State Fault Refusal :=
  vecOp f s (fun sl j => (op (sl.vsrc f.sa f.ty j) (sl.vsrc f.sb f.ty j), 0))

/-- A shift of element a by the count b mod w (R146). -/
def vecShift (f : FmtR) (s : State) (op : Word → Nat → Word) : Host.Outcome State Fault Refusal :=
  vecOp f s (fun sl j => (op (sl.vsrc f.sa f.ty j) (sl.vcount f.sb f.ty j % (f.ty.width : Int)).toNat, 0))

/-- VADD (R146). -/
def execVadd (f : FmtR) (s : State) : Host.Outcome State Fault Refusal := vecInt f s false (fun a b => a + b)
/-- VSUB (R146). -/
def execVsub (f : FmtR) (s : State) : Host.Outcome State Fault Refusal := vecInt f s false (fun a b => a - b)
/-- VMUL (R146). -/
def execVmul (f : FmtR) (s : State) : Host.Outcome State Fault Refusal := vecInt f s false (fun a b => a * b)
/-- VMULH (R146). -/
def execVmulh (f : FmtR) (s : State) : Host.Outcome State Fault Refusal := vecInt f s false (highInt f.ty)
/-- VMAD (R146). -/
def execVmad (f : FmtR) (s : State) : Host.Outcome State Fault Refusal :=
  vecOp f s (fun sl j =>
    (wrapInt f.ty false (sl.vint f.sa f.ty j * sl.vint f.sb f.ty j + sl.vint f.sc f.ty j), 0))
/-- VMIN (R146). -/
def execVmin (f : FmtR) (s : State) : Host.Outcome State Fault Refusal :=
  vecInt f s false (fun a b => if a < b then a else b)
/-- VMAX (R146). -/
def execVmax (f : FmtR) (s : State) : Host.Outcome State Fault Refusal :=
  vecInt f s false (fun a b => if a < b then b else a)
/-- VABS (R146). -/
def execVabs (f : FmtR) (s : State) : Host.Outcome State Fault Refusal :=
  vecOp f s (fun sl j => (patOf f.ty ((sl.vint f.sa f.ty j).natAbs : Int), 0))
/-- VAND (R146). -/
def execVand (f : FmtR) (s : State) : Host.Outcome State Fault Refusal := vecBits f s (fun a b => a &&& b)
/-- VOR (R146). -/
def execVor (f : FmtR) (s : State) : Host.Outcome State Fault Refusal := vecBits f s (fun a b => a ||| b)
/-- VXOR (R146). -/
def execVxor (f : FmtR) (s : State) : Host.Outcome State Fault Refusal := vecBits f s (fun a b => a ^^^ b)
/-- VSHL (R146). -/
def execVshl (f : FmtR) (s : State) : Host.Outcome State Fault Refusal := vecShift f s (shlPat f.ty)
/-- VSHR (R146). -/
def execVshr (f : FmtR) (s : State) : Host.Outcome State Fault Refusal := vecShift f s shrPat
/-- VSRA (R146). -/
def execVsra (f : FmtR) (s : State) : Host.Outcome State Fault Refusal := vecShift f s (sraPat f.ty)
/-- VADDS: always saturates (R146). -/
def execVadds (f : FmtR) (s : State) : Host.Outcome State Fault Refusal := vecInt f s true (fun a b => a + b)
/-- VSUBS: always saturates (R146). -/
def execVsubs (f : FmtR) (s : State) : Host.Outcome State Fault Refusal := vecInt f s true (fun a b => a - b)

/-! ## Float arithmetic (R147, R148) -/

/-- A float instruction with one rounding for each element (R147). -/
def vecArith (f : FmtR) (s : State) (op : RMode → Slot → Nat → FVal × BitVec 5) : Host.Outcome State Fault Refusal :=
  vecOp f s (fun sl j => rounded f.ty (sl.modeOf f.mode) f.sat (op (sl.modeOf f.mode) sl j))

/-- VFADD (R147). -/
def execVfadd (f : FmtR) (s : State) : Host.Outcome State Fault Refusal :=
  vecArith f s (fun m sl j => addNum m (sl.vflt f.sa f.ty j) (sl.vflt f.sb f.ty j))
/-- VFSUB (R147). -/
def execVfsub (f : FmtR) (s : State) : Host.Outcome State Fault Refusal :=
  vecArith f s (fun m sl j => addNum m (sl.vflt f.sa f.ty j) (sl.vflt f.sb f.ty j).negate)
/-- VFMUL (R147). -/
def execVfmul (f : FmtR) (s : State) : Host.Outcome State Fault Refusal :=
  vecArith f s (fun _ sl j => mulNum (sl.vflt f.sa f.ty j) (sl.vflt f.sb f.ty j))
/-- VFFMA (R147). -/
def execVffma (f : FmtR) (s : State) : Host.Outcome State Fault Refusal :=
  vecArith f s (fun m sl j => fmaNum m (sl.vflt f.sa f.ty j) (sl.vflt f.sb f.ty j) (sl.vflt f.sc f.ty j))
/-- VFDIV (R147). -/
def execVfdiv (f : FmtR) (s : State) : Host.Outcome State Fault Refusal :=
  vecArith f s (fun _ sl j => divNum (sl.vflt f.sa f.ty j) (sl.vflt f.sb f.ty j))
/-- VFSQRT (R147). -/
def execVfsqrt (f : FmtR) (s : State) : Host.Outcome State Fault Refusal :=
  vecArith f s (fun _ sl j => sqrtNum (sl.vflt f.sa f.ty j))
/-- VFRCP (R148). -/
def execVfrcp (f : FmtR) (s : State) : Host.Outcome State Fault Refusal :=
  vecArith f s (fun _ sl j => rcpNum (sl.vflt f.sa f.ty j))
/-- VFRSQ (R148). -/
def execVfrsq (f : FmtR) (s : State) : Host.Outcome State Fault Refusal :=
  vecArith f s (fun _ sl j => rsqNum (sl.vflt f.sa f.ty j))
/-- VFEXP2 (R148). -/
def execVfexp2 (f : FmtR) (s : State) : Host.Outcome State Fault Refusal :=
  vecArith f s (fun _ sl j => exp2Num (sl.vflt f.sa f.ty j))
/-- VFLOG2 (R148). -/
def execVflog2 (f : FmtR) (s : State) : Host.Outcome State Fault Refusal :=
  vecArith f s (fun _ sl j => log2Num (sl.vflt f.sa f.ty j))
/-- VFMIN (R147). -/
def execVfmin (f : FmtR) (s : State) : Host.Outcome State Fault Refusal :=
  vecOp f s (fun sl j => minNum f.ty false (sl.vsrc f.sa f.ty j) (sl.vsrc f.sb f.ty j))
/-- VFMAX (R147). -/
def execVfmax (f : FmtR) (s : State) : Host.Outcome State Fault Refusal :=
  vecOp f s (fun sl j => minNum f.ty true (sl.vsrc f.sa f.ty j) (sl.vsrc f.sb f.ty j))
/-- VFABS: a bit move (R147). -/
def execVfabs (f : FmtR) (s : State) : Host.Outcome State Fault Refusal :=
  vecOp f s (fun sl j => (withSign f.ty (sl.vsrc f.sa f.ty j) false, 0))
/-- VFNEG: a bit move (R147). -/
def execVfneg (f : FmtR) (s : State) : Host.Outcome State Fault Refusal :=
  vecOp f s (fun sl j => (withSign f.ty (sl.vsrc f.sa f.ty j) (!signBit f.ty (sl.vsrc f.sa f.ty j)), 0))
/-- VFRINT (R147). -/
def execVfrint (f : FmtR) (s : State) : Host.Outcome State Fault Refusal :=
  vecOp f s (fun sl j => frintOf f.ty (sl.modeOf f.mode) (sl.vsrc f.sa f.ty j))
/-- VFCLAMP: minimumNumber(maximumNumber(a, b), c) (R147). -/
def execVfclamp (f : FmtR) (s : State) : Host.Outcome State Fault Refusal :=
  vecOp f s (fun sl j =>
    let r := minNum f.ty true (sl.vsrc f.sa f.ty j) (sl.vsrc f.sb f.ty j)
    let q := minNum f.ty false r.1 (sl.vsrc f.sc f.ty j)
    (q.1, q.2 ||| r.2))

/-! ## Compares (R149) and masks (R151) -/

/-- The predicate of an elementwise condition: by lane, by element, or twice for an 8-byte element (R149). -/
def maskOf (m : BitVec 32) (s : Nat) (c : Nat → Bool) : BitVec 32 :=
  pbuild (fun i =>
    if s = 8 then m.getLsbD (2 * (i / 2)) && c (i / 2)
    else m.getLsbD i && (List.range (4 / s)).all (fun e => c (4 / s * i + e)))

/-- VCMP (R149). -/
def execVcmp (f : FmtR) (s : State) : Host.Outcome State Fault Refusal :=
  runSlot s (rRegs f) (fun sl =>
    .done (sl.wrP f.dst (maskOf (sl.mask f.pn f.pred) f.ty.size (fun j =>
      intCond f.imm.toNat (sl.vint f.sa f.ty j) (sl.vint f.sb f.ty j)
        (sl.vsrc f.sa f.ty j).toNat (sl.vsrc f.sb f.ty j).toNat))))

/-- VFCMP: NV for governed-on elements only (R149). -/
def execVfcmp (f : FmtR) (s : State) : Host.Outcome State Fault Refusal :=
  runSlot s (rRegs f) (fun sl =>
    let m := sl.mask f.pn f.pred
    let r := fun j => floatCompare f.ty f.imm.toNat (sl.vsrc f.sa f.ty j) (sl.vsrc f.sb f.ty j)
    .done ((sl.wrP f.dst (maskOf m f.ty.size (fun j => (r j).1))).orFlags
      (govFlags m f.ty.size (128 / f.ty.size) (fun j => (r j).2))))

/-- VSETP (R151). -/
def execVsetp (f : FmtR) (s : State) : Host.Outcome State Fault Refusal :=
  runSlot s (rRegs f) (fun sl =>
    .done (sl.wrP f.dst (sl.mask f.pn f.pred &&&
      pbuild (fun i => decide (4 * i / f.ty.size < (sl.srcW f.sa).toNat)))))

/-! ## Single-element transforms (R150) -/

/-- VSEL (R150). -/
def execVsel (f : FmtR) (s : State) : Host.Outcome State Fault Refusal :=
  vecOp f s (fun sl j =>
    (if gov (sl.readP (FmtR.pa f)) f.ty.size j then sl.vsrc f.sa f.ty j else sl.vsrc f.sb f.ty j, 0))
/-- VMOV (R150). -/
def execVmov (f : FmtR) (s : State) : Host.Outcome State Fault Refusal :=
  vecOp f s (fun sl j => (sl.vsrc f.sa f.ty j, 0))
/-- VIOTA: a + j * b (R150). -/
def execViota (f : FmtR) (s : State) : Host.Outcome State Fault Refusal :=
  vecOp f s (fun sl j => (wrapInt f.ty false (sl.vint f.sa f.ty j + (j : Int) * sl.vint f.sb f.ty j), 0))
/-- VCLZ (R150). -/
def execVclz (f : FmtR) (s : State) : Host.Outcome State Fault Refusal :=
  vecOp f s (fun sl j => (clzOf f.ty (sl.vsrc f.sa f.ty j), 0))
/-- VPOPC (R150). -/
def execVpopc (f : FmtR) (s : State) : Host.Outcome State Fault Refusal :=
  vecOp f s (fun sl j => (BitVec.ofNat 64 (popCount (sl.vsrc f.sa f.ty j).toNat f.ty.width), 0))
/-- VFCLASS (R150). -/
def execVfclass (f : FmtR) (s : State) : Host.Outcome State Fault Refusal :=
  vecOp f s (fun sl j => (classOf f.ty (sl.vsrc f.sa f.ty j), 0))
/-- VGETP (R150). -/
def execVgetp (f : FmtR) (s : State) : Host.Outcome State Fault Refusal :=
  vecOp f s (fun sl j => (if gov (sl.readP (FmtR.pa f)) f.ty.size j then BitVec.ofNat 64 (2 ^ f.ty.width - 1) else 0, 0))

/-- The signed integer type of a float type's width (R150). -/
def intTyOf (t : Ty) : Ty :=
  match t.size with
  | 1 => .s8
  | 2 => .s16
  | 4 => .s32
  | _ => .s64

/-- The exponent of VSCAL: an element or broadcast scalar as a signed integer of the element's width; a literal by its
value (R81, R150). -/
def scaleCount (sl : Slot) (f : FmtR) (j : Nat) : Int :=
  match f.sb with
  | .lit n => litInt n
  | sp => sl.vint sp (intTyOf f.ty) j

/-- VSCAL (R150). -/
def execVscal (f : FmtR) (s : State) : Host.Outcome State Fault Refusal :=
  vecArith f s (fun _ sl j => scalNum (sl.vflt f.sa f.ty j) (scaleCount sl f j))

end Sys2Proof.Machine
end

