-- ==== Sys2Proof/Machine/Lanes.lean ====
section
/-! DEFINITION. Conversions among standard types, packing of narrow codes, and moves across lanes: VCVT, VPACK, VUNPK
and row 0x8 (R152, R153, R157 to R161). -/

namespace Sys2Proof.Machine

/-- The old contents of a vector destination. -/
def Slot.oldV (sl : Slot) (d : Spec) : VReg :=
  match d with
  | .v n => sl.readV n
  | _ => 0

/-- VCVT (R152): elements numbered across the two widths; a narrowing conversion zeroes the rest. -/
def execVcvt (f : FmtR) (s : State) : Host.Outcome State Fault Refusal :=
  runSlot s (rRegs f) (fun sl =>
    let m := sl.mask f.pn f.pred
    let res := resultTy f
    let big := max f.ty.size res.size
    let n := 128 / big
    let r := fun j => convert f.ty res (sl.modeOf f.mode) f.sat (sl.vsrc f.sa f.ty j)
    let old := sl.oldV f.dst
    let v := vbuild res.size n (fun j => if gov m big j then (r j).1 else elemOf old res.size j)
    .done ((sl.wrV f.dst v).orFlags (govFlags m big n (fun j => (r j).2))))

/-- The width K of the descriptor byte in IMM12[11:4] (R153). -/
def descWidth (f : FmtR) : Nat := (Narrow.ofByte (f.imm.extractLsb' 4 8)).k

/-- The code at packed position j of a register: 4-bit codes two to a byte, 6-bit codes four to 3 bytes (R34, R153). -/
def packedCode (k : Nat) (r : VReg) (j : Nat) : Nat := r.toNat / 2 ^ (k * j) % 2 ^ k

/-- A register from n packed codes; what lies beyond them is zero. -/
def packCodes (k n : Nat) (f : Nat → Nat) : VReg := BitVec.ofNat 1024 (packFields k f n)

/-- A vector source as a whole register: a broadcast scalar fills every byte element, as the type n8 of VUNPK has it (R153). DESIGN CHOICE:
for VCVTX too, whose TYPE holds the result's type and for whose codes R155 gives no broadcast (log 88). -/
def Slot.vwhole (sl : Slot) (sp : Spec) : VReg :=
  match sp with
  | .v n => sl.readV n
  | sp => vbuild 1 128 (fun j => sl.vsrc sp .n8 j)

/-- VPACK (R153). -/
def execVpack (f : FmtR) (s : State) : Host.Outcome State Fault Refusal :=
  runSlot s (rRegs f) (fun sl =>
    let m := sl.mask f.pn f.pred
    let k := descWidth f
    let old := sl.oldV f.dst
    .done (sl.wrV f.dst (packCodes k 128 (fun j =>
      if gov m 1 j then (sl.vsrc f.sa .n8 j).toNat else packedCode k old j))))

/-- VUNPK (R153). -/
def execVunpk (f : FmtR) (s : State) : Host.Outcome State Fault Refusal :=
  runSlot s (rRegs f) (fun sl =>
    let m := sl.mask f.pn f.pred
    let a := sl.vwhole f.sa
    .done (sl.wrV f.dst (vmerge m 1 (sl.oldV f.dst) (fun j => BitVec.ofNat 64 (packedCode (descWidth f) a j)))))

/-- A permutation: element j of the result from the numbers of two sources (R157). -/
def laneMove (f : FmtR) (s : State) (pick : Slot → Nat → Nat → Word) : Host.Outcome State Fault Refusal :=
  vecOp f s (fun sl j => (pick sl (128 / f.ty.size) j, 0))

/-- VPERM: a literal index is a signed integer, whatever the type (R81, R157). -/
def execVperm (f : FmtR) (s : State) : Host.Outcome State Fault Refusal :=
  laneMove f s (fun sl n j => sl.vsrc f.sa f.ty (sl.vcount f.sb f.ty j % (n : Int)).toNat)
/-- VROTL (R157). -/
def execVrotl (f : FmtR) (s : State) : Host.Outcome State Fault Refusal :=
  laneMove f s (fun sl n j => sl.vsrc f.sa f.ty (((j : Int) - (sl.srcW f.sb).toInt) % (n : Int)).toNat)

/-- r = min(Src(SB, n64), n) (R157). -/
def slideBy (f : FmtR) (sl : Slot) (n : Nat) : Nat := min (sl.srcW f.sb).toNat n

/-- VSLIDEUP (R157). -/
def execVslideup (f : FmtR) (s : State) : Host.Outcome State Fault Refusal :=
  laneMove f s (fun sl n j =>
    let r := slideBy f sl n
    if r ≤ j then sl.vsrc f.sa f.ty (j - r) else sl.vsrc f.sc f.ty (n - r + j))
/-- VSLIDEDN (R157). -/
def execVslidedn (f : FmtR) (s : State) : Host.Outcome State Fault Refusal :=
  laneMove f s (fun sl n j =>
    let r := slideBy f sl n
    if j + r < n then sl.vsrc f.sa f.ty (j + r) else sl.vsrc f.sc f.ty (j + r - n))

/-- An integer reduction: governed-off elements enter as the identity (R158). -/
def reduceInt (f : FmtR) (s : State) (ident : Int) (op : Int → Int → Int) : Host.Outcome State Fault Refusal :=
  runSlot s (rRegs f) (fun sl =>
    let m := sl.mask f.pn f.pred
    let r := (List.range (128 / f.ty.size)).foldl
      (fun a j => op a (if gov m f.ty.size j then sl.vint f.sa f.ty j else ident)) ident
    .done (sl.wr f.dst f.ty (patOf f.ty r)))

/-- A float reduction along the tree of R121. -/
def reduceFloat (f : FmtR) (s : State) (ident : Slot → Word) (op : Slot → Word → Word → Word × BitVec 5) :
    Host.Outcome State Fault Refusal :=
  runSlot s (rRegs f) (fun sl =>
    let m := sl.mask f.pn f.pred
    let l := (List.range (128 / f.ty.size)).map (fun j => if gov m f.ty.size j then sl.vsrc f.sa f.ty j else ident sl)
    let r := reduceTree (op sl) 7 l 0
    .done ((sl.wr f.dst f.ty r.1).orFlags r.2))

/-- VREDSUM (R158). -/
def execVredsum (f : FmtR) (s : State) : Host.Outcome State Fault Refusal := reduceInt f s 0 (fun a b => a + b)
/-- VFREDSUM (R121, R158). -/
def execVfredsum (f : FmtR) (s : State) : Host.Outcome State Fault Refusal :=
  reduceFloat f s (fun sl => sumIdentity f.ty (sl.modeOf f.mode)) (fun sl => addStd f.ty (sl.modeOf f.mode) f.sat)
/-- VREDMAX (R158). -/
def execVredmax (f : FmtR) (s : State) : Host.Outcome State Fault Refusal :=
  reduceInt f s (minInt f.ty) (fun a b => if a < b then b else a)
/-- VREDMIN (R158). -/
def execVredmin (f : FmtR) (s : State) : Host.Outcome State Fault Refusal :=
  reduceInt f s (maxInt f.ty) (fun a b => if a < b then a else b)
/-- VFREDMAX: governed-off elements enter as NaN (R158). -/
def execVfredmax (f : FmtR) (s : State) : Host.Outcome State Fault Refusal :=
  reduceFloat f s (fun _ => canonNan f.ty) (fun _ => minNum f.ty true)
/-- VFREDMIN (R158). -/
def execVfredmin (f : FmtR) (s : State) : Host.Outcome State Fault Refusal :=
  reduceFloat f s (fun _ => canonNan f.ty) (fun _ => minNum f.ty false)

/-- The sum modulo 2^w of elements 0 to j of a source, governed-off ones as 0. -/
def prefixSum (f : FmtR) (sl : Slot) (m : BitVec 32) (j : Nat) : Int :=
  (List.range (j + 1)).foldl (fun a i => a + (if gov m f.ty.size i then sl.vint f.sa f.ty i else 0)) 0

/-- VSCAN (R159). -/
def execVscan (f : FmtR) (s : State) : Host.Outcome State Fault Refusal :=
  vecOp f s (fun sl j => (wrapInt f.ty false (prefixSum f sl (sl.mask f.pn f.pred) j), 0))

/-- VFSCAN (R122, R159): each governed-on element raises the flags of the additions that it depends on. -/
def execVfscan (f : FmtR) (s : State) : Host.Outcome State Fault Refusal :=
  runSlot s (rRegs f) (fun sl =>
    let m := sl.mask f.pn f.pred
    let n := 128 / f.ty.size
    let mode := sl.modeOf f.mode
    let y := (List.range n).map (fun j =>
      (if gov m f.ty.size j then sl.vsrc f.sa f.ty j else sumIdentity f.ty mode, (0 : BitVec 5)))
    let r := scanSteps (addStd f.ty mode f.sat) 7 1 y
    .done ((sl.wrV f.dst (vmerge m f.ty.size (sl.oldV f.dst) (fun j => (r.getD j (0, 0)).1))).orFlags
      (govFlags m f.ty.size n (fun j => (r.getD j (0, 0)).2))))

/-- The index of VEXTR and VINSR: Src(SB, s64) mod n (R160). -/
def laneIndex (f : FmtR) (sl : Slot) : Nat := ((sl.srcW f.sb).toInt % ((128 / f.ty.size : Nat) : Int)).toNat

/-- VEXTR (R160). -/
def execVextr (f : FmtR) (s : State) : Host.Outcome State Fault Refusal :=
  runSlot s (rRegs f) (fun sl =>
    let i := laneIndex f sl
    .done (if gov (sl.mask f.pn f.pred) f.ty.size i then sl.wr f.dst f.ty (sl.vsrc f.sa f.ty i) else sl))

/-- VINSR (R160). -/
def execVinsr (f : FmtR) (s : State) : Host.Outcome State Fault Refusal :=
  runSlot s (rRegs f) (fun sl =>
    let i := laneIndex f sl
    let old := sl.oldV f.dst
    .done (sl.wrV f.dst (vbuild f.ty.size (128 / f.ty.size) (fun j =>
      if j = i && gov (sl.mask f.pn f.pred) f.ty.size i then sl.src f.sa f.ty else elemOf old f.ty.size j))))

/-- The numbers of the governed-on elements, ascending. -/
def governed (m : BitVec 32) (s : Nat) : List Nat := (List.range (128 / s)).filter (gov m s)

/-- VCOMPR: every element is written (R161). -/
def execVcompr (f : FmtR) (s : State) : Host.Outcome State Fault Refusal :=
  runSlot s (rRegs f) (fun sl =>
    let l := governed (sl.mask f.pn f.pred) f.ty.size
    .done (sl.wrV f.dst (vbuild f.ty.size (128 / f.ty.size) (fun j =>
      match l[j]? with
      | some i => sl.vsrc f.sa f.ty i
      | none => 0))))

/-- VEXPND (R161). -/
def execVexpnd (f : FmtR) (s : State) : Host.Outcome State Fault Refusal :=
  runSlot s (rRegs f) (fun sl =>
    let m := sl.mask f.pn f.pred
    .done (sl.wrV f.dst (vmerge m f.ty.size (sl.oldV f.dst) (fun j =>
      sl.vsrc f.sa f.ty ((governed m f.ty.size).filter (fun i => i < j)).length))))

end Sys2Proof.Machine
end

