-- ==== Sys2Proof/Machine/Tensor.lean ====
section
/-! DEFINITION. Tensor entries and what reads, writes and updates them: VCVTQ, VCVTX, TIDW, TIDR and TIDAMX (R33 to R36, R119,
R154 to R156, R263 to R265). -/

namespace Sys2Proof.Machine

/-! ## Entries (R33, R34) -/

/-- The element format of a tensor. -/
inductive TFmt where
  | std (t : Ty)
  | narrow (f : Narrow)
  deriving DecidableEq, Repr

/-- A tensor as a valid entry describes it. -/
structure Tid where
  base : Nat
  fmt : TFmt
  cols : Nat
  rows : Nat
  scr : Bool
  sparse : Bool
  scale : Int
  stride : Nat
  deriving DecidableEq, Repr

/-- Bits of an element. -/
def TFmt.bits : TFmt → Nat
  | .std t => t.width
  | .narrow f => f.k

/-- Bytes of one row. -/
def Tid.rowBytes (t : Tid) : Nat := (t.cols * t.fmt.bits + 7) / 8

/-- The entry as used, or none where R34 does not hold. DESIGN CHOICE: ROWS or COLS of 0, which R33 excludes and R34 does not list, leaves
an entry valid (log 81). -/
def tidOf (ws : List Word) : Option Tid :=
  let w := fun i => ws.getD i 0
  let flags := (w 3).extractLsb' 40 8
  let q := (w 1).getLsbD 12
  let nf := (w 1).extractLsb' 0 8
  let fmt : Option TFmt :=
    if q then (if descLegal nf && (w 1).extractLsb' 8 4 == 0 then some (.narrow (Narrow.ofByte nf)) else none)
    else if nf == 0 then (Ty.ofCode ((w 1).extractLsb' 8 4)).map TFmt.std else none
  match fmt with
  | none => none
  | some fmt =>
    let t : Tid := ⟨((w 0).extractLsb' 0 48).toNat, fmt, ((w 2).extractLsb' 32 32).toNat, ((w 2).extractLsb' 0 32).toNat,
      flags.getLsbD 1, flags.getLsbD 0, ((w 3).extractLsb' 32 8).toInt, ((w 3).extractLsb' 0 32).toNat⟩
    let whole := inScratch t.base && decide (t.base + (t.rows - 1) * t.stride + t.rowBytes ≤ 2 ^ 48)
    if flags.getLsbD 7 && flags.extractLsb' 2 5 == 0 && (w 0).extractLsb' 48 16 == 0 && (w 1).extractLsb' 13 51 == 0 &&
        (w 3).extractLsb' 48 16 == 0 && w 5 == 0 && w 6 == 0 && w 7 == 0 &&
        (fmt.bits != 6 || t.cols % 4 == 0) && (fmt.bits != 4 || t.cols % 2 == 0) &&
        decide (t.rowBytes ≤ t.stride) && (decide (fmt.bits < 8) || t.stride % (fmt.bits / 8) == 0) &&
        t.scr == inScratch t.base && (!t.scr || whole) && !(t.scr && t.sparse) && (q || t.scale == 0) then some t
    else none

/-- The VA of an entry of the domain's table (R33). -/
def State.tidVa (s : State) (d : Dom) (tid : Byte) : VA :=
  (s.dom d).tidtab.setWidth 48 + BitVec.ofNat 48 (64 * tid.toNat)

/-- What comes of fetching an entry. -/
inductive TidRes where
  | ok (ws : List Word)
  | bad (t : Trap)
  | waits

/-- A core's cached entry (R35). -/
def Core.tidCached (c : Core) (d : Dom) (tid : Byte) : Option TidCached := c.tidCache.find? (fun e => e.dom == d && e.tid == tid)

/-- A TIDW of the activation on the entry at a VA is not yet performed (R263). -/
def Core.tidwPending (c : Core) (act : Nat) (va : VA) : Bool :=
  c.pend.any (fun p => p.act == act && (match p.kind with
    | .cp (.tidw _) | .held (.tidw _) _ => true
    | _ => false) && p.elems.any (fun e => e.va == va))

/-- An entry of a domain from the core's cache, or fetched into it by a device read (R35, R156); a TIDW of the activation that
is not yet performed is waited for (R263), and an acquire of it (R211). DESIGN CHOICE: of a full cache the entry fetched first leaves,
where R156 names no policy (log 78). -/
def State.tidFetch (s : State) (g : CoreId) (d : Dom) (tid : Byte) (act : Nat) (who : Option (CoreId × SlotId × Nat)) :
    State × TidRes :=
  let va := s.tidVa d tid
  if (s.core g).tidwPending act va || (s.core g).acquiring act then (s, .waits)
  else
  match (s.core g).tidCached d tid with
  | some e => (s, .ok e.dws.toList)
  | none =>
      match s.devRead g d va 8 with
      | (s1, .error (.trap c)) => (s1, .bad ⟨c, va.setWidth 64, 0⟩)
      | (s1, .error (.pull x p)) =>
        match s1.startPull d x p va who with
        | some s2 => (s2, .waits)
        | none => (s1, .bad ⟨.access, va.setWidth 64, 0⟩)
      | (s1, .ok ws) =>
        let e : TidCached := ⟨d, tid, Vector.ofFn (fun i => ws.getD i.val 0)⟩
        (s1.modCore g (fun c => { c with tidCache := (e :: c.tidCache).take 32 }), .ok ws)

/-! ## Access to an entry at its home -/

/-- The place of an entry at a VA for an access to it: V, MT 00, EXIST 0, outside scratch; R for a read; no U check (R263 to R265). A
write sets D (R193). DESIGN CHOICE: the update of VCVTQ, whose entry may be cached, traps with ACCESS at such a place as TIDW does, where
R154 and R156 name the traps of the fetch only (log 87). -/
def State.entryPlace (s : State) (g : CoreId) (d : Dom) (va : VA) (reads writes : Bool) (who : Option (CoreId × SlotId × Nat)) :
    State × PlaceRes :=
  if inScratch va.toNat then (s, .bad .access)
  else
    match s.xlate g d (if reads then .read else .look) false va with
    | (s1, .error (.trap c)) => (s1, .bad (if c = .page then .page else .access))
    | (s1, .error (.pull x p)) =>
      match s1.startPull d x p va who with
      | some s2 => (s2, .pulling (s.lookLoc g d va))
      | none => (s1, .bad .access)
    | (s1, .ok x) =>
      if pteMt x.pte != 0 || pteBit x.pte 11 then (s1, .bad .access)
      else if s1.migrating x.pa then (s1, .pulling (.mem x.pa 0 (pteGrain x.pte)))
      else
        let s2 := if writes && !pteBit (s1.cohWord x.pteAt) 5 then s1.cohWriteWord x.pteAt (s1.cohWord x.pteAt ||| 0x20) else s1
        (s2, .ok (.mem x.pa 0 (pteGrain x.pte)))

/-- The place of an entry of the domain's table. -/
def State.tidPlace (s : State) (g : CoreId) (d : Dom) (tid : Byte) (reads writes : Bool) (who : Option (CoreId × SlotId × Nat)) :
    State × PlaceRes := s.entryPlace g d (s.tidVa d tid) reads writes who

/-- The element at byte n of an entry. -/
def tidElem (j : Nat) (va : VA) (l : Loc) (n : Nat) : Elem :=
  ⟨j, va + BitVec.ofNat 48 n, match l with
    | .mem pa mt g => .mem (pa + n) mt g
    | l => l⟩

/-- An access to the entry that goes to its home, counted in cnt.ld or cnt.st. -/
def tidOp (isStore : Bool) (size : Nat) : MemOp := ⟨isStore, .look, size, [], [], [], .plain, .slot, false⟩

/-- What an access to an entry does at its home, and its elements there. -/
def tidFlight (op : HeldOp) (va : VA) (l : Loc) : CpOp × List Elem :=
  match op with
  | .tidw ws => (.tidw ws, [tidElem 0 va l 0])
  | .stats a n => (.stats a n, [tidElem 0 va l 32])
  | .tidamx => (.tidamx, [tidElem 0 va l 32])
  | _ => (.read, (List.range 8).map (fun k => tidElem k va l (8 * k)))

/-- An instruction on an entry in memory: it issues when its counter has room, and traps as R263 states; where the page of the entry is
pulled, or an earlier access to it waits so, it waits, counted (R208, R365). `also` is what else the instruction does as it issues. -/
def State.tidGo (s : State) (g : CoreId) (i : SlotId) (tid : Byte) (reads writes isStore : Bool) (size : Nat) (op : HeldOp)
    (dest : LoadDest) (also : State → State) : State :=
  let sl := s.slot g i
  let va := s.tidVa sl.dom tid
  let m := tidOp isStore size
  s.issue g i m op dest (fun s _ _ =>
    match s.tidPlace g sl.dom tid reads writes (some (g, i, sl.task.act)) with
    | (s1, .bad c) => raise s1 g i ⟨c, va.setWidth 64, 0⟩
    | (s1, .pulling l) => also (s1.hold g i m op dest (tidFlight op va l).2)
    | (s1, .ok l) =>
      let x := tidFlight op va l
      also (if (s1.core g).heldMeets sl.dom false [] (m.places x.2) then s1.hold g i m op dest x.2 else s1.flyPoint g (.now i sl) m x.1 dest x.2))

/-- A core drops its cached copy of the entry at a VA (R35). -/
def State.tidDrop (s : State) (g : CoreId) (d : Dom) (va : VA) : State :=
  s.modCore g (fun c => { c with tidCache := c.tidCache.filter (fun e => !(e.dom == d && s.tidVa d e.tid == va)) })

/-- The tid of an instruction. -/
def tidNum (f : FmtS) : Byte := f.imm.extractLsb' 0 8

/-- The x register of a specifier. -/
def xIndex (d : Spec) : BitVec 5 :=
  match d with
  | .x n => n
  | _ => 0

/-- Eight consecutive x registers from one. -/
def eightRegs (d : Spec) : List RegName := (List.range 8).map (fun k => .x (xIndex d + BitVec.ofNat 5 k))

/-- TIDW: all 64 bytes in one store event; the core's cached copy goes at issue, and again where another slot has fetched the old entry
meanwhile, when the bytes are written (R35, R156, R263). -/
def execTidw (f : FmtS) (s : State) : Host.Outcome State Fault Refusal :=
  runCore s (eightRegs f.sa) (fun g i sl =>
    let tid := tidNum f
    let ws := (List.range 8).map (fun k => sl.readX (xIndex f.sa + BitVec.ofNat 5 k))
    s.tidGo g i tid false true true 64 (.tidw ws) .discard (fun s => s.tidDrop g sl.dom (s.tidVa sl.dom tid)))

/-- TIDR: one load event at the home (R264). -/
def execTidr (f : FmtS) (s : State) : Host.Outcome State Fault Refusal :=
  runCore s (eightRegs f.dst) (fun g i _ =>
    s.tidGo g i (tidNum f) true false false 8 .tidr (.xs (xIndex f.dst)) (fun s => s))

/-- TIDAMX: dw4 read and set to zero as one event at the home (R265). -/
def execTidamx (f : FmtS) (s : State) : Host.Outcome State Fault Refusal :=
  runCore s (specRegs [f.dst]) (fun g i _ =>
    s.tidGo g i (tidNum f) false true false 8 .tidamx (xDest f.dst false) (fun s => s))

/-! ## Statistics (R36, R119) -/

/-- dw4 after an update. -/
def statsWord (w : Word) (amax : BitVec 32) (nans : Nat) : Word :=
  let m := w.extractLsb' 0 31
  let low : BitVec 32 := if m.toNat < (amax.extractLsb' 0 31).toNat then amax else w.extractLsb' 0 32
  let n := min ((w.extractLsb' 32 32).toNat + nans) (2 ^ 32 - 1)
  BitVec.ofNat 64 (n * 2 ^ 32 + low.toNat)

/-- The greater of two f32 magnitudes. -/
def maxMag (a b : BitVec 32) : BitVec 32 := if a.toNat < b.toNat then b else a

/-! ## VCVTQ and VCVTX (R154 to R156) -/

/-- The tid of a conversion. -/
def tidImm (f : FmtR) : Byte := f.imm.extractLsb' 0 8

/-- A conversion that has its entry, which must be valid and narrow; nothing issues before it is held. -/
def State.withTid (s : State) (g : CoreId) (i : SlotId) (tid : Byte) (go : State → Tid → Narrow → State) : State :=
  let sl := s.slot g i
  match s.tidFetch g sl.dom tid sl.task.act (some (g, i, sl.task.act)) with
  | (s1, .bad t) => raise s1 g i t
  | (s1, .waits) => s1
  | (s1, .ok ws) =>
    match tidOf ws with
    | some t =>
      match t.fmt with
      | .narrow n => go s1 t n
      | .std _ => raise s1 g i (trapOf .illegal)
    | none => raise s1 g i (trapOf .illegal)

/-- The slot after VCVTQ, with the AMAX and NANCNT that its governed-on elements give. -/
def vcvtqSlot (f : FmtR) (sl : Slot) (t : Tid) (n : Narrow) : Slot × BitVec 32 × Nat :=
  let m := sl.mask f.pn f.pred
  let z := f.ty.size
  let count := 128 / z
  let enc := fun j => n.encode (sl.modeOf f.mode) f.sat t.scale (decodeStd f.ty (sl.vsrc f.sa f.ty j))
  let on := (List.range count).filter (gov m z)
  let old := sl.oldV f.dst
  let v := packCodes n.k count (fun j => if gov m z j then (enc j).1 else packedCode n.k old j)
  let amax := on.foldl (fun a j =>
    if (decodeStd f.ty (sl.vsrc f.sa f.ty j)).isNan then a else maxMag a (absF32 f.ty (sl.vsrc f.sa f.ty j))) 0
  ((sl.wrV f.dst v).orFlags (govFlags m z count (fun j => (enc j).2.1)), amax, on.foldl (fun c j => c + (enc j).2.2) 0)

/-- VCVTQ (R154): the update of the statistics is a non-returning atomic at the home of dw4. -/
def execVcvtq (f : FmtR) (s : State) : Host.Outcome State Fault Refusal :=
  runCore s (rRegs f) (fun g i sl =>
    let tid := tidImm f
    let any := (List.range (128 / f.ty.size)).any (gov (sl.mask f.pn f.pred) f.ty.size)
    if any && sl.cnt.st == 63 then s
    else
      s.withTid g i tid (fun s t n =>
        match vcvtqSlot f sl t n with
        | (sl', amax, nans) =>
          if !any then s.setSlot g i { sl' with pc := sl.pc + 8 }
          else
            s.tidGo g i tid false true true 8 (.stats amax nans) .discard (fun s =>
              s.modSlot g i (fun x => { sl' with cnt := x.cnt, pc := sl.pc + 8 }))))

/-- VCVTX (R155). -/
def execVcvtx (f : FmtR) (s : State) : Host.Outcome State Fault Refusal :=
  runCore s (rRegs f) (fun g i sl =>
    s.withTid g i (tidImm f) (fun s t n =>
      let m := sl.mask f.pn f.pred
      let a := sl.vwhole f.sa
      let val := fun j => roundStd f.ty (sl.modeOf f.mode) f.sat (n.value t.scale (packedCode n.k a j))
      let v := vmerge m f.ty.size (sl.oldV f.dst) (fun j => (val j).1)
      s.setSlot g i { (sl.wrV f.dst v).orFlags (govFlags m f.ty.size (128 / f.ty.size) (fun j => (val j).2)) with pc := sl.pc + 8 }))

/-! ## At the home of an entry -/

/-- Doublewords stored as one event; a copy of the old entry that the core has fetched meanwhile goes (R35, R156). -/
def State.tidwPoint (s : State) (g : CoreId) (p : Pend) (ws : List Word) : State :=
  match p.elems with
  | ⟨_, va, .mem pa _ _⟩ :: _ =>
    (((s.cohWrite pa (wordsBytes ws)).dropOwnClean g p.dom ⟨pa, 64⟩).hideFills g ⟨pa, 64⟩).tidDrop g p.dom va
  | _ => s

/-- dw4 changed as one event: its old value (R36, R265). -/
def State.dw4Point (s : State) (g : CoreId) (p : Pend) (h : Word → Word) : State × Word :=
  match p.elems with
  | ⟨_, _, .mem pa _ _⟩ :: _ =>
    let w := s.cohWord pa
    (((s.cohWriteWord pa (h w)).dropOwnClean g p.dom ⟨pa, 8⟩).hideFills g ⟨pa, 8⟩, w)
  | _ => (s, 0)

/-! ## The answer of a coherence point (R205, R232) -/

/-- What an access in flight performs next, as one event: its elements in the first of its tiles, else all; and what remains (R197, R351). -/
def Pend.step (p : Pend) : List Elem × List Elem :=
  let sp := splitTile p.elems
  if sp.1.isEmpty then (p.elems, []) else (sp.1, sp.2.1 ++ sp.2.2)

/-- The access writes what it touches: each of its tiles after the first is a release at package scope (R351). -/
def CpOp.writes (op : CpOp) : Bool :=
  match op with
  | .write _ | .amo .. | .vamo .. | .sc _ | .erase => true
  | _ => false

/-- The next event of an access must wait: behind earlier accesses (R167, R208), and for what happened before it where it writes a tile
after its first (R351). -/
def State.pointWaits (s : State) (g : CoreId) (p : Pend) (op : CpOp) : Bool :=
  !s.pointReady g p ||
    (p.tiled && op.writes && (p.step.1.any (fun e => e.loc.isTile)) && !(s.core g).releasedUpTo p.act p.id p.mark false)

/-- The poison that the next event of an access meets (R180). -/
def State.stepPoison (s : State) (g : CoreId) (p : Pend) (op : CpOp) : State × Option VA :=
  if s.poison.isEmpty || !op.meetsPoison then (s, none)
  else
    match s.pointPoison { p with kind := .cp op, elems := p.step.1 } with
    | some va => (s, some va)
    | none => s.poisonedTile g p.dom p.size p.step.1

/-- An event of an access has been performed: the access goes on with its other elements, or has none left. -/
def State.pointNext (s : State) (g : CoreId) (p : Pend) (op : CpOp) (more : List Elem) : State :=
  if more.isEmpty then s.posted g p
  else (s.setPend g { p with kind := .cp op, elems := more, tiled := true }).toPoint g p.id

/-- An event of an access performed, or its trap. -/
def State.pointTried (s : State) (g : CoreId) (p : Pend) (op : CpOp) (more : List Elem) (t : Option Trap) : State :=
  match t with
  | some t => s.pendTrap g p t
  | none => s.pointNext g p op more

/-- An event of LDX: its data and the elements found absent, of which it makes its predicate in the end (R240). -/
def Pend.withAbsent (p : Pend) (on absent : List Nat) : Pend :=
  { p with dest := match p.dest with
    | .vx r pd _ => .vx r pd (ldxPresent p.size on absent)
    | d => d }

/-- The tile of an element erased in flight, and the slot's own reservations on it with it (R201, R242, R247). -/
def State.erasePoint (s : State) (g : CoreId) (p : Pend) (e : Elem) : State :=
  let r := match e.loc with
    | .tile idx _ _ => s.tileAt g p.dom idx e.va
    | _ => (s, none)
  match r.2 with
  | some t => (if r.1.pendSlot g p then r.1.dropOwnResv g p.slot e.va.toNat t.region.tile else r.1).tileErase p.dom t
  | none => r.1

/-- An LR at its coherence point: it waits for room in its table, the slot's own earlier reservation being replaced; with `evict` an aged
entry of the full table leaves for it (R246, R247). -/
def State.lrTry (s : State) (g : CoreId) (p : Pend) (e : Elem) (evict : Bool) : Option State :=
  match s.resvHome g p.dom e with
  | (s1, h) =>
    let s2 := if s1.pendSlot g p then s1.dropReservation g p.slot else s1
    let room : Option State :=
      if s2.resvFull h then
        (if evict then (s2.resv.find? (fun r => r.home == h && decide (r.since + 1024 ≤ s2.cycle))).map
          (fun r => { s2 with resv := s2.resv.erase r })
        else none)
      else if evict then none
      else some s2
    room.map (fun s3 => match s3.lrPoint g p e h with
      | (s4, some w) => s4.finishPoint g { p with vals := [(0, w)] }
      | (s4, none) => s4.pendTrap g p e.lostTile)

/-- An access in flight at its coherence point or target: its next event performed and answered; none while it must wait there. Of several
tiles it performs one at a time. -/
def State.performPoint (s : State) (g : CoreId) (p : Pend) (op : CpOp) (evict : Bool) : Option State :=
  let es := p.step.1
  let more := p.step.2
  if s.pointWaits g p op then none
  else
    match s.stepPoison g p op with
    | (s, some va) => some (s.pointTrap g p va)
    | (s, none) =>
      match op with
      | .read =>
        match s.readPoints g p.dom p.size es with
        | (s1, .ok (vs, _)) => some (s1.pointNext g { p with vals := p.vals ++ vs } .read more)
        | (s1, .error t) => some (s1.pendTrap g p t)
      | .ldx on absent =>
        match s.readPoints g p.dom p.size es with
        | (s1, .ok (vs, gone)) =>
          some (s1.pointNext g ({ p with vals := p.vals ++ vs }.withAbsent on (absent ++ gone)) (.ldx on (absent ++ gone)) more)
        | (s1, .error t) => some (s1.pendTrap g p t)
      | .write data =>
        match s.writePoints g p.dom p.size (p.carried data) es with
        | (s1, t) => some (s1.pointTried g p (.write (more.map (fun e => p.carried data e.j))) more t)
      | .amo k src expected =>
        match es with
        | [] => some (s.finishPoint g p)
        | e :: _ =>
          match s.amoPoint g p.dom p.size k src expected e with
          | (s1, .ok old) => some (s1.posted g { p with vals := [(0, old)] })
          | (s1, .error t) => some (s1.pendTrap g p t)
      | .vamo fadd data =>
        match s.vamoPoints g p.dom p.size (if fadd then .fadd else .add) (p.carried data) es with
        | (s1, t) => some (s1.pointTried g p (.vamo fadd (more.map (fun e => p.carried data e.j))) more t)
      | .lr =>
        match es with
        | [] => some (s.finishPoint g p)
        | e :: _ => s.lrTry g p e evict
      | .sc val =>
        match es with
        | [] => some (s.finishPoint g p)
        | e :: _ =>
          match s.scPoint g p val e with
          | (s1, .ok w) => some (s1.finishPoint g { p with vals := [(0, w)] })
          | (s1, .error t) => some (s1.pendTrap g p t)
      | .stats amax nans => some ((s.dw4Point g p (fun w => statsWord w amax nans)).1.finishPoint g p)
      | .tidw ws => some ((s.tidwPoint g p ws).finishPoint g p)
      | .tidamx =>
        match s.dw4Point g p (fun _ => 0) with
        | (s1, w) => some (s1.finishPoint g { p with vals := [(0, w)] })
      | .xtest =>
        match es with
        | [] => some (s.finishPoint g { p with vals := [(0, xtestWord p.vals)] })
        | e :: _ =>
          match s.xtestBit g p.dom e with
          | (s1, bit) =>
            let vals := p.vals ++ [(e.j, bit)]
            some (s1.pointNext g { p with vals := if more.isEmpty then [(0, xtestWord vals)] else vals } .xtest more)
      | .erase => some ((es.foldl (fun s e => s.erasePoint g p e) s).pointNext g p .erase more)

end Sys2Proof.Machine
end

