-- ==== Sys2Proof/Machine/Held.lean ====
section
/-! DEFINITION. The accesses that have issued and wait for their pages: they walk again, in order, once a pull or a migration has ended
(R225, R365; log 79). -/

namespace Sys2Proof.Machine

/-- How an access that has waited uses its pages. -/
def HeldOp.acc : HeldOp → Acc
  | .load | .ldx .. | .lr | .xtest _ => .read
  | .store _ | .erase _ | .sc _ => .write
  | .amo .. | .vamo .. => .both
  | .flush | .stats .. | .tidw _ | .tidr | .tidamx => .look

/-- The access as it issued. -/
def Pend.memOp (p : Pend) (acc : Acc) : MemOp :=
  ⟨p.isStore, acc, p.size, p.elems.map (fun e => ⟨e.j, e.va⟩), [], [], p.ord, p.scope, p.kind.whole⟩

/-- An access whose elements have all been placed goes on as its instruction would have. -/
def State.heldGo (s : State) (g : CoreId) (p : Pend) (m : MemOp) (op : HeldOp) (es : List Elem) : State :=
  match op with
  | .load => s.goLoad g (.held p) m .read (fun _ => p.dest) es
  | .ldx r pd on => s.goLoad g (.held p) m (.ldx on []) (fun absent => .vx r pd (ldxPresent p.size on absent)) es
  | .store data => s.goStore g (.held p) m (p.carried data) es
  | .amo k src expected => s.goAmo g (.held p) m p.dest k src expected es
  | .vamo k data => s.goVamo g (.held p) m k (p.carried data) es
  | .lr => s.goLr g (.held p) p.slot m p.dest es
  | .sc val => s.goSc g (.held p) p.slot m p.dest val es
  | _ => s

/-- An access to a tensor entry that has waited, whose element is at a VA (R263 to R265). -/
def State.heldTid (s : State) (g : CoreId) (p : Pend) (m : MemOp) (op : HeldOp) (at_ : VA) : State :=
  let va := at_ - (match op with
    | .stats .. | .tidamx => 32#48
    | _ => 0#48)
  let reads := match op with
    | .tidr => true
    | _ => false
  match s.entryPlace g p.dom va reads (!reads) (some (g, p.slot, p.act)) with
  | (s1, .bad c) => s1.pendTrap g p ⟨c, va.setWidth 64, 0⟩
  | (s1, .pulling _) => s1
  | (s1, .ok l) => s1.flyPoint g (.held p) m (tidFlight op va l).1 p.dest (tidFlight op va l).2

/-- A FLUSH that has waited (R238). -/
def State.heldFlush (s : State) (g : CoreId) (p : Pend) (va : VA) : State :=
  match s.lookPages g p.dom (some (g, p.slot, p.act)) (pageParts va.toNat (p.elems.length * p.size)) with
  | (s1, es, bs, waits) =>
    match worst bs with
    | some b => s1.pendTrap g p ⟨b.code, b.va.setWidth 64, 0⟩
    | none =>
      if waits then s1
      else if es.isEmpty then s1.finishStore g p
      else (s1.setPend g { p with kind := .waitFlush, elems := es, size := 1 }).tryPend g p.id

/-- The addresses of an access that waits for its pages, all of its elements. -/
def Pend.allExts (p : Pend) : List (Nat × Nat) :=
  p.elems.map (fun e => (e.va.toNat, match p.kind with
    | .held (.xtest n) _ => n * 65536
    | .held (.erase len) _ => len
    | _ => p.size))

/-- One access that waits for its pages walks again, unless an earlier one that waits touches its bytes (R208, R365). -/
def State.heldTry (s : State) (g : CoreId) (id : Nat) : State :=
  match (s.core g).pendOf id with
  | none => s
  | some p =>
    match p.kind with
    | .held op u =>
      let before : Core := { s.core g with pend := (s.core g).pend.takeWhile (fun q => q.id != id) }
      if before.heldMeets p.dom p.kind.whole p.allExts p.places then s
      else
        let who := some (g, p.slot, p.act)
        let m := p.memOp op.acc
        match op, p.elems with
        | _, [] => s
        | .xtest n, e :: _ => s.xtestGo g (.held p) m p.dest u who e.va n
        | .erase len, e :: _ => s.eraseGo g (.held p) m u who e.va.toNat len
        | .flush, e :: _ => s.heldFlush g p e.va
        | .stats .., e :: _ | .tidw _, e :: _ | .tidr, e :: _ | .tidamx, e :: _ => s.heldTid g p m op e.va
        | _, _ :: _ =>
          match s.placeAll g p.dom m.acc u who m.spots with
          | (s1, es, bs, waits) =>
            match worst bs with
            | some b => s1.pendTrap g p ⟨b.code, b.va.setWidth 64, 0⟩
            | none => if waits then s1 else s1.heldGo g p m op es
    | _ => s

/-- A core has accesses that wait for their pages. -/
def Core.pageWaits (c : Core) : Bool := c.pend.any Pend.isHeld

/-- Every access of a core that waits for its pages walks again, in the order of issue. -/
def State.heldCore (s : State) (g : CoreId) : State :=
  if (s.core g).pageWaits then ((s.core g).pend.map (fun p => p.id)).foldl (fun s id => s.heldTry g id) s else s

/-- Every access that waits for its pages walks again. -/
def State.heldAll (s : State) : State :=
  if s.cores.toList.any Core.pageWaits then (List.finRange 768).foldl (fun s g => s.heldCore g) s else s

end Sys2Proof.Machine
end

