-- ==== Sys2Proof/Machine/TaskInstr.lean ====
section
/-! DEFINITION. Task instructions: SPAWN, END, the YIELDs, WAITC, IDENT, CLOCK and RNG, and the retirement of a task (R52, R135 to
R141, R344). -/

namespace Sys2Proof.Machine

/-! ## Launches and teams (R26, R27) -/

/-- X, Y and Z of a descriptor. -/
def descExtent (ws : List Word) : Nat × Nat × Nat :=
  (((ws.getD 1 0).extractLsb' 0 32).toNat, ((ws.getD 1 0).extractLsb' 32 32).toNat, ((ws.getD 2 0).extractLsb' 0 32).toNat)
/-- N, the tasks of a launch. -/
def descTasks (ws : List Word) : Nat := (descExtent ws).1 * (descExtent ws).2.1 * (descExtent ws).2.2
/-- TEAM. -/
def descTeam (ws : List Word) : Nat := ((ws.getD 2 0).extractLsb' 32 7).toNat
/-- Tasks of team j. -/
def teamSize (ws : List Word) (j : Nat) : Nat := min (descTasks ws) ((j + 1) * descTeam ws) - j * descTeam ws

/-- Tasks of a team that have ended. -/
def Launch.endedOf (l : Launch) (team : Nat) : Nat := ((l.ended.find? (fun e => e.1 == team)).map (fun e => e.2)).getD 0

/-- One more task of a team has ended. -/
def Launch.bump (l : Launch) (team : Nat) : Launch :=
  { l with ended := (team, l.endedOf team + 1) :: l.ended.filter (fun e => e.1 != team) }

/-- The launch with an id. -/
def State.launchOf (s : State) (lid : Word) : Option Launch := s.launches.find? (fun l => l.lid == lid)

/-- Every task of a team has retired. -/
def State.teamOver (s : State) (lid : Word) (team : Nat) : Bool :=
  match s.launchOf lid with
  | some l => decide (teamSize l.desc team ≤ l.endedOf team)
  | none => true

/-- A command of a core names a quad barrier by number (R99). -/
def Core.namesQuadBar (c : Core) (i : Fin 8) : Bool :=
  c.queues.toList.any (fun q => q.any (fun m => m.tcw.hdr.cscope == 0 && m.tcw.hdr.bar.toNat == i.val + 1))

/-- Core n of a quad. -/
def coreAt (d : DieId) (q : Fin 32) (n : Fin 4) : CoreId := ⟨d.val * 128 + q.val * 4 + n.val, by omega⟩

/-- Team barriers of a quad whose team is over, and which no command names, are free again (R52). -/
def State.freeTeamBars (s : State) (d : DieId) (q : Fin 32) : State :=
  (List.finRange 8).foldl (fun s i =>
    match (s.bar (.quad d q i)).team with
    | none => s
    | some (lid, t) =>
      if s.teamOver lid t && !(List.finRange 4).any (fun n => (s.core (coreAt d q n)).namesQuadBar i) then s.freeBar (.quad d q i)
      else s) s

/-- A task of a team is retired (R136, R327, R344). What a die does after it was lost is not reported (R346). -/
def State.taskOver (s : State) (g : CoreId) (tr : TaskRec) (team : Option Nat) : State :=
  match team with
  | none => s
  | some t =>
    let lid : Word := tr.lid.setWidth 64
    let s1 : State := if s.dieLost g.die then s else
      { s with launches := s.launches.map (fun (l : Launch) => if l.lid = lid then l.bump t else l) }
    s1.freeTeamBars g.die g.quad

/-! ## SPAWN (R135) -/

/-- The class that PCLS chooses (R135): 0 normal, 1 high, 2 system. -/
def Slot.classOf (sl : Slot) (pcls : BitVec 2) : BitVec 2 :=
  if pcls = 0 then (if sl.task.tr.prio = 2 && sl.isU then 1 else sl.task.tr.prio) else pcls - 1

/-- LID of a task as its own records carry it: zero for a cross-domain one (R22, R24; log 12). -/
def TaskRec.ownLid (tr : TaskRec) : BitVec 16 := if tr.cross then 0 else tr.lid

/-- Six payload registers from one. -/
def Slot.payload (sl : Slot) (d : Spec) : Vector Word 6 :=
  Vector.ofFn (fun k : Fin 6 => sl.readX (xIndex d + BitVec.ofNat 5 k.val))

/-- The payload registers, as they are read. -/
def payRegs (d : Spec) : List RegName := (List.range 6).map (fun k => .x (xIndex d + BitVec.ofNat 5 k))

/-- The record of SPAWN. -/
def State.spawnRec (s : State) (g : CoreId) (sl : Slot) (f : FmtS) : TaskRec :=
  ⟨mkDw0 (f.imm.getLsbD 3) (f.imm.getLsbD 0) (sl.classOf (f.imm.extractLsb' 1 2)) false sl.dom ((sl.srcW f.sa).setWidth 48),
    sl.payload f.sb, mkDw7 1 (s.ownNumber sl.dom g) sl.task.tr.ownLid sl.task.tr.tidx, false⟩

/-- SPAWN (R135): it waits for the slot's earlier accesses, and for room in the deque (R55). -/
def execSpawn (f : FmtS) (s : State) : Host.Outcome State Fault Refusal :=
  runCore s (specRegs [f.sa] ++ payRegs f.sb) (fun g i sl =>
    let h := sl.srcW f.sa
    if sl.isU && (f.imm.getLsbD 3 || f.imm.extractLsb' 1 2 == 3) then raise s g i (trapOf .priv)
    else if h.toNat % 8 ≠ 0 then raise s g i ⟨.align, h, 0⟩
    else if !(s.core g).released sl.task.act sl.acq false then s
    else
      match (s.core g).entryOf sl.dom with
      | none => s
      | some e =>
        match s.pushBottom g e ⟨s.spawnRec g sl f, false, false⟩ with
        | (s1, true) => s1.pcNext g i
        | (s1, false) => s1)

/-! ## END (R136) -/

/-- Step 3 of END: the slot is freed and the task is retired. -/
def State.retire (s : State) (g : CoreId) (i : SlotId) : State :=
  let t := (s.slot g i).task
  ((s.dropInbox g t).leaveSlot g i .free).taskOver g t.tr t.team

/-- END: the commit, then the wait until cnt.ld = 0 and cnt.sd = 0, then the retirement. A slot that waits is `ending`, and its
next issue is the same END again. -/
def execEndTask (s : State) : Host.Outcome State Fault Refusal :=
  match s.agent with
  | .cmd .. => .next s
  | .slot g i =>
    let sl := s.slot g i
    if sl.status ≠ .running && sl.status ≠ .ending then .next s
    else
      let s1 := s.commit g i
      let n := (s1.slot g i).cnt
      if n.ld = 0 ∧ n.sd = 0 then .next (s1.retire g i)
      else .next (s1.modSlot g i (fun x => { x with status := .ending }))

/-! ## YIELD (R137) -/

/-- The part that every YIELD shares: the commit, the wait for the slot's loads, and the park, whose release `State.addCont` notes. -/
def State.yieldAs (s : State) (g : CoreId) (i : SlotId) (w : Wake) : State :=
  let s1 := s.commit g i
  if (s1.slot g i).cnt.ld ≠ 0 then s1 else (s1.pcNext g i).parkTask g i w

/-- YIELD without a condition (R137). -/
def execYield (f : FmtS) (s : State) : Host.Outcome State Fault Refusal :=
  runCore s (specRegs [f.sa, f.sb]) (fun g i _ => s.yieldAs g i .now)

/-- YIELD CYCLES (R137). DEDUCED: its cycles count from the park, which the want of a frame may delay (R69, R321; log 65). -/
def execYieldCycles (f : FmtS) (s : State) : Host.Outcome State Fault Refusal :=
  runCore s (specRegs [f.sa]) (fun g i sl =>
    let n := (sl.srcW f.sa).toNat
    s.yieldAs g i (if n = 0 then .now else .cycles n))

/-- YIELD WATCH (R137): ILLEGAL for a reserved PTE, ALIGN, then the word's page (R94). -/
def execYieldWatch (f : FmtS) (s : State) : Host.Outcome State Fault Refusal :=
  runCore s (specRegs [f.sa, f.sb]) (fun g i sl =>
    let va : VA := (sl.srcW f.sa).setWidth 48
    match worst (s.reservedPtes g sl.dom [⟨0, va⟩] ++ misaligned 8 [⟨0, va⟩]) with
    | some b => raise s g i ⟨b.code, va.setWidth 64, 0⟩
    | none =>
    if inScratch va.toNat then raise s g i ⟨.access, va.setWidth 64, 0⟩
    else
      match s.place g sl.dom .read sl.isU (some (g, i, sl.task.act)) va with
      | (s1, .pulling _) => s1
      | (s1, .bad c) => raise s1 g i ⟨c, va.setWidth 64, 0⟩
      | (s1, .ok loc) =>
        match loc with
        | .mem _ mt _ =>
          if mt ≠ 0 then raise s1 g i ⟨.access, va.setWidth 64, 0⟩
          else s1.yieldAs g i (.watch va loc (sl.srcW f.sb) (f.imm.extractLsb' 4 3))
        | _ => s1.yieldAs g i (.watch va loc (sl.srcW f.sb) (f.imm.extractLsb' 4 3)))

/-- YIELD PHASE (R137): a name that is none is ILLEGAL, a barrier of another domain is DOMAIN (R299). -/
def execYieldPhase (f : FmtS) (s : State) : Host.Outcome State Fault Refusal :=
  runCore s (specRegs [f.sa, f.sb]) (fun g i sl =>
    let name := sl.srcW f.sa
    match barOf g sl.task.teamBar name with
    | none => raise s g i (trapOf .illegal)
    | some r =>
      if (s.bar r).owner ≠ some sl.dom then raise s g i ⟨.domain, name, 0⟩
      else s.yieldAs g i (.phase name r ((sl.srcW f.sb).setWidth 32)))

/-! ## WAITC (R138) -/

/-- A counter is no greater than its field; 15 is no condition. -/
def waitcOk (n : BitVec 6) (fld : BitVec 4) : Bool := fld == 15 || decide (n.toNat ≤ fld.toNat)

/-- WAITC: it holds the slot until every condition holds, and is then an acquire of every completed command that cp, mx or gx
counted, whatever its fields say (R138, R218). -/
def execWaitc (f : FmtS) (s : State) : Host.Outcome State Fault Refusal :=
  runCore s [] (fun g i sl =>
    let fld := fun (k : Nat) => f.imm.extractLsb' (20 - 4 * k) 4
    if waitcOk sl.cnt.ld (fld 0) && waitcOk sl.cnt.st (fld 1) && waitcOk sl.cnt.cp (fld 2) && waitcOk sl.cnt.mx (fld 3) &&
        waitcOk sl.cnt.gx (fld 4) && waitcOk sl.cnt.sd (fld 5) then
      (if sl.eng.extractLsb' 0 3 != 0 then s.acquireDrop g else s).pcNext g i
    else s)

/-! ## IDENT, CLOCK, RNG (R139 to R141) -/

/-- All ones. -/
abbrev ones : Word := 0xFFFFFFFFFFFFFFFF

/-- The identity value of a selector, but for selector 11 below H (R139). -/
def State.identity (s : State) (g : CoreId) (i : SlotId) (sl : Slot) (sel : Nat) : Word :=
  let v := (s.ownNumber sl.dom g).toNat
  let tr := sl.task.tr
  let num := fun (n : Nat) => BitVec.ofNat 64 n
  match sel with
  | 0 => num i.val
  | 1 => if v = 0x3FF then ones else num (v % 4)
  | 2 => if v = 0x3FF then ones else num (v / 4 % 32)
  | 3 => if v = 0x3FF then ones else num (v / 128)
  | 4 => num v
  | 5 => sl.dom.setWidth 64
  | 6 => (s.dom sl.dom).vf.setWidth 64
  | 7 => if tr.origin = 0 then tr.pay[3] else ones
  | 8 => tr.tidx.setWidth 64
  | 9 => tr.ownLid.setWidth 64
  | 10 => Config.nodeNumber.setWidth 64
  | _ => num g.val

/-- IDENT (R139). -/
def execIdent (f : FmtS) (s : State) : Host.Outcome State Fault Refusal :=
  runSlot s (specRegs [f.dst]) (fun sl =>
    match s.agent with
    | .slot g i =>
      if f.imm.toNat = 11 && sl.level != 2 then .trap (trapOf .priv) else .done (sl.wrW f.dst (s.identity g i sl f.imm.toNat))
    | .cmd .. => .done sl)

/-- CLOCK (R140). -/
def execClock (f : FmtS) (s : State) : Host.Outcome State Fault Refusal :=
  runSlot s (specRegs [f.dst]) (fun sl => .done (sl.wrW f.dst (if f.imm = 0 then s.cycleOf sl.dom else s.timeOf sl.dom)))

/-- The function of RNG (R141). -/
def rngOf (c key : Word) : Word :=
  let z := (c ^^^ key) + 0x6A09E667F3BCC909
  let z := (z ^^^ (z >>> 31)) * 0xD6E8FEB86659FD93
  let z := (z ^^^ (z >>> 29)) * 0x9FB21C651E98DF25
  z ^^^ (z >>> 32)

/-- RNG (R141). -/
def execRng (f : FmtS) (s : State) : Host.Outcome State Fault Refusal :=
  runSlot s (specRegs [f.dst, f.sa, f.sb]) (fun sl => .done (sl.wrW f.dst (rngOf (sl.srcW f.sa) (sl.srcW f.sb))))

end Sys2Proof.Machine
end

