-- ==== Sys2Proof/Machine/Messages.lean ====
section
/-! DEFINITION. Messages, gates and barriers: SEND, SENDR, SENDR gate, GATE, BARA in its three forms, BARW and BART (R288 to R304,
R382). -/

namespace Sys2Proof.Machine

/-! ## Sending (R289 to R293) -/

/-- Entries of a domain's share of the send buffer (R293). -/
def Core.sendShare (c : Core) : Nat := 32 / max 1 c.shares

/-- The share of a domain is full. -/
def Core.sendFull (c : Core) (d : Dom) : Bool := decide (c.sendShare ≤ (c.sendBuf.filter (fun m => m.dom == d)).length)

/-- A record placed in the share as uncommitted. -/
def State.putMessage (s : State) (g : CoreId) (i : SlotId) (t : MsgTarget) (tr : TaskRec) : State :=
  let sl := s.slot g i
  s.modCore g (fun c => { c with sendBuf := c.sendBuf ++ [⟨i, sl.task.act, sl.dom, t, tr, false, 0, 0⟩] })

/-- The slot holds 8 uncommitted messages already. -/
def State.eightHeld (s : State) (g : CoreId) (i : SlotId) : Bool := decide (8 ≤ (s.core g).uncommitted (s.slot g i).task.act)

/-- The record of SEND or SENDR (R289). -/
def State.sendRec (s : State) (g : CoreId) (sl : Slot) (f : FmtS) (reply : Bool) : TaskRec :=
  ⟨mkDw0 (f.imm.getLsbD 3) false (sl.classOf (f.imm.extractLsb' 1 2)) reply sl.dom ((sl.srcW f.sb).setWidth 48), sl.payload f.sc,
    mkDw7 (if reply then 3 else 2) (s.ownNumber sl.dom g) sl.task.tr.ownLid sl.task.tr.tidx, false⟩

/-- SEND and SENDR, in the order of R289 and R94: ILLEGAL, PRIV, DOMAIN, SENDQFULL, ALIGN. The core map is read after every earlier
acquire (R211). -/
def sendOp (f : FmtS) (s : State) (reply : Bool) : Host.Outcome State Fault Refusal :=
  runCore s (specRegs [f.sa, f.sb] ++ payRegs f.sc) (fun g i sl =>
    let t := sl.srcW f.sa
    let h := sl.srcW f.sb
    if s.eightHeld g i then raise s g i (trapOf .illegal)
    else if sl.isU && (f.imm.getLsbD 3 || f.imm.extractLsb' 1 2 == 3) then raise s g i (trapOf .priv)
    else if (s.core g).acquiring sl.task.act then s
    else
      match s.mapTarget sl.dom t with
      | none => raise s g i ⟨.domain, t, 0⟩
      | some tgt =>
        if (s.core g).sendFull sl.dom then raise s g i (trapOf .sendqfull)
        else if h.toNat % 8 ≠ 0 then raise s g i ⟨.align, h, 0⟩
        else (s.putMessage g i tgt (s.sendRec g sl f reply)).pcNext g i)

/-- SEND (R289). -/
def execSend (f : FmtS) (s : State) : Host.Outcome State Fault Refusal := sendOp f s false
/-- SENDR with GREPLY = 0 (R289). -/
def execSendr (f : FmtS) (s : State) : Host.Outcome State Fault Refusal := sendOp f s true

/-! ## Gates (R297, R298) -/

/-- INFO of a GATE trap: the target domain and the gate index (R322). -/
def gateInfo (d : Dom) (idx : BitVec 8) : BitVec 24 := BitVec.ofNat 24 (d.toNat * 256 + idx.toNat)

/-- The GATE trap. -/
def gateTrap (d : Dom) (idx : BitVec 8) : Trap := ⟨.gate, 0, gateInfo d idx⟩

/-- SENDR gate: the answer to a gate call, once (R298); the core map is read after every earlier acquire (R211). -/
def execSendrGate (f : FmtS) (s : State) : Host.Outcome State Fault Refusal :=
  runCore s (payRegs f.sc) (fun g i sl =>
    let x := sl.task.grant
    let idx := sl.task.tr.lid.extractLsb' 8 8
    let info := if x.valid then gateTrap x.dom idx else gateTrap 0 0
    if s.eightHeld g i then raise s g i (trapOf .illegal)
    else if !x.valid || x.consumed then raise s g i info
    else if (s.core g).acquiring sl.task.act then s
    else
      match s.mapTarget x.dom (x.vcore.setWidth 64) with
      | some (.local_ tgt) =>
        if (s.core g).sendFull sl.dom then raise s g i (trapOf .sendqfull)
        else
          let lid := BitVec.ofNat 16 (idx.toNat * 256 + sl.dom.toNat)
          let tr : TaskRec := ⟨mkDw0 false false 0 true x.dom x.handler, sl.payload f.sc, mkDw7 3 (s.ownNumber sl.dom g) lid 0, true⟩
          let s1 := s.modSlot g i (fun y => { y with task := { y.task with grant := { y.task.grant with consumed := true } } })
          (s1.putMessage g i (.local_ tgt) tr).pcNext g i
      | _ => raise s g i info)

/-- The checks of a gate entry after its page, but for the core map (R297). -/
def gateOk (ws : List Word) (d caller : Dom) (t : Word) (reply : Bool) : Bool :=
  let w := fun n => ws.getD n 0
  let rply := (w 0).getLsbD 62
  let npay := ((w 0).extractLsb' 59 3).toNat
  (w 0).getLsbD 63 && (w 3).getLsbD 63 &&
    (w 0).extractLsb' 56 2 == 0 && (w 1).extractLsb' 42 21 == 0 && (w 1).extractLsb' 10 22 == 0 && (w 2).extractLsb' 9 55 == 0 &&
    (w 3).extractLsb' 0 63 == 0 &&
    (w 0).extractLsb' 48 8 == d && decide (npay ≤ if rply then 5 else 6) &&
    ((w 2).getLsbD 8 || (w 2).extractLsb' 0 8 == caller) &&
    ((w 1).getLsbD 63 || (decide (((w 1).extractLsb' 32 10).toNat ≤ t.toNat) && decide (t.toNat ≤ ((w 1).extractLsb' 0 10).toNat))) &&
    (!rply || reply)

/-- The record of GATE (R298). -/
def State.gateRec (s : State) (g : CoreId) (sl : Slot) (f : FmtS) (ws : List Word) (d : Dom) (idx : BitVec 8) : TaskRec :=
  let w0 := ws.getD 0 0
  let npay := (w0.extractLsb' 59 3).toNat
  let rply := w0.getLsbD 62
  let hr := (sl.srcW f.sb).setWidth 48
  let regs := sl.payload f.sc
  let pay : Vector Word 6 := Vector.ofFn (fun k : Fin 6 =>
    if k.val < npay then regs[k]
    else if k.val = 5 && rply then ((hr &&& 0xFFFFFFFFFFF8#48).setWidth 64) ||| 1 else 0)
  ⟨mkDw0 (w0.getLsbD 58) false 0 false d (w0.extractLsb' 0 48), pay,
    mkDw7 4 (s.ownNumber sl.dom g) (BitVec.ofNat 16 (idx.toNat * 256 + sl.dom.toNat)) 0, true⟩

/-- GATE (R297): the entry is read once at issue, under the target domain's translation, after every earlier acquire (R211). -/
def execGate (f : FmtS) (s : State) : Host.Outcome State Fault Refusal :=
  runCore s (specRegs [f.sa, f.sb] ++ payRegs f.sc) (fun g i sl =>
    let t := sl.srcW f.sa
    let d : Dom := f.imm.extractLsb' 8 8
    let idx : BitVec 8 := f.imm.extractLsb' 0 8
    let va : VA := (s.dom d).gateBase.setWidth 48 + BitVec.ofNat 48 (32 * idx.toNat)
    if s.eightHeld g i then raise s g i (trapOf .illegal)
    else if (s.dom d).gateLen.toNat ≤ idx.toNat then raise s g i (gateTrap d idx)
    else if sl.cnt.ld = 63 || (s.core g).acquiring sl.task.act then s
    else
      match s.devRead g d va 4 with
      | (s1, .error (.trap c)) =>
        if c = .page || c = .poison then raise s1 g i ⟨c, va.setWidth 64, 0⟩ else raise s1 g i (gateTrap d idx)
      | (s1, .error (.pull x p)) =>
        match s1.startPull d x p va (some (g, i, sl.task.act)) with
        | some s2 => s2
        | none => raise s1 g i (gateTrap d idx)
      | (s1, .ok ws) =>
        match gateOk ws d sl.dom t (f.sb != Spec.none), s1.mapTarget d t with
        | true, some (.local_ tgt) =>
          let tr := s1.gateRec g sl f ws d idx
          if (s1.core g).sendFull sl.dom then raise s1 g i (trapOf .sendqfull)
          else if tr.handler.toNat % 8 ≠ 0 then raise s1 g i ⟨.align, tr.handler.setWidth 64, 0⟩
          else (s1.putMessage g i (.local_ tgt) tr).pcNext g i
        | _, _ => raise s1 g i (gateTrap d idx))

/-! ## Barriers (R299 to R304) -/

/-- The barrier that a command names (R99). -/
def barOfCmd (g : CoreId) (h : Hdr) : Option BarRef :=
  if h.bar = 0 then none
  else
    let n := h.bar.toNat - 1
    match h.cscope.toNat with
    | 0 => (finOf 8 n).map (fun i => .quad g.die g.quad i)
    | 1 => (finOf 64 n).map (fun i => .die g.die i)
    | 2 => (finOf 32 n).map (fun i => .pkg i)
    | _ => (finOf 8 n).map (fun i => .pod i)

/-- The barrier is a pod barrier. -/
def BarRef.isPod : BarRef → Bool
  | .pod _ => true
  | _ => false
/-- The barrier belongs to a quad. -/
def BarRef.isQuad : BarRef → Bool
  | .quad .. => true
  | _ => false

/-- The cores whose commands may name a barrier. -/
def BarRef.cores (r : BarRef) : List CoreId :=
  match r with
  | .quad d q _ => (List.finRange 4).map (coreAt d q)
  | .die d _ => (List.finRange 768).filter (fun g => g.die == d)
  | _ => List.finRange 768

/-- A park on a barrier. -/
def Wake.on (w : Wake) (r : BarRef) : Bool :=
  match w with
  | .phase _ x _ => x == r
  | _ => false

/-- A slot waits for a barrier, holding or for want of a frame. -/
def SlotStatus.onBar (st : SlotStatus) (r : BarRef) : Bool :=
  match st with
  | .barWait x _ => x == r
  | .frameWait (.park w _) _ _ => w.on r
  | .faultWait _ (.hold (.park w _)) _ => w.on r
  | _ => false

/-- The barrier has counted arrivals of its open phase; a pod barrier's count is at device 0 of the pod (R299; log 11). -/
def State.barCounts (s : State) (r : BarRef) : Bool :=
  if r.isPod && Config.nodeNumber != 0 then Config.podArrived s.now else (s.bar r).a != 0

/-- A task or a command uses the barrier (R300). -/
def State.barUsed (s : State) (r : BarRef) : Bool :=
  s.barCounts r || s.conts.any (fun c => c.wake.on r) ||
    r.cores.any (fun g =>
      let c := s.core g
      c.slots.toList.any (fun sl => sl.status.onBar r) ||
        c.queues.toList.any (fun q => q.any (fun m => barOfCmd g m.tcw.hdr == some r)))

/-- An instruction that names a barrier its domain owns (R299). -/
def State.withBar (s : State) (g : CoreId) (i : SlotId) (sl : Slot) (name : Word) (go : BarRef → State) : State :=
  match barOf g sl.task.teamBar name with
  | none => raise s g i (trapOf .illegal)
  | some r => if (s.bar r).owner ≠ some sl.dom then raise s g i ⟨.domain, name, 0⟩ else go r

/-- An access of an activation waits for its pages, and may yet trap. -/
def Core.heldOf (c : Core) (act : Nat) : Bool := c.pend.any (fun p => p.act == act && p.isHeld)

/-- The commit and the release at the barrier's scope, and then the arrival: the phase arrived in goes to DST (R221, R300). Nothing
arrives while an earlier access of the slot is not performed, or a FLUSH waits for its pages: its trap would have the slot arrive again
(R304). -/
def State.arriveAs (s : State) (g : CoreId) (i : SlotId) (sl : Slot) (dst : Spec) (r : BarRef) (go : State → BitVec 32 → State) :
    State :=
  let s1 := s.commit g i
  if !(s1.core g).released sl.task.act sl.acq r.isPod || (s1.core g).heldOf sl.task.act then s1
  else
    match s1.barArrive r with
    | (s2, p) => go (s2.putX g i dst (p.setWidth 64)) p

/-- BARA, arrive form (R300). -/
def execBara (f : FmtS) (s : State) : Host.Outcome State Fault Refusal :=
  runCore s (specRegs [f.dst, f.sa]) (fun g i sl =>
    s.withBar g i sl (sl.srcW f.sa) (fun r => s.arriveAs g i sl f.dst r (fun s _ => s.pcNext g i)))

/-- The lowest free barrier of a scope, with its name (R300); of a pod barrier device 0 of the pod says which it is, none that is known to be
owned (log 11). -/
def State.freeBarOf (s : State) (g : CoreId) (scope : Nat) : Option (BarRef × Nat) :=
  let pick := fun (l : List (BarRef × Nat)) => l.find? (fun x => (s.bar x.1).owner.isNone)
  match scope with
  | 2 => pick ((List.finRange 8).map (fun i => (.quad g.die g.quad i, i.val)))
  | 3 => pick ((List.finRange 64).map (fun i => (.die g.die i, i.val)))
  | 4 => pick ((List.finRange 32).map (fun i => (.pkg i, i.val)))
  | _ =>
    if Config.nodeNumber = 0 then pick ((List.finRange 8).map (fun i => (.pod i, i.val)))
    else pick ((finOf 8 (Config.podFree s.now)).toList.map (fun i => (.pod i, i.val)))

/-- What befalls a pod barrier is told to the other devices of the pod: to device 0, and by it to the rest (log 11). -/
def State.tellPod (s : State) (r : BarRef) (x : PodNews) : State :=
  match r with
  | .pod b => { s with reports := .pod b x :: s.reports }
  | _ => s

/-- BARA, alloc form (R300). DESIGN CHOICE: the scope of a team name has no alloc, as R52 gives team barriers, and raises ILLEGAL, which R300
does not state (log 89). -/
def execBaraAlloc (f : FmtS) (s : State) : Host.Outcome State Fault Refusal :=
  runCore s (specRegs [f.dst, f.sa, f.sb]) (fun g i sl =>
    let name := sl.srcW f.sa
    let e := (sl.srcW f.sb).toNat
    let scope := (name.extractLsb' 8 3).toNat
    if name.extractLsb' 11 53 ≠ 0 || scope < 2 || 5 < scope || e = 0 || 2 ^ 20 ≤ e then raise s g i (trapOf .illegal)
    else if sl.isU || (scope == 5 && sl.level != 2) then raise s g i (trapOf .priv)
    else
      match s.freeBarOf g scope with
      | none => (s.putX g i f.dst ones).pcNext g i
      | some (r, n) =>
        (((s.tellPod r (.alloc sl.dom e)).setBar r ⟨some sl.dom, none, e, 0, 0⟩).putX g i f.dst (BitVec.ofNat 64 (scope * 256 + n))).pcNext g i)

/-- BARA, free form (R300). -/
def execBaraFree (f : FmtS) (s : State) : Host.Outcome State Fault Refusal :=
  runCore s (specRegs [f.sa]) (fun g i sl =>
    let name := sl.srcW f.sa
    match (if name.extractLsb' 8 3 = 6 then none else barOf g none name) with
    | none => raise s g i (trapOf .illegal)
    | some r =>
      let mine := (s.bar r).owner == some sl.dom
      if mine && ((s.bar r).team.isSome || s.barUsed r) then raise s g i (trapOf .illegal)
      else if sl.isU then raise s g i (trapOf .priv)
      else if !mine then raise s g i ⟨.domain, name, 0⟩
      else
        ((s.tellPod r .free).freeBar r).pcNext g i)

/-- A holding BARW whose phase has passed goes on: an acquire at the barrier's scope (R221, R302). -/
def State.barGo (s : State) (g : CoreId) (i : SlotId) : State :=
  ((s.modSlot g i (fun x => { x with status := .running })).acquireDrop g).pcNext g i

/-- BARW (R302): quad and team barriers hold the slot, wider ones park it. -/
def execBarw (f : FmtS) (s : State) : Host.Outcome State Fault Refusal :=
  runCore s (specRegs [f.dst, f.sa]) (fun g i sl =>
    let name := sl.srcW f.sa
    s.withBar g i sl name (fun r =>
      s.arriveAs g i sl f.dst r (fun s p =>
        if r.isQuad then
          (if (s.bar r).passed p then s.barGo g i else s.modSlot g i (fun x => { x with status := .barWait r p }))
        else (s.pcNext g i).parkTask g i (.phase name r p))))

/-- BART (R303). -/
def execBart (f : FmtS) (s : State) : Host.Outcome State Fault Refusal :=
  runCore s (specRegs [f.dst, f.sa, f.sb]) (fun g i sl =>
    s.withBar g i sl (sl.srcW f.sa) (fun r =>
      if (s.bar r).passed ((sl.srcW f.sb).setWidth 32) then ((s.putX g i f.dst 1).acquireDrop g).pcNext g i
      else (s.putX g i f.dst 0).pcNext g i))

end Sys2Proof.Machine
end

