-- ==== Sys2Proof/Machine/Sched.lean ====
section
/-! DEFINITION. What a core starts and when: slices and their debt, shares, the choice of a freed slot, stealing, and the drain
of a domain (R53 to R64, R293 to R295, R339 to R343, R347, R349). -/

namespace Sys2Proof.Machine

/-! ## Slices and their debt (R62, R63, R349) -/

/-- The entry may start tasks: it is RUN and its slice is open (R59, R62). -/
def Part.mayStart (p : Part) (cycle : Nat) : Bool :=
  p.state == 1 && (match p.slice with
    | .opened u _ => decide (cycle < u)
    | _ => false)

/-- A RUN entry opens its slice at the start of a round, unless its domain still holds a slot from its overrun (R62). SLICE takes effect
here (R43). -/
def Part.openRound (p : Part) (cycle : Nat) : Part :=
  let q := { p with vClock := 0, sliceNow := p.sliceLen }
  if p.state ≠ 1 then { q with slice := .closed }
  else if p.overrun.isSome then { q with slice := .deferred (cycle + p.sliceLen) }
  else { q with slice := .opened (cycle + (p.sliceLen - p.debt)) (p.sliceLen - p.debt) }

/-- A slice round starts (R58, R62): what it lasts depends on the SLICE fields alone. Every slice closes at it, so that a round of steals
resumes from its start (R60). -/
def Core.startRound (c : Core) (cycle : Nat) : Core :=
  let c1 := (List.finRange 4).foldl (fun (c : Core) (e : PartId) =>
    if c.part[e].state = 0 then c else ((c.sliceUpTo e cycle).closeSlice e cycle).settle e cycle) c
  let run := (List.finRange 4).filter (fun e => c1.part[e].state == 1)
  let c2 := (List.finRange 4).foldl (fun (c : Core) (e : PartId) => { c with part := c.part.set e (c.part[e].openRound cycle) }) c1
  { c2 with
    roundEnd := if run.isEmpty then none else some (cycle + run.foldl (fun n e => max n c1.part[e].sliceLen) 0)
    steal := { c2.steal with lost := true } }

/-- A round is due at the end of the last one (R62). DESIGN CHOICE: where no entry was RUN at that, as soon as one is (log 64). -/
def Core.roundDue (c : Core) (cycle : Nat) : Bool :=
  match c.roundEnd with
  | none => (List.finRange 4).any (fun e => c.part[e].state == 1)
  | some n => decide (n ≤ cycle)

/-- SLICE_ROUND_START (R62). -/
def State.sliceRound (s : State) (g : CoreId) : Option State :=
  if (s.core g).roundDue s.cycle then some (s.modCore g (fun c => c.startRound s.cycle)) else none

/-- The slice is due to close. -/
def Part.closeDue (p : Part) (cycle : Nat) : Bool :=
  match p.closesAt with
  | some u => decide (u ≤ cycle)
  | none => false

/-- SLICE_CLOSE (R63). -/
def State.sliceClose (s : State) (g : CoreId) (e : PartId) : Option State :=
  if (s.core g).part[e].closeDue s.cycle then some (s.modCore g (fun c => c.sliceUpTo e s.cycle)) else none

/-- SLICE_DEFERRED_OPEN: the overrun has ended in an earlier cycle, and its debt counts (R62, R349). -/
def State.sliceOpen (s : State) (g : CoreId) (e : PartId) : Option State :=
  ((s.core g).part[e].openDeferred s.cycle).map (fun q => s.modPart g e (fun _ => q))

/-! ## Shares (R53, R293, R295) -/

/-- The oldest records of a deque beyond its capacity spill (R53, R55). -/
def State.dequeExcess (s : State) (g : CoreId) (e : PartId) : Nat → State
  | 0 => s
  | n + 1 =>
    let c := s.core g
    let more := c.part[e].deque.length - c.dequeCap
    if more = 0 then s
    else
      match s.spillTop g e (min 64 more) (s.ownNumber c.part[e].dom g) with
      | (s1, true) => s1.dequeExcess g e n
      | (s1, false) => s1

/-- One inbox entry moves to the waystation with its rank, and spilling begins (R295). -/
def State.inboxOut (s : State) (g : CoreId) (e : PartId) (vn : Bool) (m : InMsg) : State × Bool :=
  let d := (s.core g).part[e].dom
  match s.wayPush g d m.tr m.rank with
  | (s1, false) => (s1, false)
  | (s1, true) =>
    let r := (s1.core g).rank d vn
    let s2 := s1.modPart g e (fun p => p.setInbox vn ((p.inbox vn).filter (fun x => x.rank != m.rank)))
    (s2.setRank g (r.keep m.rank m.tr m.barred), true)

/-- The newest entries of an inbox share beyond its size move to the waystation; an entry kept for a started message stays. -/
def State.inboxExcess (s : State) (g : CoreId) (e : PartId) (vn : Bool) : Nat → State
  | 0 => s
  | n + 1 =>
    let c := s.core g
    let l := c.part[e].inbox vn
    if l.length ≤ c.inboxCap vn then s
    else
      match l.reverse.find? (fun m => !m.started) with
      | none => s
      | some m =>
        match s.inboxOut g e vn m with
        | (s1, true) => s1.inboxExcess g e vn n
        | (s1, false) => s1

/-- The shares of a core after an entry has left or entered EMPTY (R53, R293, R295). -/
def State.reshare (s : State) (g : CoreId) : State :=
  (List.finRange 4).foldl (fun s e =>
    if (s.core g).part[e].state = 0 then s
    else ((s.dequeExcess g e 4).inboxExcess g e true 64).inboxExcess g e false 192) s

/-! ## What a free slot starts (R59, R294, R347) -/

/-- What a domain has for a free slot of a core, before a reload. -/
inductive StartItem where
  | cont (c : Cont)
  | msg (vn : Bool) (m : InMsg)
  | rec_ (r : DqRec)

/-- A record that took SENDQFULL may start again: the share holds fewer than half its size (R294). -/
def Core.barLifted (c : Core) (d : Dom) : Bool :=
  decide ((c.sendBuf.filter (fun m => m.dom == d)).length < c.sendShare / 2)

/-- The oldest message of an inbox share, unless it is barred (R59, R347). -/
def Core.oldestMsg (c : Core) (e : PartId) (vn : Bool) : Option StartItem :=
  match (c.part[e].inbox vn).find? (fun m => !m.started) with
  | some m => if m.barred && !c.barLifted c.part[e].dom then none else some (.msg vn m)
  | none => none

/-- The record at the bottom of a deque, unless it is barred. -/
def Core.bottomRec (c : Core) (e : PartId) : Option StartItem :=
  match c.part[e].live.getLast? with
  | some r => if r.barred && !c.barLifted c.part[e].dom then none else some (.rec_ r)
  | none => none

/-- The release of a park holds: what its task issued before is performed (R137, R213). -/
def Core.parkDone (c : Core) (x : Cont) : Bool :=
  c.releasedUpTo x.act x.rel x.mark false

/-- A continuation may start on its home core now. -/
def State.mayResume (s : State) (g : CoreId) (d : Dom) (x : Cont) : Bool :=
  x.home == g && x.dom == d && x.startable && decide (x.notBefore ≤ s.cycle) && (s.core g).parkDone x

/-- The first available item of a domain on a core, in the order of R59. DESIGN CHOICE: of several woken continuations, the one that
was saved first (log 66). -/
def State.itemOf (s : State) (g : CoreId) (e : PartId) : Option StartItem :=
  let c := s.core g
  let d := c.part[e].dom
  (((s.conts.find? (s.mayResume g d)).map StartItem.cont).or
    (c.oldestMsg e true)).or ((c.oldestMsg e false).or (c.bottomRec e))

/-- The same with a reload of an empty deque (R57): the state after it, and the item. -/
def State.itemAfter (s : State) (g : CoreId) (e : PartId) : State × Option StartItem :=
  match s.itemOf g e with
  | some x => (s, some x)
  | none =>
    if (s.core g).part[e].live.isEmpty then
      let s1 := (s.reloadDeque g e).1
      (s1, s1.itemOf g e)
    else (s, none)

/-- The slot is in the entry's SLOTS. -/
def Part.hasSlot (p : Part) (i : SlotId) : Bool := p.slots.getLsbD i.val

/-- Tasks of a domain that choices of the core have started in this cycle (R59): a launch record delivered to its reserved slot is none,
a continuation of one is. -/
def Core.startedNow (c : Core) (d : Dom) (cycle : Nat) : Nat :=
  ((List.finRange 16).filter (fun i =>
    c.slots[i].held && c.slots[i].dom == d && c.slots[i].task.since == cycle && (c.slots[i].task.source != .launch || c.slots[i].task.moved))).length

/-- What the choice compares: V_d with the starts of this cycle. -/
def Core.compared (c : Core) (e : PartId) (cycle : Nat) : Nat :=
  c.vAt e cycle + c.startedNow c.part[e].dom cycle * c.part[e].step

/-- The first of some entries: the smallest clock, then the lowest number. -/
def firstEntry (clock : PartId → Nat) : List PartId → Option PartId
  | [] => none
  | e :: l =>
    match firstEntry clock l with
    | none => some e
    | some f => if clock f < clock e then some f else some e

/-- Entries whose domain may start a task in a slot. -/
def Core.openFor (c : Core) (i : SlotId) (cycle : Nat) : List PartId :=
  (List.finRange 4).filter (fun e => c.part[e].mayStart cycle && c.part[e].hasSlot i)

/-- The entry whose domain a free slot starts (R59). -/
def State.pickEntry (s : State) (g : CoreId) (i : SlotId) : Option PartId :=
  let c := s.core g
  firstEntry (fun e => c.compared e s.cycle) ((c.openFor i s.cycle).filter (fun e => (s.itemAfter g e).2.isSome))

/-- A launch record that its home core owes this slot (R313). -/
def State.owedFor (s : State) (g : CoreId) (i : SlotId) : Option Owed :=
  (s.die g.die).owed.find? (fun o => o.g == g && (match (s.core g).entryOf o.tr.dom with
    | some e => (s.core g).part[e].hasSlot i
    | none => false))

/-- The slot is free and has something to start or to be reserved for. -/
def State.wantsStart (s : State) (g : CoreId) (i : SlotId) : Bool :=
  (s.slot g i).status == .free && ((s.owedFor g i).isSome || (s.pickEntry g i).isSome)

/-- An item starts in a slot. -/
def State.startItem (s : State) (g : CoreId) (i : SlotId) (e : PartId) (x : StartItem) : State :=
  match x with
  | .cont c => s.restore i c
  | .msg vn m =>
    let s1 := s.modPart g e (fun p => p.setInbox vn ((p.inbox vn).map (fun y => if y.rank = m.rank then { y with started := true } else y)))
    s1.startTask g i m.tr (.inbox vn) m.rank none none
  | .rec_ r => (s.modPart g e (fun p => { p with deque := (p.deque.reverse.erase r).reverse })).startTask g i r.tr .deque 0 none none

/-- A slot is reserved for an owed launch record, which is then delivered to it (R313). -/
def State.payOwed (s : State) (g : CoreId) (i : SlotId) (o : Owed) : State :=
  (s.reslot g i (fun sl => { sl with status := .reserved })).modDie g.die (fun d =>
    { d with owed := d.owed.erase o, deliveries := d.deliveries ++ [⟨g, i, o.tr, o.team, o.bar, o.barred⟩] })

/-- SLOT_START: the lowest free slot that has something chooses first (R59, R313). -/
def State.slotStart (s : State) (g : CoreId) (i : SlotId) : Option State :=
  if (s.slot g i).status ≠ .free || (List.finRange 16).any (fun j => decide (j < i) && s.wantsStart g j) then none
  else
    match s.owedFor g i with
    | some o => some (s.payOwed g i o)
    | none =>
      match s.pickEntry g i with
      | none => none
      | some e =>
        match s.itemAfter g e with
        | (s1, some x) => some ((s1.startItem g i e x).modCore g (fun c => { c with steal := { c.steal with wait := s.cycle } }))
        | (_, none) => none

/-- A free slot that starts nothing: the reloads that failed have left their notices, and records of another domain have gone to
the dead letters (R23, R57). -/
def State.idleReloads (s : State) (g : CoreId) (i : SlotId) : State :=
  if (s.slot g i).status ≠ .free then s
  else ((s.core g).openFor i s.cycle).foldl (fun s e =>
    if (s.core g).part[e].live.isEmpty then (s.reloadDeque g e).1 else s) s

/-! ## Stealing (R60, R61) -/

/-- A slot is free for an entry. -/
def Core.freeSlot (c : Core) (e : PartId) : Option SlotId :=
  (List.finRange 16).find? (fun i => c.slots[i].status == .free && c.part[e].hasSlot i)

/-- The core is idle for stealing (R60). -/
def State.idle (s : State) (g : CoreId) : Bool :=
  let c := s.core g
  (List.finRange 4).any (fun e => c.part[e].mayStart s.cycle && (c.freeSlot e).isSome) &&
    !(List.finRange 16).any (fun i => s.wantsStart g i)

/-- The domain that a request names: the one with the smallest V_d (R60). -/
def State.stealEntry (s : State) (g : CoreId) : Option PartId :=
  let c := s.core g
  firstEntry (fun e => c.vAt e s.cycle) ((List.finRange 4).filter (fun e => c.part[e].mayStart s.cycle && (c.freeSlot e).isSome))

/-- Place n of a round: a core to ask, or none for the spill area. -/
def stealPlace (g : CoreId) (round n : Nat) : Option CoreId :=
  let c := g.val % 4
  if n < 3 then some (coreAt g.die g.quad (Fin.ofNat 4 (c + (round + n) % 3 + 1)))
  else if n = 3 then none
  else some (coreAt g.die (Fin.ofNat 32 (g.quad.val + (n - 4) / 4 + 1)) (Fin.ofNat 4 (c + (n - 4) % 4)))

/-- The places of a round. -/
abbrev stealPlaces : Nat := 128

/-- The theft state of a core replaced. -/
def State.setSteal (s : State) (g : CoreId) (x : Steal) : State := s.modCore g (fun c => { c with steal := x })

/-- A record that arrives by theft starts in a slot that is free for its domain, or is pushed at the bottom of the deque; false
where the deque has no room (R59). -/
def State.takeStolen (s : State) (g : CoreId) (d : Dom) (tr : TaskRec) : State × Bool :=
  match (s.core g).entryOf d with
  | none => (s.deadUnstarted g d tr, true)
  | some e =>
    let p := (s.core g).part[e]
    match (if p.mayStart s.cycle then (s.core g).freeSlot e else none) with
    | some i => ((s.startTask g i tr .theft 0 none none).tally g (some d) 0x0031 1, true)
    | none =>
      match s.pushBottom g e ⟨tr, false, false⟩ with
      | (s1, ok) => (if ok then s1.tally g (some d) 0x0031 1 else s1, ok)

/-- A record taken from the spill area stands at the bottom of a deque that has no room (log 14). -/
def State.pushOver (s : State) (g : CoreId) (d : Dom) (tr : TaskRec) : State :=
  match (s.core g).entryOf d with
  | some e => s.modPart g e (fun p => { p with deque := p.deque ++ [⟨tr, false, false⟩] })
  | none => s

/-- The next request of a round, from place n on; the spill area is looked into in its turn. -/
def State.askNext (s : State) (g : CoreId) (d : Dom) (n : Nat) : State :=
  let x := (s.core g).steal
  if stealPlaces ≤ n then s.setSteal g ⟨x.round + 1, none, s.cycle + 512, false⟩
  else
    match stealPlace g x.round n with
    | some v => { (s.setSteal g { x with asking := some (d, n) }) with steals := s.steals ++ [.ask g v d] }
    | none => s.setSteal g { x with asking := some (d, n) }

/-- A continuation of a core has become startable while the core waits for its next round of steals. -/
def State.wokeSince (s : State) (g : CoreId) : Bool :=
  s.conts.any (fun c => c.home == g && c.startable && ((s.core g).entryOf c.dom).isSome && decide ((s.core g).steal.wait ≤ c.since + 512))

/-- STEAL_ROUND_WAIT: an idle core begins a round, 512 cycles after the last or once a domain of its own has gained a startable item
(R60, `State.gained`). -/
def State.stealRound (s : State) (g : CoreId) : Option State :=
  let x := (s.core g).steal
  if x.asking.isSome || (s.cycle < x.wait && !s.wokeSince g) || !s.idle g then none
  else (s.stealEntry g).map (fun e => (s.setSteal g { x with lost := false }).askNext g (s.core g).part[e].dom 0)

/-- The n-th request or answer removed. -/
def State.dropSteal (s : State) (n : Nat) : State := { s with steals := s.steals.eraseIdx n }

/-- The owner takes the last record of a deque in this cycle: its core's free slots would start it, each in its turn (R54, R59). -/
def State.ownerTakes (s : State) (g : CoreId) (e : PartId) : Bool :=
  let t := (List.finRange 16).foldl (fun (s : State) i => (s.slotStart g i).getD s) s
  (t.core g).part[e].live != (s.core g).part[e].live

/-- STEAL_REQUEST: the victim gives the oldest stealable record of its deque, or answers empty (R61); a deque's only record that its
owner takes in the same cycle is the owner's (R54). -/
def State.stealAsk (s : State) (n : Nat) : Option State :=
  match s.steals[n]? with
  | some (.ask thief v d) =>
    let c := s.core v
    let hit : Option (PartId × DqRec) := match c.entryOf d with
      | some e => if c.part[e].live.length = 1 && s.ownerTakes v e then none else (c.part[e].live.find? (fun r => r.tr.stl)).map (fun r => (e, r))
      | none => none
    let s1 := s.dropSteal n
    match hit with
    | some (e, r) =>
      let s2 := s1.modPart v e (fun p => { p with deque := p.deque.erase r })
      some { s2 with steals := s2.steals ++ [.answer thief d (some r.tr)] }
    | none => some { s1 with steals := s1.steals ++ [.answer thief d none] }
  | _ => none

/-- The round goes on after an empty answer: the spill area in its turn, and then the next place. It resumes from its start where the domain
named has stopped being RUN or open, be it for a while (R60). -/
def State.stealOn (s : State) (g : CoreId) (d : Dom) (n : Nat) : State :=
  let x := (s.core g).steal
  let still := match (s.core g).entryOf d with
    | some e => (s.core g).part[e].mayStart s.cycle
    | none => false
  if !still || x.lost || !s.idle g then s.setSteal g { x with asking := none, wait := s.cycle }
  else if n + 1 = 3 then
    match s.stealSpill g d with
    | (s1, some tr) =>
      match s1.takeStolen g d tr with
      | (s2, true) => s2.setSteal g ⟨x.round + 1, none, s.cycle, false⟩
      | (s2, false) => (s2.pushOver g d tr).setSteal g ⟨x.round + 1, none, s.cycle, false⟩
    | (s1, none) => s1.askNext g d 4
  else s.askNext g d (n + 1)

/-- STEAL_ANSWER: the thief receives a record, which ends its round, or empty (R60). DESIGN CHOICE: a record that finds no slot and no room
waits on the relay network (log 72). -/
def State.stealAnswer (s : State) (n : Nat) : Option State :=
  match s.steals[n]? with
  | some (.answer g d r) =>
    let x := (s.core g).steal
    let s1 := s.dropSteal n
    match r with
    | some tr =>
      match s1.takeStolen g d tr with
      | (s2, true) => some (s2.setSteal g ⟨x.round + 1, none, s.cycle, false⟩)
      | (_, false) => none
    | none =>
      match x.asking with
      | some (_, k) => some (s1.stealOn g d k)
      | none => some s1
  | _ => none

/-! ## Accumulators (R273, R277) -/

/-- The bits of an accumulator element. -/
def accGet (l : List (Nat × BitVec 32)) (n : Nat) : BitVec 32 := ((l.find? (fun e => e.1 == n)).map (fun e => e.2)).getD 0

/-- The index of element (i, j) of accumulator c. -/
def accIndex (c i j : Nat) : Nat := c * 4096 + i * 64 + j

/-- Every element of an accumulator given anew: the elements that are not +0 stay listed, by rising index. -/
def accPut (l : List (Nat × BitVec 32)) (c : Nat) (f : Nat → BitVec 32) : List (Nat × BitVec 32) :=
  l.filter (fun e => decide (e.1 < c * 4096)) ++
    ((List.range 4096).map (fun k => (c * 4096 + k, f k))).filter (fun e => e.2 != 0) ++
    l.filter (fun e => decide ((c + 1) * 4096 ≤ e.1))

/-- An accumulator as the bytes of MSAVE: element (i, j) at 256 i + 4 j. -/
def accBytes (l : List (Nat × BitVec 32)) (c : Nat) : List Byte :=
  let mine := l.filter (fun e => decide (c * 4096 ≤ e.1) && decide (e.1 < (c + 1) * 4096))
  (List.range 4096).flatMap (fun k => bytesOf 4 (accGet mine (c * 4096 + k)).toNat)

/-- An accumulator from the bytes of MSAVE. -/
def accOfBytes (l : List (Nat × BitVec 32)) (c : Nat) (bs : List Byte) : List (Nat × BitVec 32) :=
  accPut l c (fun k => BitVec.ofNat 32 (numOf ((bs.drop (4 * k)).take 4)))

/-! ## Save areas (R340) -/

/-- Scratch banks named by a mask, ascending. -/
def bankList (m : BitVec 32) : List Nat := (List.range 32).filter (fun b => m.getLsbD b)
/-- Accumulators named by a mask, ascending. -/
def accList (m : BitVec 16) : List Nat := (List.range 16).filter (fun a => m.getLsbD a)

/-- The bytes of an entry's banks and accumulators, in the order of a save area. -/
def Core.saveBytes (c : Core) (p : Part) : List Byte :=
  (bankList p.banks).flatMap (fun b => c.scratchRead (16384 * b) 16384) ++ (accList p.accs).flatMap (accBytes c.acc)

/-- A save area is written, in pages that need W alone (R340). -/
def State.saveArea (s : State) (g : CoreId) (e : PartId) : State × Bool :=
  let p := (s.core g).part[e]
  let head : List Word := [p.banks.setWidth 64 <<< 32 ||| p.accs.setWidth 64, (s.ownNumber p.dom g).setWidth 64, s.timeOf p.dom, 0, 0, 0, 0, 0]
  let n := 256 * ((bankList p.banks).length + (accList p.accs).length)
  match s.devPutMany g p.dom .write (n + 1) (p.saveVa.setWidth 48) (head ++ bytesWords (8 * n) ((s.core g).saveBytes p)) with
  | (s1, none) => (s1, true)
  | (s1, some _) => (s1, false)

/-- Banks and accumulators at zero (R342). -/
def Core.zeroArea (c : Core) (banks : BitVec 32) (accs : BitVec 16) : Core :=
  { c with
    scratch := c.scratch.filter (fun x => !banks.getLsbD (x.1 / 16384))
    acc := c.acc.filter (fun x => !accs.getLsbD (x.1 / 4096)) }

/-- Banks loaded in ascending order from consecutive 16 KiB of bytes. -/
def Core.loadBanks (c : Core) : List Nat → List Byte → Core
  | [], _ => c
  | b :: l, bs => ({ c with scratch := cellsWrite zeroByte c.scratch (16384 * b) (bs.take 16384) } : Core).loadBanks l (bs.drop 16384)

/-- Accumulators loaded in ascending order. -/
def Core.loadAccs (c : Core) : List Nat → List Byte → Core
  | [], _ => c
  | a :: l, bs => ({ c with acc := accOfBytes c.acc a (bs.take 16384) } : Core).loadAccs l (bs.drop 16384)

/-! ## Abort of a saved task (R312, R334, R342) -/

/-- A continuation ends: its uncommitted messages go, its record returns, its frame is freed. -/
def State.abortCont (s : State) (c : Cont) : State :=
  let s1 := (s.frameMod c.home c.dom c.frame 3 (fun w => w ||| 0xC000000000000000)).1.dropUncommitted c.home c.act
  let s2 := s1.abortReturn c.home none c.task .illegal ⟨Vector.replicate 8 0⟩
  let s3 := s2.frameFree c.home c.dom c.frame
  { s3 with conts := s3.conts.filter (fun x => x.id != c.id), watches := s3.watches.filter (fun w => w.cont != c.id) }

/-! ## Draining (R342, R343) -/

/-- No task of a domain is in a slot of the core, and no record is on its way to one. -/
def State.tasksGone (s : State) (g : CoreId) (d : Dom) : Bool :=
  (s.core g).slots.toList.all (fun sl => !sl.held || sl.dom != d) &&
    !(s.die g.die).deliveries.any (fun x => x.g == g && x.tr.dom == d) && !(s.die g.die).owed.any (fun x => x.g == g && x.tr.dom == d) &&
    !(s.core g).pend.any (fun p => p.dom == d)

/-- A theft of the domain is under way for the core. -/
def State.stealing (s : State) (g : CoreId) (d : Dom) : Bool :=
  s.steals.any (fun x => match x with
    | .ask t _ d' => t == g && d' == d
    | .answer t d' _ => t == g && d' == d)

/-- The RESULT of a command as it stands: the K-blocks an MMA has skipped, the tiles an XCOPY has copied, the segments a GSUM has
written (R260). -/
def Cmd.resultNow (m : Cmd) : Word :=
  let n := m.tcw.op.toNat
  if n = 16 ∨ n = 5 ∨ n = 34 then BitVec.ofNat 64 m.count else 0

/-- Stopped commands of the domain complete with status ABORTED (R286, R342). -/
def Core.abortStopped (c : Core) (d : Dom) (status : Byte) : Core :=
  { c with queues := Vector.ofFn (fun (q : Fin 4) => c.queues[q].map (fun (m : Cmd) =>
      match m.st with
      | .stopped .. => if m.dom = d then { m with st := .done status m.resultNow } else m
      | _ => m)) }

/-- The inbox share of a domain moves to the waystation, oldest first; false while it cannot. The entry of a record that waits for its
dead-letter entry stays as it is until that is written (R327; log 73). -/
def State.drainInbox (s : State) (g : CoreId) (e : PartId) (vn : Bool) : List InMsg → State × Bool
  | [] => (s, true)
  | m :: l =>
    if m.started then (s, false)
    else
    match s.inboxOut g e vn m with
    | (s1, true) => s1.drainInbox g e vn l
    | (s1, false) => (s1, false)

/-- The deque moves to blocks that any core of the domain reloads; false while it cannot, or while a record in it waits for its
dead-letter entry. -/
def State.drainDeque (s : State) (g : CoreId) (e : PartId) : Nat → State × Bool
  | 0 => (s, (s.core g).part[e].deque.isEmpty)
  | n + 1 =>
    if (s.core g).part[e].deque.isEmpty then (s, true)
    else
      match s.spillTop g e 64 0x3FF with
      | (s1, true) => s1.drainDeque g e n
      | (s1, false) => (s1, false)

/-- Step 7: the L1 entries of the domain are evicted, its cached entries go, banks and accumulators are zero. -/
def State.drainCore (s : State) (g : CoreId) (e : PartId) : State :=
  let c := s.core g
  let p := c.part[e]
  let mine := c.l1.filter (fun x => x.dom == p.dom)
  let c1 : Core := { c with l1 := c.l1.filter (fun x => x.dom != p.dom), tidCache := c.tidCache.filter (fun x => x.dom != p.dom), tlb := c.tlb.filter (fun x => x.dom != p.dom) }
  let msgs := mine.flatMap (evictMsgs g)
  ((s.setCore g (c1.zeroArea p.banks p.accs)).tally g (some p.dom) 0x0013 (msgs.filter Msg.isWriteBack).length).send msgs

/-- Step 8: a notice for each remaining frame, and one to domain 0. -/
def State.drainNotices (s : State) (g : CoreId) (d : Dom) : State :=
  let mine := s.conts.filter (fun c => c.home == g && c.dom == d)
  let s1 := mine.foldl (fun (s : State) c => s.noticeOwn g d (s.noticeOf d 2 d 0x3FF 0 0 0 0 c.frame)) s
  let s2 : State := { s1 with conts := s1.conts.map (fun (c : Cont) => if c.home = g && c.dom == d then { c with noticed := true } else c) }
  s2.noticeZero g 3 d (BitVec.ofNat 64 g.val)

/-- An entry at EMPTY. -/
def Part.emptied (p : Part) : Part :=
  { p with b := p.b &&& 0x3FFFFFFFFFFFFFFF, slice := .closed, overrun := none, deque := [], inReq := [], inRep := [], saveVa := 0 }

/-- Steps 5 to 9 of a drain, once nothing of the domain is left to wait for. -/
def State.drainOut (s : State) (g : CoreId) (e : PartId) : State :=
  let p := (s.core g).part[e]
  match s.drainInbox g e true p.inRep with
  | (s1, false) => s1
  | (s1, true) =>
    match s1.drainInbox g e false p.inReq with
    | (s2, false) => s2
    | (s2, true) =>
      match s2.drainDeque g e 5 with
      | (s3, false) => s3
      | (s3, true) =>
        match (if p.saveVa = 0 then (s3, true) else s3.saveArea g e) with
        | (s4, false) => s4
        | (s4, true) =>
          let s5 := (s4.drainCore g e).drainNotices g p.dom
          (s5.setCore g ((s5.core g).settle e s.cycle)).modPart g e (fun p => p.emptied)

/-- DRAIN: the steps of R342 in their order, as far as they go now. -/
def State.drain (s : State) (g : CoreId) (e : PartId) (aborted : Byte) : Option State :=
  let c := s.core g
  let p := c.part[e]
  let d := p.dom
  if p.state ≠ 2 || !s.tasksGone g d || s.stealing g d then none
  else
    match s.conts.find? (fun x => x.home == g && x.dom == d && x.suspended && c.uncommitted x.act != 0) with
    | some x => some (s.abortCont x)
    | none =>
      let stopped := c.queues.toList.any (fun q => q.any (fun m => m.dom == d && (match m.st with
        | .stopped .. => true
        | _ => false)))
      if stopped then some (s.modCore g (fun c => c.abortStopped d aborted))
      else if c.sendBuf.any (fun m => m.dom == d && m.committed) || c.queues.toList.any (fun q => q.any (fun m => m.dom == d)) then none
      else some (s.drainOut g e)

end Sys2Proof.Machine
end

