-- ==== Sys2Proof/Machine/Engines.lean ====
section
/-! DEFINITION. Tile commands: ENQ, ENQT and QSEQ, the life of a command from its queue to its retirement, and how an engine
reaches memory (R99 to R101, R217 to R219, R254 to R262, R266, R282 to R287). -/

namespace Sys2Proof.Machine

/-! ## Statuses (R258) -/

/-- OK. -/
abbrev stOk : Byte := 0
/-- ABORTED. -/
abbrev stAborted : Byte := 1
/-- CONFLICT. -/
abbrev stConflict : Byte := 2
/-- SPARSE. -/
abbrev stSparse : Byte := 3
/-- ORDER. -/
abbrev stOrder : Byte := 4
/-- BADDESC. -/
abbrev stBadDesc : Byte := 5
/-- BADREGION. -/
abbrev stBadRegion : Byte := 6

/-! ## A command in its queue -/

/-- The command at a position of a queue. -/
def Core.cmdAt (c : Core) (q : QueueId) (pos : Fin 32) : Option Cmd := c.queues[q].find? (fun m => m.pos == pos)

/-- A queue replaced. -/
def Core.setQueue (c : Core) (q : QueueId) (l : List Cmd) : Core := { c with queues := c.queues.set q l }

/-- The command at a position changed by f. -/
def State.modCmd (s : State) (g : CoreId) (q : QueueId) (pos : Fin 32) (f : Cmd → Cmd) : State :=
  s.modCore g (fun c => c.setQueue q (c.queues[q].map (fun m => if m.pos = pos then f m else m)))

/-- Accumulators that a command names (R273, R274, R277). -/
def tcwAccs (t : Tcw) : List Nat :=
  let n := t.op.toNat
  if n = 19 then (List.range 16).filter (fun a => t.w0.getLsbD a)
  else if 16 ≤ n ∧ n ≤ 21 then [(t.w0.extractLsb' 28 4).toNat] else []

/-- The command has done its work. -/
def Cmd.finished (m : Cmd) : Bool :=
  match m.st with
  | .done .. => true
  | _ => false

/-- The command has begun and counts toward the 8 in progress; a SIGNAL performs no access and takes no place (R257, R281). -/
def Cmd.inProgress (m : Cmd) : Bool := (m.st == .running || m.st == .issued) && m.tcw.op.toNat != 63

/-- Accesses of the issuer's core that precede the ENQ and are not yet performed (R217). -/
def Core.heldBack (c : Core) (m : Cmd) : Bool :=
  !c.releasedUpTo m.act m.rel m.mark false

/-- The command has started, or starts now: in queue order, where there is room, and after every earlier one if ORD is set (R219,
R257). -/
def Core.cmdStarts (c : Core) (q : QueueId) (m : Cmd) : Bool :=
  let before := c.queues[q].takeWhile (fun x => x.pos != m.pos)
  match m.st with
  | .waiting => before.all (fun x => x.st != .waiting) && (!m.tcw.hdr.ord || before.isEmpty) &&
      (q == 1 || q == 3 || m.tcw.op.toNat == 63 || decide ((c.queues[q].filter Cmd.inProgress).length < 8))
  | .running => true
  | _ => false

/-- The command may begin its accesses or go on with them: it has started, what precedes its ENQ is performed, and no earlier command
has its accumulators (R217, R273). -/
def Core.cmdReady (c : Core) (q : QueueId) (m : Cmd) : Bool :=
  c.cmdStarts q m &&
    (c.queues[q].takeWhile (fun x => x.pos != m.pos)).all (fun x => x.finished || !(tcwAccs x.tcw).any (fun a => (tcwAccs m.tcw).contains a)) &&
    !c.heldBack m

/-- A tile command of the executing engine: it works when it is ready; where it only starts, it waits in progress and holds back no
later command (R255, R257, R273). An engine that works in pieces starts a command in a turn of its own, so that later commands may start
before its first access (R219, R305; log 80). -/
def runCmd (s : State) (f : CoreId → QueueId → Cmd → State) : Host.Outcome State Fault Refusal :=
  match s.agent with
  | .slot .. => .next s
  | .cmd g q pos =>
    match (s.core g).cmdAt q pos with
    | none => .next s
    | some m =>
      if (s.core g).cmdReady q m && (m.st != .waiting || s.piece == 0) then .next (f g q m)
      else if (s.core g).cmdStarts q m then .next (s.modCmd g q pos (fun x => { x with st := .running }))
      else .next s

/-! ## Records to the supervisor and notices (R260, R284, R285, R329) -/

/-- The handle of a command (R285). -/
def State.handleOf (s : State) (g : CoreId) (q : QueueId) (m : Cmd) : Word :=
  BitVec.ofNat 64 ((s.ownNumber m.dom g).toNat * 2 ^ 54 + q.val * 2 ^ 52 + m.pos.val * 2 ^ 47 + m.slot.val * 2 ^ 43 +
    m.seq.toNat % 2 ^ 32)

/-- A record that leaves a core outside every share: its target is looked up when it leaves, and domain 0 is told where it has
none now (R260, R329). -/
def State.sendOutside (s : State) (g : CoreId) (d : Dom) (t : MsgTarget) (tr : TaskRec) : State :=
  let s1 := s.modCore g (fun c => { c with outside := c.outside ++ [⟨0, 0, d, t, tr, true, 0, 0⟩] })
  match t with
  | .vcore v =>
    match s1.mapTarget d v with
    | some (.local_ _) => s1
    | _ => s1.noticeZero g 4 d v
  | _ => s1

/-- k0 of a notice or of an engine fault record. -/
def cmdK0 (code : Nat) (q : QueueId) (m : Cmd) : Word :=
  BitVec.ofNat 64 (code * 2 ^ 56 + m.tcw.hdr.tag.toNat * 2 ^ 48 + m.tcw.op.toNat * 2 ^ 42 + q.val * 2 ^ 40 + m.slot.val * 2 ^ 36)

/-- LID as a command's records carry it (log 12). -/
def Cmd.lid16 (m : Cmd) : BitVec 16 :=
  match m.lid with
  | some w => w.setWidth 16
  | none => 0

/-- The contribution is a command's. -/
def Contribution.isOf (c : Contribution) (g : CoreId) (q : QueueId) (pos : Fin 32) : Bool := c.g == g && c.q == q && c.pos == pos

/-- The command is an ACCUM in ordered mode (R270, R271). -/
def Cmd.isOrdered (m : Cmd) : Bool := m.tcw.op.toNat == 4 && m.tcw.w0.getLsbD 29

/-- Progress of a stopped command (R284); of an ordered ACCUM, the bytes of the contributions that its granules have applied. -/
def State.reported (s : State) (g : CoreId) (q : QueueId) (m : Cmd) : Nat :=
  let n := m.tcw.op.toNat
  if m.isOrdered then
    m.sent - ((s.contribs ++ s.staged ++ s.refused).filter (fun c => c.isOf g q m.pos)).foldl (fun k c => k + c.data.length) 0
  else if n = 16 ∨ n < 16 ∨ (32 ≤ n ∧ n < 48) then m.progress else 0

/-- A command stops at a piece and tells the supervisor (R283, R284). -/
def State.stopCmd (s : State) (g : CoreId) (q : QueueId) (pos : Fin 32) (c : TrapCode) (va : VA) : State :=
  match (s.core g).cmdAt q pos with
  | none => s
  | some m =>
    let d := s.dom m.dom
    let v := s.ownNumber m.dom g
    let pay : Vector Word 6 := #v[cmdK0 c.num q m, m.seq, va.setWidth 64, s.handleOf g q m, BitVec.ofNat 64 (s.reported g q m), v.setWidth 64]
    let tr : TaskRec := ⟨mkDw0 true false 0 false m.dom (d.suphandler.setWidth 48), pay, mkDw7 6 v m.lid16 m.tidx, false⟩
    (s.modCmd g q pos (fun x => { x with st := .stopped c va })).sendOutside g m.dom (.vcore d.supcore) tr

/-- The completion notice of a command (R260). -/
def State.sendNotice (s : State) (g : CoreId) (q : QueueId) (m : Cmd) (status : Byte) (result : Word) : State :=
  let v := s.ownNumber m.dom g
  let pay : Vector Word 6 := #v[cmdK0 status.toNat q m, m.seq, result, s.handleOf g q m, 0, 0]
  let tr : TaskRec := ⟨mkDw0 (m.notify.getLsbD 62) false 0 false m.dom (m.notify.setWidth 48), pay, mkDw7 5 v m.lid16 m.tidx, false⟩
  let t := m.notify.extractLsb' 48 10
  s.sendOutside g m.dom (if t = 0x3FF then .local_ g else .vcore (t.setWidth 64)) tr

/-! ## How an engine reaches memory (R266, R283) -/

/-- What comes of a piece or of a command's work. -/
inductive EngOut where
  | done
  | stop (c : TrapCode) (va : Nat)
  | status (n : Byte)
  | waits
  deriving DecidableEq, Repr

/-- The code with which a piece stops for a failure of translation: PAGE, or ACCESS for every other (R283). -/
def engCode (c : TrapCode) : TrapCode := if c = .page then .page else .access

/-- A command waits for a pull (R365). -/
def State.engPull (s : State) (g : CoreId) (q : QueueId) (m : Cmd) (pteAt : Nat) (pte : Word) (va : Nat) : State × EngOut :=
  match s.startPull m.dom pteAt pte 0 none with
  | none => (s, .stop .access va)
  | some s1 =>
    (s1.modDie (dieOf (pteAddr pte)) (fun d => { d with pulls := d.pulls.map (fun p =>
      if p.dpa = pteAddr pte && !p.cmds.any (fun x => x.1 == g && x.2.1 == q && x.2.2.1 == m.pos) then { p with cmds := p.cmds ++ [(g, q, m.pos, BitVec.ofNat 48 va)] } else p) }), .waits)

/-- A region's entry or its home lies on a die that cannot be reached (R345). -/
def State.regionCut (s : State) (g : CoreId) (d : Dom) (idx : BitVec 6) : Bool :=
  match s.regionHeld d idx with
  | some e =>
    let h : DieId := Fin.ofNat 6 (e.dws[0].extractLsb' 52 3).toNat
    h != g.die && (s.dieLost h || s.dieLost g.die)
  | none =>
    let va : VA := BitVec.ofNat 48 ((s.dom d).regiontab.toNat + 64 * idx.toNat)
    match s.walk g.die d va with
    | .ok l => s.cutOff g (leafAddr l.pte l.level.val va)
    | .error _ => false

/-- What a command comes to at an EXIST page whose tile is not found: ACCESS where a die is lost, else BADREGION (R258, R345). -/
def State.regionOut (s : State) (g : CoreId) (m : Cmd) (idx : BitVec 6) (va : Nat) : EngOut :=
  if s.regionCut g m.dom idx then .stop .access va else .status stBadRegion

/-- The place of a VA for a command (R266); a page that migrates is waited for (R225). -/
def State.engPlace (s : State) (g : CoreId) (q : QueueId) (m : Cmd) (a : Acc) (va : Nat) : State × Except EngOut Loc :=
  if 2 ^ 48 ≤ va then (s, .error (.stop .access va))
  else if inScratch va then
    (s, if (s.core g).bankOk m.dom va then .ok (.scratch (va - scratchBase)) else .error (.stop .access va))
  else
    match s.xlate g m.dom a false (BitVec.ofNat 48 va) with
    | (s1, .error (.trap c)) => (s1, .error (.stop (engCode c) va))
    | (s1, .error (.pull x p)) =>
      match s1.engPull g q m x p va with
      | (s2, o) => (s2, .error o)
    | (s1, .ok x) =>
      if pteBit x.pte 11 then
        match s1.tileRef g m.dom (pteRegion x.pte) va with
        | (s2, .error (.trap _)) => (s2, .error (s2.regionOut g m (pteRegion x.pte) va))
        | (s2, .error (.pull x p)) =>
          match s2.engPull g q m x p va with
          | (s3, o) => (s3, .error o)
        | (s2, .ok t) => (s2, .ok (.tile (pteRegion x.pte) t.t ((va - t.region.base) % t.region.tile)))
      else if s1.migrating x.pa then (s1, .error .waits)
      else (s1, .ok (.mem x.pa (pteMt x.pte) (pteGrain x.pte)))

/-- The first VA, of those that begin the further pages of an extent, at which it leaves a tile: none of them, or the end `hi`. -/
def State.spanEnd (s : State) (g : CoreId) (q : QueueId) (m : Cmd) (a : Acc) (idx : BitVec 6) (t hi : Nat) :
    List Nat → State × Except EngOut Nat
  | [] => (s, .ok hi)
  | va :: l =>
    match s.engPlace g q m a va with
    | (s1, .error o) => (s1, .error o)
    | (s1, .ok (.tile i u _)) => if i = idx && u = t then s1.spanEnd g q m a idx t hi l else (s1, .ok va)
    | (s1, .ok _) => (s1, .ok va)

/-- The pages that an extent enters after its first. -/
def laterPages (va n : Nat) : List Nat := (pageSteps va n).drop 1

/-- The next piece of an extent of `rest` bytes: its place, and how far one event reaches: the part of a tile, whatever its size, or
bytes of memory and scratch to the end of a 512-byte block, and no more than `cap` (R266). -/
def State.engSpan (s : State) (g : CoreId) (q : QueueId) (m : Cmd) (a : Acc) (cap va rest : Nat) : State × Except EngOut (Loc × Nat) :=
  match s.engPlace g q m a va with
  | (s1, .error o) => (s1, .error o)
  | (s1, .ok (.tile idx t off)) =>
    match s1.tileAt g m.dom idx (BitVec.ofNat 48 va) with
    | (s2, none) => (s2, .error (s2.regionOut g m idx va))
    | (s2, some x) =>
      let n := min rest (x.region.tile - off)
      match s2.spanEnd g q m a idx t (va + n) (laterPages va n) with
      | (s3, .error o) => (s3, .error o)
      | (s3, .ok hi) => (s3, .ok (.tile idx t off, hi - va))
  | (s1, .ok l) => (s1, .ok (l, min rest (min (512 - va % 512) cap)))

/-- Bytes that a piece of memory may have in the turn of an engine, in elements of z bytes (R209, R305). -/
def State.pieceCap (s : State) (z : Nat) : Nat := if s.piece = 0 then 512 else (s.piece + z - 1) / z * z

/-- n bytes at a place, all in one 512-byte block or one tile. DESIGN CHOICE: a POISON stop names the first byte of the piece read, whichever
of its bytes is poisoned, where R284 does not say which byte the faulting VA is (log 91). -/
def State.engLoad (s : State) (g : CoreId) (m : Cmd) (va : Nat) (l : Loc) (n : Nat) : State × Except EngOut (List Byte) :=
  match l with
  | .scratch off => (s, .ok ((s.core g).scratchRead off n))
  | .mem pa _ _ => if s.poisonedAt pa n then (s, .error (.stop .poison va)) else (s, .ok (s.cohRead pa n))
  | .tile idx _ off =>
    match s.tileAt g m.dom idx (BitVec.ofNat 48 va) with
    | (s1, none) => (s1, .error (.status stBadRegion))
    | (s1, some t) =>
      if s1.tilePresent t && s1.poisonedAt (s1.tilePa t + off) n then (s1, .error (.stop .poison va))
      else (s1, .ok (s1.tileRead t off n))
  | .unplaced => (s, .error (.stop .access va))

/-- A read of one piece. -/
def State.engRead (s : State) (g : CoreId) (q : QueueId) (m : Cmd) (va n : Nat) : State × Except EngOut (List Byte) :=
  match s.engPlace g q m .read va with
  | (s1, .error o) => (s1, .error o)
  | (s1, .ok l) => s1.engLoad g m va l n

/-- Stored bytes of memory: clean copies of the issuing core's L1 and fill data on its way do not hide them (R208, R218). -/
def State.engHide (s : State) (g : CoreId) (d : Dom) (pa n : Nat) : State :=
  (s.dropOwnClean g d ⟨pa, n⟩).hideFills g ⟨pa, n⟩

/-- A posted write of a command: its launch counts it, and the command's completion at pod scope waits for it (R218, R344). -/
def State.engPosted (s : State) (g : CoreId) (q : QueueId) (m : Cmd) : State :=
  let id := s.nextPend
  let s1 : State := { s with
    nextPend := id + 1
    launches := s.launches.map (fun (l : Launch) => if some l.lid = m.lid then { l with remote := l.remote + 1 } else l) }
  (s1.send [.posted g id m.lid]).modCmd g q m.pos (fun x => { x with posted := id :: x.posted })

/-- Bytes stored at a place, all in one 512-byte block or one tile (R266). -/
def State.engStore (s : State) (g : CoreId) (q : QueueId) (m : Cmd) (va : Nat) (l : Loc) (bs : List Byte) : State × EngOut :=
  match l with
  | .scratch off => (s.scratchWrite g m.dom off bs, .done)
  | .mem pa _ _ =>
    let s1 := (s.storeFrom g.die m.dom pa bs).engHide g m.dom pa bs.length
    (if l.remote then s1.engPosted g q m else s1, .done)
  | .tile idx _ off =>
    match s.tileAt g m.dom idx (BitVec.ofNat 48 va) with
    | (s1, none) => (s1, .status stBadRegion)
    | (s1, some t) =>
      match s1.tileWrite m.dom t off bs with
      | some s2 => (s2, .done)
      | none => (s1, .stop .allocfail va)
  | .unplaced => (s, .stop .access va)

/-- A write of one piece. -/
def State.engWrite (s : State) (g : CoreId) (q : QueueId) (m : Cmd) (va : Nat) (bs : List Byte) : State × EngOut :=
  match s.engPlace g q m .write va with
  | (s1, .error o) => (s1, o)
  | (s1, .ok l) => s1.engStore g q m va l bs

/-- Fuel for the pieces of a length. -/
def pieceFuel (len : Nat) : Nat := len / 128 + 8

/-- Fuel for the pieces of a length in the turn of an engine: all of them, or one. -/
def State.turnFuel (s : State) (len : Nat) : Nat := if s.piece = 0 then pieceFuel len else 1

/-- The next piece of a read: as many bytes as one event reaches. -/
def State.engNext (s : State) (g : CoreId) (q : QueueId) (m : Cmd) (a : Acc) (cap va rest : Nat) : State × Except EngOut (List Byte) :=
  match s.engSpan g q m a cap va rest with
  | (s1, .error o) => (s1, .error o)
  | (s1, .ok (l, n)) => s1.engLoad g m va l n

/-- Bytes of an extent, piece by piece in ascending order. -/
def State.engReadRun (s : State) (g : CoreId) (q : QueueId) (m : Cmd) (va : Nat) : Nat → Nat → State × Except EngOut (List Byte)
  | 0, _ => (s, .ok [])
  | fuel + 1, len =>
    if len = 0 then (s, .ok [])
    else
      match s.engNext g q m .read 512 va len with
      | (s1, .error o) => (s1, .error o)
      | (s1, .ok bs) =>
        match s1.engReadRun g q m (va + bs.length) fuel (len - bs.length) with
        | (s2, .error o) => (s2, .error o)
        | (s2, .ok rest) => (s2, .ok (bs ++ rest))

/-- Bytes stored over an extent, piece by piece: the number stored, and what ended them; where the fuel ends, the command waits for its
next turn. -/
def State.engWriteRun (s : State) (g : CoreId) (q : QueueId) (m : Cmd) (cap va : Nat) : Nat → List Byte → State × Nat × EngOut
  | 0, bs => (s, 0, if bs.isEmpty then .done else .waits)
  | fuel + 1, bs =>
    if bs.isEmpty then (s, 0, .done)
    else
      match s.engSpan g q m .write cap va bs.length with
      | (s1, .error o) => (s1, 0, o)
      | (s1, .ok (l, n)) =>
        match s1.engStore g q m va l (bs.take n) with
        | (s2, .done) =>
          match s2.engWriteRun g q m cap (va + n) fuel (bs.drop n) with
          | (s3, k, o) => (s3, n + k, o)
        | (s2, o) => (s2, 0, o)

/-- A command's work has come to an end, a stop or a wait, with its progress noted. -/
def State.cmdOut (s : State) (g : CoreId) (q : QueueId) (m : Cmd) (f : Cmd → Cmd) (o : EngOut) (result : Word) : State :=
  let s1 := s.modCmd g q m.pos f
  match o with
  | .done => s1.modCmd g q m.pos (fun x => { x with st := .done stOk result })
  | .status n => s1.modCmd g q m.pos (fun x => { x with st := .done n result })
  | .stop c va => s1.stopCmd g q m.pos c (BitVec.ofNat 48 va)
  | .waits => s1.modCmd g q m.pos (fun x => { x with st := .running })

/-! ## ENQ and ENQT (R101, R254, R261, R282) -/

/-- The registers of a tile command. -/
def quadRegs (d : Spec) : List RegName := (List.range 4).map (fun k => .x (xIndex d + BitVec.ofNat 5 k))

/-- The tile command in four registers. -/
def Slot.tcw (sl : Slot) (d : Spec) : Tcw :=
  let r := fun k => sl.readX (xIndex d + k)
  ⟨r 0, r 1, r 2, r 3⟩

/-- TIDs that a command names, in the order of their fetches (R101). -/
def tcwTids (t : Tcw) : List Byte :=
  let n := t.op.toNat
  if n = 16 then [t.w0.extractLsb' 16 8, t.w0.extractLsb' 8 8]
  else if n = 17 ∨ n = 18 then [t.w0.extractLsb' 16 8] else []

/-- What comes of fetching a command's entries. -/
inductive TidsRes where
  | ok (l : List (VA × Vector Word 8))
  | bad (t : Trap)
  | waits

/-- The entries of TIDs fetched in order. -/
def State.tidFetchAll (s : State) (g : CoreId) (i : SlotId) : List Byte → State × TidsRes
  | [] => (s, .ok [])
  | t :: l =>
    let sl := s.slot g i
    match s.tidFetch g sl.dom t sl.task.act (some (g, i, sl.task.act)) with
    | (s1, .bad t) => (s1, .bad t)
    | (s1, .waits) => (s1, .waits)
    | (s1, .ok ws) =>
      match s1.tidFetchAll g i l with
      | (s2, .ok r) => (s2, .ok ((s.tidVa sl.dom t, Vector.ofFn (fun k => ws.getD k.val 0)) :: r))
      | r => r

/-- The format is one that the matrix unit takes (R274, R277). -/
def TFmt.matrix : TFmt → Bool
  | .std t => t == .f32 || t == .f16 || t == .bf16
  | .narrow _ => true

/-- The entry is valid, with an accepted format and a block of rows and columns within it (R282). -/
def blockOk (ws : Vector Word 8) (row rows col cols : Nat) (held : Bool) : Bool :=
  match tidOf ws.toList with
  | some t => t.fmt.matrix && decide (row + rows ≤ t.rows) && decide (col + cols ≤ t.cols) && (!held || t.scr || t.sparse)
  | none => false

/-- The tensor checks of a command (R282). -/
def tensorsOk (i : Instr) (tids : List (VA × Vector Word 8)) : Bool :=
  match i, tids with
  | .mma c, [a, b] =>
    let k := 32 * (c.kb.toNat + 1)
    blockOk a.2 c.arow.toNat (if c.ta then k else 64) c.acol.toNat (if c.ta then 64 else k) true &&
      blockOk b.2 c.brow.toNat (if c.tb then 64 else k) c.bcol.toNat (if c.tb then k else 64) true
  | .mlda c, [a] => blockOk a.2 c.row.toNat 64 c.col.toNat 64 false
  | .msta c, [a] => blockOk a.2 c.row.toNat 64 c.col.toNat 64 false
  | .mma _, _ => false
  | .mlda _, _ => false
  | .msta _, _ => false
  | _, _ => true

/-- The bounding range of a tensor (R261). -/
def boundRange (ws : Vector Word 8) (written : Bool) : List SbRange :=
  match tidOf ws.toList with
  | some t => [⟨t.base, (t.rows - 1) * t.stride + t.rowBytes, written⟩]
  | none => []

/-- The ranges that a command records, in the order of the table of R261; one of zero length is none. -/
def cmdRanges (i : Instr) (tids : List (VA × Vector Word 8)) : List SbRange :=
  let two := fun (c : CopyCmd) => [(⟨c.src.toNat, c.len.toNat, false⟩ : SbRange), ⟨c.dst.toNat, c.len.toNat, true⟩]
  let acc := fun (c : AccumCmd) => [(⟨c.src.toNat, c.len.toNat, false⟩ : SbRange), ⟨c.dst.toNat, c.len.toNat, true⟩]
  let rows := fun (c : GatherCmd) => (c.count.toNat + 1) * (c.rb.toNat + 1)
  let idx := fun (c : GatherCmd) => (⟨c.idx.toNat, (c.count.toNat + 1) * (if c.wide then 8 else 4), false⟩ : SbRange)
  let l : List SbRange := match i with
    | .copy c => two c
    | .xcopy _ c => two c
    | .accum c => acc c
    | .accumOrdered c => acc c
    | .copy2 c =>
      [⟨c.src.toNat, c.rows.toNat * c.sstr.toNat + c.rb.toNat + 1, false⟩, ⟨c.dst.toNat, c.rows.toNat * c.dstr.toNat + c.rb.toNat + 1, true⟩]
    | .fill c => [⟨c.dst.toNat, c.len.toNat, true⟩]
    | .mma _ => tids.flatMap (fun t => boundRange t.2 false)
    | .mlda _ => tids.flatMap (fun t => boundRange t.2 false)
    | .msta _ => tids.flatMap (fun t => boundRange t.2 true)
    | .msave c => [⟨c.va.toNat, 16384, true⟩]
    | .mrstr c => [⟨c.va.toNat, 16384, false⟩]
    | .gather c => [idx c, ⟨c.dense.toNat, rows c, true⟩]
    | .scatter c => [idx c, ⟨c.dense.toNat, rows c, false⟩]
    | .scatterAdd c => [idx c, ⟨c.dense.toNat, rows c, false⟩]
    | .gsum c => [idx c]
    | .dispatch c => [⟨c.desc.toNat, 512, false⟩]
    | _ => []
  l.filter (fun r => r.len != 0)

/-- A range touches a scratch bank outside the domain's (R282). -/
def Core.rangeBad (c : Core) (d : Dom) (r : SbRange) : Bool :=
  let lo := max r.va scratchBase
  let hi := min (r.va + r.len) (2 ^ 48)
  (List.range 32).any (fun b =>
    let at_ := scratchBase + 16384 * b
    decide (lo < hi) && decide (at_ < hi) && decide (lo < at_ + 16384) && !c.bankOk d at_)

/-- The number that names a command's barrier (R99, R299). -/
def barNumber (h : Hdr) : Word := BitVec.ofNat 64 ((h.cscope.toNat + 2) * 256 + (h.bar.toNat - 1))

/-- The first failure of step 4 of R101: its ADDR. -/
def State.domainFail (s : State) (g : CoreId) (d : Dom) (t : Tcw) (rs : List SbRange) : Option Word :=
  let c := s.core g
  let accs : BitVec 16 := match c.entryOf d with
    | some e => c.part[e].accs
    | none => 0
  match (tcwAccs t).find? (fun a => !accs.getLsbD a) with
  | some a => some (BitVec.ofNat 64 a)
  | none =>
    let bar := match barOfCmd g t.hdr with
      | some r => (s.bar r).owner != some d
      | none => false
    if bar then some (barNumber t.hdr)
    else (rs.find? (c.rangeBad d)).map (fun (r : SbRange) => BitVec.ofNat 64 r.va)

/-- Entries of a queue (R78, R280). -/
def queueCap (q : QueueId) : Nat :=
  match q with
  | 0 => 32
  | 1 => 16
  | 2 => 16
  | 3 => 8

/-- The counter of a queue stands at 63. -/
def cntFull (c : Counters) (q : QueueId) : Bool :=
  match q with
  | 0 => c.cp == 63
  | 1 => c.mx == 63
  | 2 => c.gx == 63
  | 3 => false

/-- The counters with a queue's raised. -/
def cntUp (c : Counters) (q : QueueId) : Counters :=
  match q with
  | 0 => { c with cp := c.cp + 1 }
  | 1 => { c with mx := c.mx + 1 }
  | 2 => { c with gx := c.gx + 1 }
  | 3 => c

/-- The queue, the scoreboard or the counter has no room (R254). -/
def Core.enqFull (c : Core) (q : QueueId) (cnt : Counters) (n : Nat) : Bool :=
  let used := c.queues.toList.foldl (fun k l => l.foldl (fun k m => k + m.ranges.length) k) 0
  decide (queueCap q ≤ c.queues[q].length) || decide (64 < used + n) || cntFull cnt q

/-- The lowest position that no command of a queue has. -/
def Core.freePos (c : Core) (q : QueueId) : Fin 32 :=
  ((List.finRange 32).find? (fun p => !c.queues[q].any (fun m => m.pos == p))).getD 0

/-- A command joins its queue (R254). -/
def State.enqueue (s : State) (g : CoreId) (i : SlotId) (q : QueueId) (t : Tcw) (rs : List SbRange) (tids : List (VA × Vector Word 8)) :
    State :=
  let sl := s.slot g i
  let seq := sl.q[q].seq + 1
  let m : Cmd := ⟨(s.core g).freePos q, t, sl.dom, i, sl.level, seq, (s.dom sl.dom).notify[q], sl.frm, sl.task.tr.launch, sl.task.tr.tidx,
    sl.task.team, sl.task.act, s.nextPend, sl.acq, rs, tids, .waiting, 0, 0, 0, [], []⟩
  s.modCore g (fun c =>
    let c1 := c.setQueue q (c.queues[q] ++ [m])
    c1.setSlot i { c1.slots[i] with cnt := cntUp c1.slots[i].cnt q, q := c1.slots[i].q.set q { c1.slots[i].q[q] with seq := seq } })

/-- ENQ and ENQT: the checks of R101 in their order, then the room, then the command joins its queue. -/
def enqOp (f : FmtS) (s : State) (try_ : Bool) : Host.Outcome State Fault Refusal :=
  runCore s (specRegs [f.dst] ++ quadRegs f.sa) (fun g i sl =>
    let q : QueueId := Fin.ofNat 4 (f.imm.extractLsb' 0 2).toNat
    let t := sl.tcw f.sa
    let bad := raise s g i (trapOf .engineIllegal)
    if !tcwQueue t.op q || t.w0.extractLsb' 48 6 != 0 || !t.hdr.ok then bad
    else
      match s.tidFetchAll g i (tcwTids t) with
      | (s1, .bad x) => raise s1 g i x
      | (s1, .waits) => s1
      | (s1, .ok tids) =>
        match decodeTcw t with
        | .error _ => raise s1 g i (trapOf .engineIllegal)
        | .ok c =>
          let rs := cmdRanges c tids
          if !tensorsOk c tids || (t.hdr.ntfy && !(s1.dom sl.dom).notify[q].getLsbD 63) then raise s1 g i (trapOf .engineIllegal)
          else
            match s1.domainFail g sl.dom t rs with
            | some a => raise s1 g i ⟨.domain, a, 0⟩
            | none =>
              if (s1.core g).enqFull q sl.cnt rs.length then (if try_ then (s1.putX g i f.dst 1).pcNext g i else s1)
              else ((s1.enqueue g i q t rs tids).putX g i f.dst (if try_ then 0 else sl.q[q].seq + 1)).pcNext g i)

/-- ENQ (R254). -/
def execEnq (f : FmtS) (s : State) : Host.Outcome State Fault Refusal := enqOp f s false
/-- ENQT (R254). -/
def execEnqt (f : FmtS) (s : State) : Host.Outcome State Fault Refusal := enqOp f s true

/-! ## QSEQ (R256) -/

/-- The queue that QSEQ names. -/
def qseqQueue (f : FmtS) : QueueId := Fin.ofNat 4 (f.imm.extractLsb' 0 2).toNat

/-- QSEQ: the retirement count, and the acquire of those completions (R218, R256). -/
def execQseq (f : FmtS) (s : State) : Host.Outcome State Fault Refusal :=
  runCore s (specRegs [f.dst]) (fun g i sl =>
    let q := qseqQueue f
    let s1 := s.putX g i f.dst sl.q[q].ret
    (if sl.eng.getLsbD q.val then s1.acquireDrop g else s1).pcNext g i)

/-- QSEQ err: the retired commands whose status was not OK (R256). -/
def execQseqErr (f : FmtS) (s : State) : Host.Outcome State Fault Refusal :=
  runCore s (specRegs [f.dst]) (fun g i sl => (s.putX g i f.dst (sl.q[qseqQueue f].err.setWidth 64)).pcNext g i)

/-! ## Completion and retirement (R255, R258 to R260) -/

/-- A completed command of an activation and queue retires once none with a lower number is left (R255). -/
def Core.mayRetire (c : Core) (d : DoneCmd) : Bool :=
  !c.queues[d.q].any (fun m => m.act == d.act && decide (m.seq.toNat < d.seq.toNat)) &&
    !c.doneCmds.any (fun e => e.act == d.act && e.q == d.q && decide (e.seq.toNat < d.seq.toNat))

/-- Every command that may retire does, in order of its number. -/
def State.retireCmds (s : State) (g : CoreId) : Nat → State
  | 0 => s
  | n + 1 =>
    match (s.core g).doneCmds.find? ((s.core g).mayRetire) with
    | none => s
    | some d =>
      ((s.modCore g (fun c => { c with doneCmds := c.doneCmds.erase d })).count g d.act (.ret d.q d.ok)).retireCmds g n

/-- The commands of a queue that a completion frees have counted. -/
def State.countCmd (s : State) (g : CoreId) (q : QueueId) (act : Nat) : State :=
  match q with
  | 0 => s.count g act (.cmd 0)
  | 1 => s.count g act (.cmd 1)
  | 2 => s.count g act (.cmd 2)
  | 3 => s

/-- The slot notes a completion whose release reaches beyond the core (R138, R218). -/
def State.noteEng (s : State) (g : CoreId) (q : QueueId) (m : Cmd) : State :=
  if m.tcw.hdr.cscope = 0 ∧ m.tcw.hdr.bar = 0 then s
  else
    match (s.core g).slotOf m.act with
    | some i => s.modSlot g i (fun sl => { sl with eng := sl.eng ||| (1#4 <<< q.val) })
    | none => s

/-- Posted writes of a command are not all acknowledged. -/
def State.awaitsPosted (s : State) (m : Cmd) : Bool :=
  s.net.any (fun x => match x with
    | .posted _ id _ => m.posted.contains id
    | _ => false)

/-- The contributions of a command are gone from every list. -/
def State.dropContribs (s : State) (g : CoreId) (q : QueueId) (pos : Fin 32) : State :=
  let keep := fun (l : List Contribution) => l.filter (fun c => !c.isOf g q pos)
  { s with contribs := keep s.contribs, staged := keep s.staged, refused := keep s.refused }

/-- COMMAND_COMPLETION (R258): release, barrier arrival, notice; the queue entry and the ranges are freed, the counts follow, and accesses
that the ranges held back are tried. -/
def State.completeCmd (s : State) (g : CoreId) (q : QueueId) (pos : Fin 32) : Option State :=
  match (s.core g).cmdAt q pos with
  | none => none
  | some m =>
    match m.st with
    | .done status result =>
      if m.tcw.hdr.cscope = 3 && s.awaitsPosted m then none
      else
        let s1 := s.noteEng g q m
        let s2 := match barOfCmd g m.tcw.hdr with
          | some r => (s1.barArrive r).1
          | none => s1
        let s3 := s2.modCore g (fun c => c.setQueue q (c.queues[q].filter (fun x => x.pos != pos)))
        let s4 := if m.tcw.hdr.ntfy then s3.sendNotice g q m status result else s3
        let s5 := s4.countCmd g q m.act
        let s6 := s5.modCore g (fun c => { c with doneCmds := c.doneCmds ++ [⟨m.act, q, m.seq, status == stOk⟩] })
        some ((((s6.retireCmds g (s6.core g).doneCmds.length).dropContribs g q pos).freeTeamBars g.die g.quad).heldCore g)
    | _ => none

/-- COMMAND_COMPLETION. -/
def execCommandCompletion (g : CoreId) (q : QueueId) (pos : Nat) (s : State) : Host.Outcome State Fault Refusal :=
  .next ((s.completeCmd g q (Fin.ofNat 32 pos)).getD s)

/-! ## SIGNAL (R281) -/

/-- SIGNAL: it has done its work when no earlier command of its queue is left; until then it waits in progress, and later commands
start (R219). -/
def execSignal (_h : Hdr) (s : State) : Host.Outcome State Fault Refusal :=
  runCmd s (fun g q m =>
    let before := (s.core g).queues[q].takeWhile (fun x => x.pos != m.pos)
    s.cmdOut g q m id (if before.isEmpty then .done else .waits) 0)

/-! ## RESUME and ABORT of a command (R286) -/

/-- The stopped command of a core that a handle names. -/
def State.stoppedAt (s : State) (d : Dom) (h : Word) (g : CoreId) : Option (CoreId × QueueId × Cmd) :=
  let q : QueueId := Fin.ofNat 4 (h.extractLsb' 52 2).toNat
  match (s.core g).cmdAt q (Fin.ofNat 32 (h.extractLsb' 47 5).toNat) with
  | some m =>
    if m.dom == d && s.handleOf g q m == h && (match m.st with
        | .stopped .. => true
        | _ => false) then some (g, q, m)
    else none
  | none => none

/-- The stopped command of a domain that a handle names (R285); the handle of a core without a number is looked for on every
core. -/
def State.stoppedCmd (s : State) (d : Dom) (h : Word) : Option (CoreId × QueueId × Cmd) :=
  if h.extractLsb' 54 10 = 0x3FF then (List.finRange 768).findSome? (s.stoppedAt d h)
  else
    match s.mapTarget d ((h.extractLsb' 54 10).setWidth 64) with
    | some (.local_ g) => s.stoppedAt d h g
    | _ => none

/-- The stopped command goes on from its piece, whose place is found again. It counts among the 8 in progress again, and waits for room among
them in the order of its queue (R257, R286); a DISPATCH goes back to the front end. -/
def State.resumeStopped (s : State) (g : CoreId) (q : QueueId) (m : Cmd) : State :=
  s.modCmd g q m.pos (fun x => { x with st := if x.tcw.op.toNat = 48 then .issued else .waiting })

/-- The stopped command ends with status ABORTED; its RESULT counts what it has performed (R260). -/
def State.abortStoppedCmd (s : State) (g : CoreId) (q : QueueId) (m : Cmd) : State :=
  (s.modCmd g q m.pos (fun x => { x with st := .done stAborted x.resultNow })).dropContribs g q m.pos

end Sys2Proof.Machine
end

