-- ==== Sys2Proof/Machine/CopyCmds.lean ====
section
/-! DEFINITION. The copy queue: COPY, COPY2, FILL, XCOPY, ACCUM in both modes, and the homes of ordered contributions (R125, R266 to
R272). -/

namespace Sys2Proof.Machine

/-! ## Copies (R267, R268, R272) -/

/-- The destination begins within the source, so that a write could hide a byte not yet read (R267). -/
def copyMeets (src dst len : Nat) : Bool := decide (src < dst) && decide (dst < src + len)

/-- Events of a copy of `len` bytes from offset `off` on, with the bytes `buf` read and not yet written: in each, a piece of the source
is read, or a piece of the destination is written. All of the source is read first where a write could hide it, and all of what a tile
of the destination takes before that tile is written (R266, R267; log 80). The offset reached, the bytes kept, and what ended them. -/
def State.copyGo (s : State) (g : CoreId) (q : QueueId) (m : Cmd) (src dst len : Nat) : Nat → Nat → List Byte →
    State × Nat × List Byte × EngOut
  | 0, off, buf => (s, off, buf, if len ≤ off then .done else .waits)
  | fuel + 1, off, buf =>
    if len ≤ off then (s, off, [], .done)
    else
      let more := decide (off + buf.length < len)
      let fetch := fun (s : State) => s.engNext g q m .read (s.pieceCap 1) (src + off + buf.length) (len - off - buf.length)
      if more && (buf.isEmpty || copyMeets src dst len) then
        match fetch s with
        | (s1, .error o) => (s1, off, buf, o)
        | (s1, .ok bs) => s1.copyGo g q m src dst len fuel off (buf ++ bs)
      else
        match s.engSpan g q m .write (s.pieceCap 1) (dst + off) (len - off) with
        | (s1, .error o) => (s1, off, buf, o)
        | (s1, .ok (l, n)) =>
          if more && l.isTile && decide (buf.length < n) then
            match fetch s1 with
            | (s2, .error o) => (s2, off, buf, o)
            | (s2, .ok bs) => s2.copyGo g q m src dst len fuel off (buf ++ bs)
          else
            let k := min n buf.length
            match s1.engStore g q m (dst + off) l (buf.take k) with
            | (s2, .done) => s2.copyGo g q m src dst len fuel (off + k) (buf.drop k)
            | (s2, o) => (s2, off, buf, o)

/-- A run of `len` bytes copied from offset `off` on, in the turn of an engine. -/
def State.copyRun (s : State) (g : CoreId) (q : QueueId) (m : Cmd) (src dst len off : Nat) (buf : List Byte) :
    State × Nat × List Byte × EngOut :=
  s.copyGo g q m src dst len (s.turnFuel len) off buf

/-- COPY (R267). -/
def execCopy (c : CopyCmd) (s : State) : Host.Outcome State Fault Refusal :=
  runCmd s (fun g q m =>
    match s.copyRun g q m c.src.toNat c.dst.toNat c.len.toNat m.progress m.buf with
    | (s1, k, buf, o) => s1.cmdOut g q m (fun x => { x with progress := k, buf := buf }) o 0)

/-- The rows of COPY2 from one on, `left` of them, of which the first has `off` bytes stored already (R268): the bytes stored in all. -/
def State.copyRows (s : State) (g : CoreId) (q : QueueId) (m : Cmd) (c : Copy2Cmd) : Nat → Nat → List Byte →
    State × Nat × List Byte × EngOut
  | 0, off, _ => (s, c.rows.toNat * (c.rb.toNat + 1) + (c.rb.toNat + 1) + off, [], .done)
  | left + 1, off, buf =>
    let r := c.rows.toNat - left
    let n := c.rb.toNat + 1
    match s.copyRun g q m (c.src.toNat + r * c.sstr.toNat) (c.dst.toNat + r * c.dstr.toNat) n off buf with
    | (s1, _, _, .done) => s1.copyRows g q m c left 0 []
    | (s1, k, b, o) => (s1, r * n + k, b, o)

/-- COPY2 (R268). -/
def execCopy2 (c : Copy2Cmd) (s : State) : Host.Outcome State Fault Refusal :=
  runCmd s (fun g q m =>
    let n := c.rb.toNat + 1
    match s.copyRows g q m c (c.rows.toNat + 1 - m.progress / n) (m.progress % n) m.buf with
    | (s1, k, buf, o) => s1.cmdOut g q m (fun x => { x with progress := k, buf := buf }) o 0)

/-- Bytes of a fill pattern from an offset on (R269). -/
def fillBytes (pat : Word) (off n : Nat) : List Byte := (List.range n).map (fun k => pat.extractLsb' (8 * ((off + k) % 8)) 8)

/-- FILL (R269). -/
def execFill (c : FillCmd) (s : State) : Host.Outcome State Fault Refusal :=
  runCmd s (fun g q m =>
    let len := c.len.toNat
    match s.engWriteRun g q m (s.pieceCap 1) (c.dst.toNat + m.progress) (s.turnFuel len) (fillBytes c.pat m.progress (len - m.progress)) with
    | (s1, k, o) => s1.cmdOut g q m (fun x => { x with progress := m.progress + k }) o 0)

/-! ## XCOPY (R272) -/

/-- The pages of an extent all have EXIST = 1 and one tile size, which is given or found; a page that cannot be reached is left to its
piece, and one that a pull must bring is waited for (R38, R272). -/
def State.tileSizes (s : State) (g : CoreId) (q : QueueId) (m : Cmd) (z : Option Nat) : List Nat → State × Except EngOut (Option Nat)
  | [] => (s, .ok z)
  | va :: l =>
    if 2 ^ 48 ≤ va || inScratch va then (s, .error (.status stBadRegion))
    else
      match s.xlate g m.dom .look false (BitVec.ofNat 48 va) with
      | (s1, .error (.trap c)) => if z.isNone then (s1, .error (.stop (engCode c) va)) else s1.tileSizes g q m z l
      | (s1, .error (.pull x p)) =>
        match s1.engPull g q m x p va with
        | (s2, o) => (s2, .error o)
      | (s1, .ok x) =>
        if !pteBit x.pte 11 then (s1, .error (.status stBadRegion))
        else
          match s1.tileRef g m.dom (pteRegion x.pte) va with
          | (s2, .error (.trap _)) => (s2, .error (s2.regionOut g m (pteRegion x.pte) va))
          | (s2, .error (.pull x p)) =>
            match s2.engPull g q m x p va with
            | (s3, o) => (s3, .error o)
          | (s2, .ok t) =>
            if z.isSome && z != some t.region.tile then (s2, .error (.status stBadRegion))
            else s2.tileSizes g q m (some t.region.tile) l

/-- What must hold before the first tile: nothing, or what ends the command. -/
def State.xcopyCheck (s : State) (g : CoreId) (q : QueueId) (m : Cmd) (mirror : Bool) (c : CopyCmd) : State × EngOut :=
  let src := c.src.toNat
  let dst := c.dst.toNat
  let len := c.len.toNat
  match s.tileSizes g q m none (pageSteps src len) with
  | (s1, .error o) => (s1, o)
  | (s1, .ok none) => (s1, .status stBadRegion)
  | (s1, .ok (some z)) =>
    if src % z ≠ 0 || len % z ≠ 0 then (s1, .status stBadRegion)
    else if !mirror then (s1, .done)
    else if dst % z ≠ 0 then (s1, .status stBadRegion)
    else
      match s1.tileSizes g q m (some z) (pageSteps dst len) with
      | (s2, .error o) => (s2, o)
      | (s2, .ok _) => (s2, .done)

/-- A source tile read together with its existence, as one event at its home (R272): its bytes, if it is present, and their number. -/
def State.xcopyTile (s : State) (g : CoreId) (q : QueueId) (m : Cmd) (va rest : Nat) :
    State × Except EngOut (Option (List Byte) × Nat) :=
  match s.engSpan g q m .read 512 va rest with
  | (s1, .error o) => (s1, .error o)
  | (s1, .ok (.tile idx t off, n)) =>
    match s1.tileAt g m.dom idx (BitVec.ofNat 48 va) with
    | (s2, none) => (s2, .error (s2.regionOut g m idx va))
    | (s2, some x) =>
      if !s2.tilePresent x then (s2, .ok (none, n))
      else
        match s2.engLoad g m va (.tile idx t off) n with
        | (s3, .error o) => (s3, .error o)
        | (s3, .ok bs) => (s3, .ok (some bs, n))
  | (s1, .ok _) => (s1, .error (.status stBadRegion))

/-- The destination tile of an absent source tile is erased (R201, R272). -/
def State.xcopyErase (s : State) (g : CoreId) (q : QueueId) (m : Cmd) (va n : Nat) : State × EngOut :=
  match s.engSpan g q m .write 512 va n with
  | (s1, .error o) => (s1, o)
  | (s1, .ok (.tile idx _ _, _)) =>
    match s1.tileAt g m.dom idx (BitVec.ofNat 48 va) with
    | (s2, none) => (s2, s2.regionOut g m idx va)
    | (s2, some x) => (s2.tileErase m.dom x, .done)
  | (s1, .ok _) => (s1, .status stBadRegion)

/-- Events of XCOPY from offset `off` on: a source tile is read, a piece of it is written, or the destination tile of an absent one is
erased. The offset reached, the tiles copied, the rest of a tile begun, and what ended them. -/
def State.xcopyGo (s : State) (g : CoreId) (q : QueueId) (m : Cmd) (mirror : Bool) (c : CopyCmd) :
    Nat → Nat → Nat → List Byte → State × Nat × Nat × List Byte × EngOut
  | 0, off, n, buf => (s, off, n, buf, if c.len.toNat ≤ off then .done else .waits)
  | fuel + 1, off, n, buf =>
    if c.len.toNat ≤ off then (s, off, n, [], .done)
    else if buf.isEmpty then
      match s.xcopyTile g q m (c.src.toNat + off) (c.len.toNat - off) with
      | (s1, .error o) => (s1, off, n, [], o)
      | (s1, .ok (some bs, _)) => s1.xcopyGo g q m mirror c fuel off n bs
      | (s1, .ok (none, z)) =>
        if mirror then
          match s1.xcopyErase g q m (c.dst.toNat + off) z with
          | (s2, .done) => s2.xcopyGo g q m mirror c fuel (off + z) n []
          | (s2, o) => (s2, off, n, [], o)
        else s1.xcopyGo g q m mirror c fuel (off + z) n []
    else
      match s.engSpan g q m .write (s.pieceCap 1) (c.dst.toNat + off) buf.length with
      | (s1, .error o) => (s1, off, n, buf, o)
      | (s1, .ok (l, k)) =>
        match s1.engStore g q m (c.dst.toNat + off) l (buf.take k) with
        | (s2, .done) => s2.xcopyGo g q m mirror c fuel (off + k) (if buf.length ≤ k then n + 1 else n) (buf.drop k)
        | (s2, o) => (s2, off, n, buf, o)

/-- XCOPY (R272). -/
def execXcopy (mirror : Bool) (c : CopyCmd) (s : State) : Host.Outcome State Fault Refusal :=
  runCmd s (fun g q m =>
    match (if m.progress = 0 && m.buf.isEmpty then s.xcopyCheck g q m mirror c else (s, .done)) with
    | (s1, .done) =>
      match s1.xcopyGo g q m mirror c (s.turnFuel c.len.toNat) m.progress m.count m.buf with
      | (s2, k, n, buf, o) => s2.cmdOut g q m (fun x => { x with progress := k, count := n, buf := buf }) o (BitVec.ofNat 64 n)
    | (s1, o) => s1.cmdOut g q m id o 0)

/-! ## ACCUM (R125, R270) -/

/-- One element added (R125, R270): RNE, SAT 0, or modulo 2^32. -/
def accumElem (t : EType) (old new : Word) : Word :=
  match t with
  | .f32 => (addStd .f32 .rne false old new).1
  | .bf16 => (addStd .bf16 .rne false old new).1
  | .s32 => old + new

/-- Elements added one by one. -/
def accumBytes (t : EType) : Nat → List Byte → List Byte → List Byte
  | 0, _, _ => []
  | n + 1, old, new =>
    bytesOf t.size (accumElem t (wordOf (old.take t.size)) (wordOf (new.take t.size))).toNat ++
      accumBytes t n (old.drop t.size) (new.drop t.size)

/-- The destination may be added into: MT 00 memory or a tile (R270). -/
def accumPlace (l : Loc) : Bool :=
  match l with
  | .mem _ mt _ => mt == 0
  | .tile .. => true
  | .scratch _ | .unplaced => false

/-- Elements at a place of the destination, added at their home. -/
def State.accumAt (s : State) (g : CoreId) (q : QueueId) (m : Cmd) (t : EType) (va : Nat) (l : Loc) (bs : List Byte) : State × EngOut :=
  match s.engLoad g m va l bs.length with
  | (s1, .error o) => (s1, o)
  | (s1, .ok old) => s1.engStore g q m va l (accumBytes t (bs.length / t.size) old bs)

/-- A piece of the destination, with its place checked. -/
def State.accumSpot (s : State) (g : CoreId) (q : QueueId) (m : Cmd) (va : Nat) : State × Except EngOut Loc :=
  match s.engPlace g q m .write va with
  | (s1, .error o) => (s1, .error o)
  | (s1, .ok l) => if accumPlace l then (s1, .ok l) else (s1, .error (.stop .access va))

/-- Events of the unordered mode, from offset `off` on, with the bytes `buf` of the source read and not yet added: in each, a piece of the
source is read, a tile of it whole, or the elements of a piece of the destination are added to (R266, R270; log 80). -/
def State.accumPieces (s : State) (g : CoreId) (q : QueueId) (m : Cmd) (c : AccumCmd) : Nat → Nat → List Byte →
    State × Nat × List Byte × EngOut
  | 0, off, buf => (s, off, buf, if c.len.toNat ≤ off then .done else .waits)
  | fuel + 1, off, buf =>
    if c.len.toNat ≤ off then (s, off, [], .done)
    else
      let dst := c.dst.toNat + off
      match s.engSpan g q m .write (s.pieceCap c.ety.size) dst (c.len.toNat - off) with
      | (s1, .error o) => (s1, off, buf, o)
      | (s1, .ok (l, n)) =>
        if !accumPlace l then (s1, off, buf, .stop .access dst)
        else if buf.length < n then
          match s1.engNext g q m .read (s1.pieceCap 1) (c.src.toNat + off + buf.length) (c.len.toNat - off - buf.length) with
          | (s2, .error o) => (s2, off, buf, o)
          | (s2, .ok bs) => s2.accumPieces g q m c fuel off (buf ++ bs)
        else
          match s1.accumAt g q m c.ety dst l (buf.take n) with
          | (s2, .done) => s2.accumPieces g q m c fuel (off + n) (buf.drop n)
          | (s2, o) => (s2, off, buf, o)

/-- ACCUM, unordered (R270). -/
def execAccum (c : AccumCmd) (s : State) : Host.Outcome State Fault Refusal :=
  runCmd s (fun g q m =>
    match s.accumPieces g q m c (s.turnFuel c.len.toNat) m.progress m.buf with
    | (s1, k, buf, o) => s1.cmdOut g q m (fun x => { x with progress := k, buf := buf }) o 0)

/-! ## Ordered contributions (R271) -/

/-- The granule of a place: its kind, its number, and the offset within it. -/
def Loc.granule (l : Loc) : Nat × Nat × Nat :=
  match l with
  | .mem pa _ _ => (0, 0, pa / 512)
  | .tile i t off => (1 + i.toNat, t, off / 512)
  | .scratch off => (65, 0, off / 512)
  | .unplaced => (66, 0, 0)

/-- The offset of a place in its granule. -/
def Loc.inGranule (l : Loc) : Nat :=
  match l with
  | .mem pa _ _ => pa % 512
  | .tile _ _ off => off % 512
  | .scratch off => off % 512
  | .unplaced => 0

/-- Two places lie in one granule; tiles are told apart by their domain. -/
def sameGranule (d : Dom) (a : Loc) (e : Dom) (b : Loc) : Bool := a.granule == b.granule && (a.granule.1 == 0 || d == e)

/-- The home slice of a place. -/
def State.homeOf (s : State) (g : CoreId) (d : Dom) (va : Nat) (l : Loc) : State × (DieId × Fin 16) :=
  match l with
  | .mem pa _ _ => (s, (dieOf pa, homeSlice pa))
  | .tile idx t _ =>
    match s.tileAt g d idx (BitVec.ofNat 48 va) with
    | (s1, some x) => (s1, (x.region.home, tileSlice idx.toNat t))
    | (s1, none) => (s1, (0, tileSlice idx.toNat t))
  | .scratch _ | .unplaced => (s, (g.die, 0))

/-- The contributions of a command are sent to the granules of its destination, from offset `off` on, with the bytes `buf` of the source
read and not yet sent; a tile of the source is read whole, as one event (R266). -/
def State.sendContribs (s : State) (g : CoreId) (q : QueueId) (m : Cmd) (c : AccumCmd) : Nat → Nat → List Byte →
    State × Nat × List Byte × EngOut
  | 0, off, buf => (s, off, buf, if c.len.toNat ≤ off then .done else .waits)
  | fuel + 1, off, buf =>
    if c.len.toNat ≤ off then (s, off, [], .done)
    else
      let dst := c.dst.toNat + off
      let n := min (512 - dst % 512) (c.len.toNat - off)
      if buf.length < n then
        match s.engNext g q m .read (s.pieceCap 1) (c.src.toNat + off + buf.length) (c.len.toNat - off - buf.length) with
        | (s1, .error o) => (s1, off, buf, o)
        | (s1, .ok bs) => s1.sendContribs g q m c fuel off (buf ++ bs)
      else
        match s.accumSpot g q m dst with
        | (s1, .error o) => (s1, off, buf, o)
        | (s1, .ok l) =>
          match s1.homeOf g m.dom dst l with
          | (s2, h) =>
            let x : Contribution := ⟨g, q, m.pos, BitVec.ofNat 48 dst, l, m.dom, c.ety, c.count, c.slice, buf.take n, h, 0, false⟩
            ({ s2 with contribs := s2.contribs ++ [x] } : State).sendContribs g q m c fuel (off + n) (buf.drop n)

/-- A command all of whose contributions have been taken has done its work: OK, or CONFLICT if one of its granules did not match. -/
def State.accumDone (s : State) (g : CoreId) (q : QueueId) (pos : Fin 32) : State :=
  match (s.core g).cmdAt q pos with
  | none => s
  | some m =>
    if m.st == .issued && !(s.contribs ++ s.staged ++ s.refused).any (fun c => c.isOf g q pos) then
      s.modCmd g q pos (fun x => { x with st := .done (if x.count = 0 then stOk else stConflict) 0 })
    else s

/-- ACCUM, ordered (R271): the engine sends its contributions, and the command then waits for their homes. -/
def execAccumOrdered (c : AccumCmd) (s : State) : Host.Outcome State Fault Refusal :=
  runCmd s (fun g q m =>
    match s.sendContribs g q m c (s.turnFuel c.len.toNat) m.sent m.buf with
    | (s1, k, _, .done) => (s1.modCmd g q m.pos (fun x => { x with sent := k, buf := [], st := .issued })).accumDone g q m.pos
    | (s1, k, buf, o) => s1.cmdOut g q m (fun x => { x with sent := k, buf := buf }) o 0)

/-- The open round of a contribution's granule. -/
def State.roundOf (s : State) (c : Contribution) : Option Round := s.rounds.find? (fun r => sameGranule r.dom r.loc c.dom c.loc)

/-- The round that a contribution opens. -/
def Contribution.opens (c : Contribution) : Round := ⟨c.dom, c.loc, c.data.length, c.ety, c.count, 0⟩

/-- A contribution agrees with its open round (R271). -/
def Contribution.agrees (c : Contribution) (r : Round) : Bool :=
  c.loc.inGranule == r.loc.inGranule && c.data.length == r.len && c.ety == r.ety && c.count == r.count

/-- The staging store of a home slice has room (R271). -/
def State.stagingRoom (s : State) (c : Contribution) : Bool :=
  decide (((s.staged.filter (fun x => x.home == c.home)).foldl (fun n x => n + x.data.length) 0) + c.data.length ≤ 262144)

/-- A contribution is staged, or refused where the store is full. -/
def State.stage (s : State) (c : Contribution) : State :=
  if s.stagingRoom c then { s with staged := s.staged ++ [c] }
  else { s with refused := s.refused ++ [{ c with retry := s.cycle + 256 }] }

/-- The command of a contribution has stopped. -/
def State.contribStopped (s : State) (c : Contribution) : Bool :=
  match (s.core c.g).cmdAt c.q c.pos with
  | some m => (match m.st with
    | .stopped .. => true
    | _ => false)
  | none => false

/-- A contribution cannot be performed: it waits until the supervisor resumes or aborts its command, which stops at it; if the command
has stopped at a later piece already, it stops at this one once it is resumed (R283, R286). -/
def State.contribStop (s : State) (c : Contribution) (code : TrapCode) (va : Nat) : State :=
  let stopped := s.contribStopped c
  let s1 : State := { s with contribs := { c with stale := true } :: s.contribs }
  if stopped then s1 else s1.stopCmd c.g c.q c.pos code (BitVec.ofNat 48 va)

/-- What comes of applying a contribution that is due. -/
inductive Applied where
  | yes (s : State)
  /-- Its command has stopped at it, or is gone. -/
  | no (s : State)

/-- A contribution that is due is applied to every element of its granule (R271). -/
def State.applyDue (s : State) (c : Contribution) : Applied :=
  match (s.core c.g).cmdAt c.q c.pos with
  | none => .no s
  | some m =>
    match s.accumAt c.g c.q m c.ety c.va.toNat c.loc c.data with
    | (s1, .done) => .yes (s1.accumDone c.g c.q c.pos)
    | (s1, .stop code va) => .no (s1.contribStop c code va)
    | (s1, .status n) => .no ((s1.dropContribs c.g c.q c.pos).modCmd c.g c.q c.pos (fun x => { x with st := .done n 0 }))
    | (s1, .waits) => .no s1

/-- A contribution that does not agree with its round writes nothing, and its command will end with CONFLICT. -/
def State.conflict (s : State) (c : Contribution) : State :=
  (s.modCmd c.g c.q c.pos (fun x => { x with count := 1 })).accumDone c.g c.q c.pos

/-- The staged contributions of a granule, in the order of their arrival. -/
def State.stagedOf (s : State) (c : Contribution) : List Contribution := s.staged.filter (fun x => sameGranule x.dom x.loc c.dom c.loc)

/-- The round of a granule replaced, or closed. -/
def State.setRound (s : State) (c : Contribution) (r : Option Round) : State :=
  { s with rounds := s.rounds.filter (fun x => !sameGranule x.dom x.loc c.dom c.loc) ++ r.toList }

/-- Contributions that have arrived at their granules are taken in turn; a closed round offers again what its granule has staged. -/
def State.takeContribs (s : State) : Nat → List Contribution → State
  | 0, _ => s
  | _, [] => s
  | fuel + 1, c :: rest =>
    match s.roundOf c with
    | none => (s.setRound c (some c.opens)).takeContribs fuel (c :: rest)
    | some r =>
      let repeated := (s.stagedOf c).any (fun x => x.slice == c.slice)
      if c.slice.toNat < r.next.toNat || (c.slice != r.next && repeated) then (s.stage c).takeContribs fuel rest
      else if !c.agrees r then (s.conflict c).takeContribs fuel rest
      else if c.slice ≠ r.next then (s.stage c).takeContribs fuel rest
      else
        match s.applyDue c with
        | .no s1 => s1.takeContribs fuel rest
        | .yes s1 =>
          if r.next + 1 = r.count then
            let again := s1.stagedOf c
            let s2 : State := { s1 with staged := s1.staged.filter (fun x => !again.contains x) }
            (s2.setRound c none).takeContribs fuel (again ++ rest)
          else
            let s2 := s1.setRound c (some { r with next := r.next + 1 })
            match (s2.stagedOf c).find? (fun x => x.slice == r.next + 1) with
            | none => s2.takeContribs fuel rest
            | some x => ({ s2 with staged := s2.staged.erase x } : State).takeContribs fuel (x :: rest)

/-- A contribution to a lower granule of the same command is not yet applied: the pieces of a command are performed in ascending order
(R266, R351). -/
def State.contribBehind (s : State) (c : Contribution) : Bool :=
  (s.contribs ++ s.staged ++ s.refused).any (fun x => x.isOf c.g c.q c.pos && decide (x.va.toNat < c.va.toNat))

/-- The place of a contribution whose command had stopped at it, found again (R286). -/
def State.contribAgain (s : State) (c : Contribution) : State × Except EngOut Contribution :=
  match (s.core c.g).cmdAt c.q c.pos with
  | none => (s, .error .waits)
  | some m =>
    match s.accumSpot c.g c.q m c.va.toNat with
    | (s1, .error o) => (s1, .error o)
    | (s1, .ok l) =>
      match s1.homeOf c.g c.dom c.va.toNat l with
      | (s2, h) => (s2, .ok { c with loc := l, home := h, stale := false })

/-- ACCUM_CONTRIBUTION: the n-th contribution on its way arrives at its granule's home (R271). -/
def State.contribution (s : State) (n : Nat) : Option State :=
  match s.contribs[n]? with
  | none => none
  | some c =>
    if s.contribBehind c || (c.stale && s.contribStopped c) then none
    else
      let k := s.staged.length + 2
      let s0 : State := { s with contribs := s.contribs.eraseIdx n }
      if c.stale then
        match s0.contribAgain c with
        | (s1, .ok x) => some (s1.takeContribs (2 * k * k) [x])
        | (s1, .error (.stop code va)) => some (s1.contribStop c code va)
        | (s1, .error (.status st)) =>
          some ((s1.dropContribs c.g c.q c.pos).modCmd c.g c.q c.pos (fun x => { x with st := .done st 0 }))
        | (s1, .error _) =>
          if s1.dies.toList.map (fun d => d.pulls) = s.dies.toList.map (fun d => d.pulls) then none else some { s1 with contribs := s.contribs }
      else some (s0.takeContribs (2 * k * k) [c])

/-- ACCUM_CONTRIBUTION. -/
def execAccumContribution (n : Nat) (s : State) : Host.Outcome State Fault Refusal := .next ((s.contribution n).getD s)

/-- ACCUM_STAGING_RETRY: the n-th refused contribution is sent again (R271). -/
def State.contribRetry (s : State) (n : Nat) : Option State :=
  match s.refused[n]? with
  | none => none
  | some c =>
    if s.cycle < c.retry then none
    else some { s with refused := s.refused.eraseIdx n, contribs := s.contribs ++ [{ c with retry := 0 }] }

/-- ACCUM_STAGING_RETRY. -/
def execAccumStagingRetry (n : Nat) (s : State) : Host.Outcome State Fault Refusal := .next ((s.contribRetry n).getD s)

end Sys2Proof.Machine
end

