-- ==== Sys2Proof/Machine/MatrixCmds.lean ====
section
/-! DEFINITION. The matrix queue: MMA, MLDA, MSTA, MZERO, MSAVE and MRSTR (R119, R123, R124, R273 to R277). -/

namespace Sys2Proof.Machine

/-! ## Bytes of a tensor -/

/-- Bytes read in ascending order, in elements of z bytes, with what ended them; every piece lies where `ok` says, or the command ends with SPARSE (R34). Where
the fuel ends, the command waits for its next turn. -/
def State.readSome (s : State) (g : CoreId) (q : QueueId) (m : Cmd) (ok : Loc → Bool) (z va : Nat) :
    Nat → Nat → State × List Byte × EngOut
  | 0, len => (s, [], if len = 0 then .done else .waits)
  | fuel + 1, len =>
    if len = 0 then (s, [], .done)
    else
      match s.engSpan g q m .read (s.pieceCap z) va len with
      | (s1, .error o) => (s1, [], o)
      | (s1, .ok (l, n)) =>
        if !ok l then (s1, [], .status stSparse)
        else
          match s1.engLoad g m va l n with
          | (s2, .error o) => (s2, [], o)
          | (s2, .ok bs) =>
            match s2.readSome g q m ok z (va + n) fuel (len - n) with
            | (s3, rest, o) => (s3, bs ++ rest, o)

/-- A place that agrees with a tensor's SPARSE flag (R34). -/
def Tid.agrees (t : Tid) (l : Loc) : Bool :=
  match l with
  | .tile .. => t.sparse
  | _ => !t.sparse

/-- A block of a stored tensor: its first row and column, and its rows and columns. -/
structure Block where
  row : Nat
  rows : Nat
  col : Nat
  cols : Nat

/-- The first byte of a block's part of a row, from the row's start. -/
def Tid.lo (t : Tid) (b : Block) : Nat := t.fmt.bits * b.col / 8
/-- The bytes of a block's part of a row. -/
def Tid.span (t : Tid) (b : Block) : Nat := (t.fmt.bits * (b.col + b.cols) + 7) / 8 - t.lo b
/-- The VA of a block's part of its n-th row. -/
def Tid.rowVa (t : Tid) (b : Block) (n : Nat) : Nat := t.base + (b.row + n) * t.stride + t.lo b

/-- Bytes of an element as an engine reads or writes it; of codes packed in bytes, a byte. -/
def Tid.elemBytes (t : Tid) : Nat := if t.fmt.bits % 8 = 0 then max 1 (t.fmt.bits / 8) else 1

/-- Bytes of a block. -/
def Tid.blockLen (t : Tid) (b : Block) : Nat := b.rows * t.span b

/-- An engine's turn ends after a row of a tensor; a tile, which one event takes, is not read or written in parts (R266). -/
def State.rowEnds (s : State) (t : Tid) : Bool := s.piece != 0 && !t.sparse

/-- The rows of a block read from byte `off` of them on, `left` rows being unfinished: the bytes read, and what ended them. -/
def State.readRows (s : State) (g : CoreId) (q : QueueId) (m : Cmd) (t : Tid) (b : Block) : Nat → Nat → State × List Byte × EngOut
  | 0, _ => (s, [], .done)
  | left + 1, off =>
    let n := b.rows - (left + 1)
    let z := t.span b
    match s.readSome g q m t.agrees t.elemBytes (t.rowVa b n + off) (if t.sparse then pieceFuel z else s.turnFuel z) (z - off) with
    | (s1, bs, .done) =>
      if s.rowEnds t && left != 0 then (s1, bs, .waits)
      else
        match s1.readRows g q m t b left 0 with
        | (s2, rest, o) => (s2, bs ++ rest, o)
    | (s1, bs, o) => (s1, bs, o)

/-- A block read of which `k` bytes are read already. -/
def State.readBlock (s : State) (g : CoreId) (q : QueueId) (m : Cmd) (t : Tid) (b : Block) (k : Nat) : State × List Byte × EngOut :=
  s.readRows g q m t b (b.rows - k / t.span b) (k % t.span b)

/-- The code of a block's element from its bytes: row n, column k of the block. -/
def Tid.code (t : Tid) (b : Block) (bytes : List Byte) (n k : Nat) : Nat :=
  let z := t.span b
  let at_ := t.fmt.bits * (b.col + k) - 8 * t.lo b
  numOf ((bytes.drop (n * z + at_ / 8)).take 5) / 2 ^ (at_ % 8) % 2 ^ t.fmt.bits

/-- The value of a code (R115, R118). -/
def Tid.value (t : Tid) (c : Nat) : FVal :=
  match t.fmt with
  | .std ty => decodeStd ty (BitVec.ofNat 64 c)
  | .narrow n => n.value t.scale c

/-! ## MMA (R123, R124, R274, R275) -/

/-- An operand of MMA: its tensor, the block's origin, and whether k runs along stored rows. -/
structure MOperand where
  t : Tid
  row : Nat
  col : Nat
  kRows : Bool

/-- The stored block of a K-block. -/
def MOperand.block (o : MOperand) (kb : Nat) : Block :=
  if o.kRows then ⟨o.row + 32 * kb, 32, o.col, 64⟩ else ⟨o.row, 64, o.col + 32 * kb, 32⟩

/-- Element (x, k) of a K-block, x along the accumulator's edge. -/
def MOperand.elem (o : MOperand) (kb : Nat) (bytes : List Byte) (x k : Nat) : FVal :=
  o.t.value (o.t.code (o.block kb) bytes (if o.kRows then k else x) (if o.kRows then x else k))

/-- The pieces of a block's bytes, one VA in each 512 bytes. -/
def Tid.pieces (t : Tid) (b : Block) : List Nat :=
  (List.range b.rows).flatMap (fun n => (granules ⟨t.rowVa b n, t.span b⟩).map (fun r => r.pa))

/-- The existence of every tile that pieces touch, each read: all are absent, or not. A region with a nonzero default pattern ends the
command with SPARSE (R275). -/
def State.allAbsent (s : State) (g : CoreId) (q : QueueId) (m : Cmd) : List Nat → Bool → State × Except EngOut Bool
  | [], a => (s, .ok a)
  | va :: l, a =>
    match s.engPlace g q m .read va with
    | (s1, .error o) => (s1, .error o)
    | (s1, .ok (.tile idx _ _)) =>
      match s1.tileAt g m.dom idx (BitVec.ofNat 48 va) with
      | (s2, none) => (s2, .error (s2.regionOut g m idx va))
      | (s2, some x) =>
        if x.region.dflt ≠ 0 then (s2, .error (.status stSparse)) else s2.allAbsent g q m l (a && !s2.tilePresent x)
    | (s1, .ok _) => (s1, .error (.status stSparse))

/-- A K-block of an operand is absent. -/
def State.blockAbsent (s : State) (g : CoreId) (q : QueueId) (m : Cmd) (o : MOperand) (kb : Nat) : State × Except EngOut Bool :=
  if o.t.sparse then s.allAbsent g q m (o.t.pieces (o.block kb)) true else (s, .ok false)

/-- A K-block of either operand is absent, both being looked at. -/
def State.mmaAbsent (s : State) (g : CoreId) (q : QueueId) (m : Cmd) (a b : MOperand) (kb : Nat) : State × Except EngOut Bool :=
  match s.blockAbsent g q m a kb with
  | (s1, .error o) => (s1, .error o)
  | (s1, .ok absA) =>
    match s1.blockAbsent g q m b kb with
    | (s2, .error o) => (s2, .error o)
    | (s2, .ok absB) => (s2, .ok (absA || absB))

/-- The regions of an operand are read before anything is added: none has a nonzero default pattern, and the pages agree with SPARSE
(R34, R275). A page that cannot be reached is left to its piece. -/
def State.operandOk (s : State) (g : CoreId) (m : Cmd) (t : Tid) : List Nat → State × EngOut
  | [] => (s, .done)
  | va :: l =>
    if inScratch va || 2 ^ 48 ≤ va then s.operandOk g m t l
    else
      match s.xlate g m.dom .look false (BitVec.ofNat 48 va) with
      | (s1, .error _) => s1.operandOk g m t l
      | (s1, .ok x) =>
        if pteBit x.pte 11 != t.sparse then (s1, .status stSparse)
        else if !t.sparse then s1.operandOk g m t l
        else
          match s1.tileRef g m.dom (pteRegion x.pte) va with
          | (s2, .error (.trap _)) => (s2, s2.regionOut g m (pteRegion x.pte) va)
          | (s2, .error (.pull ..)) => s2.operandOk g m t l
          | (s2, .ok r) => if r.region.dflt ≠ 0 then (s2, .status stSparse) else s2.operandOk g m t l

/-- Pages of a whole operand. -/
def MOperand.pages (o : MOperand) (kbs : Nat) : List Nat :=
  let b : Block := if o.kRows then ⟨o.row, 32 * kbs, o.col, 64⟩ else ⟨o.row, 64, o.col, 32 * kbs⟩
  (List.range b.rows).flatMap (fun n => pageSteps (o.t.rowVa b n) (o.t.span b))

/-- One element of an accumulator after a K-block (R123). -/
def mmaElem (neg : Bool) (acc : BitVec 32) (a b : Nat → FVal) : BitVec 32 :=
  let products := (List.range 32).map (fun k =>
    let p := (mulNum (a k) (b k)).1
    if neg then p.negate else p)
  ((roundStd .f32 .rne false (sumNums (decodeStd .f32 (acc.setWidth 64) :: products))).1).setWidth 32

/-- A K-block added (R123). -/
def Core.mmaBlock (c : Core) (a : Nat) (neg : Bool) (x y : Nat → Nat → FVal) : Core :=
  { c with acc := accPut c.acc a (fun k => mmaElem neg (accGet c.acc (a * 4096 + k)) (x (k / 64)) (y (k % 64))) }

/-- Both operands' parts of a K-block read, of which `buf` is read already: A's bytes, then B's. -/
def State.mmaBytes (s : State) (g : CoreId) (q : QueueId) (m : Cmd) (a b : MOperand) (kb : Nat) (buf : List Byte) :
    State × List Byte × EngOut :=
  let la := a.t.blockLen (a.block kb)
  let ra := if la ≤ buf.length then (s, [], .done) else s.readBlock g q m a.t (a.block kb) buf.length
  match ra with
  | (s1, x, .done) =>
    match s1.readBlock g q m b.t (b.block kb) ((buf ++ x).length - la) with
    | (s2, y, o) => (s2, buf ++ x ++ y, o)
  | (s1, x, o) => (s1, buf ++ x, o)

/-- K-blocks from one on, `left` of them, the first with `buf` of it read: the block reached, the blocks skipped, what is read of the
next, and what ended them. -/
def State.mmaBlocks (s : State) (g : CoreId) (q : QueueId) (m : Cmd) (c : MmaCmd) (a b : MOperand) (kbs : Nat) :
    Nat → Nat → List Byte → State × Nat × Nat × List Byte × EngOut
  | 0, skips, _ => (s, kbs, skips, [], .done)
  | left + 1, skips, buf =>
    let kb := kbs - (left + 1)
    match (if buf.isEmpty then s.mmaAbsent g q m a b kb else (s, .ok false)) with
    | (s1, .error o) => (s1, kb, skips, [], o)
    | (s1, .ok true) =>
      let s2 := s1.tally g (some m.dom) 0x0041 1
      if s.piece = 0 then s2.mmaBlocks g q m c a b kbs left (skips + 1) []
      else (s2, kb + 1, skips + 1, [], if left = 0 then .done else .waits)
    | (s1, .ok false) =>
      match s1.mmaBytes g q m a b kb buf with
      | (s2, bs, .done) =>
        let la := a.t.blockLen (a.block kb)
        let s3 := s2.modCore g (fun x => x.mmaBlock c.acc.toNat c.neg (a.elem kb (bs.take la)) (b.elem kb (bs.drop la)))
        let s4 := s3.tally g (some m.dom) 0x0040 1
        if s.piece = 0 then s4.mmaBlocks g q m c a b kbs left skips [] else (s4, kb + 1, skips, [], if left = 0 then .done else .waits)
      | (s2, bs, o) => (s2, kb, skips, bs, o)

/-- The skip count added to the word at SKVA, at its home (R275); another place than an aligned MT 00 word, in memory or in a
tile, stops the command (log 15). -/
def State.mmaSkips (s : State) (g : CoreId) (q : QueueId) (m : Cmd) (va n : Nat) : State × EngOut :=
  if va = 0 then (s, .done)
  else if va % 8 ≠ 0 then (s, .stop .access va)
  else
    match s.engPlace g q m .write va with
    | (s1, .error o) => (s1, o)
    | (s1, .ok l) =>
      if !accumPlace l then (s1, .stop .access va)
      else
        match s1.engLoad g m va l 8 with
        | (s2, .error o) => (s2, o)
        | (s2, .ok bs) => s2.engStore g q m va l (bytesOf 8 (wordOf bs + BitVec.ofNat 64 n).toNat)

/-- The tensors that a command captured. -/
def Cmd.tensors (m : Cmd) : List Tid := m.tids.filterMap (fun t => tidOf t.2.toList)

/-- The K-blocks of an MMA and its skip count; only before the first K-block are the operands' regions checked (R275). -/
def State.mmaRun (s : State) (g : CoreId) (q : QueueId) (m : Cmd) (c : MmaCmd) (a b : MOperand) : State :=
  let kbs := c.kb.toNat + 1
  let checked := if m.progress = 0 then s.operandOk g m a.t (a.pages kbs) else (s, .done)
  match checked with
  | (s1, .done) =>
    match (if m.progress = 0 then s1.operandOk g m b.t (b.pages kbs) else (s1, .done)) with
    | (s2, .done) =>
      match s2.mmaBlocks g q m c a b kbs (kbs - m.progress) m.count m.buf with
      | (s3, k, n, _, .done) =>
        match s3.mmaSkips g q m c.skva.toNat n with
        | (s4, o) => s4.cmdOut g q m (fun x => { x with progress := k, count := n, buf := [] }) o (BitVec.ofNat 64 n)
      | (s3, k, n, buf, o) => s3.cmdOut g q m (fun x => { x with progress := k, count := n, buf := buf }) o (BitVec.ofNat 64 n)
    | (s2, o) => s2.cmdOut g q m id o 0
  | (s1, o) => s1.cmdOut g q m id o 0

/-- MMA (R274). -/
def execMma (c : MmaCmd) (s : State) : Host.Outcome State Fault Refusal :=
  runCmd s (fun g q m =>
    match m.tensors with
    | [a, b] =>
      s.mmaRun g q m c ⟨a, c.arow.toNat, c.acol.toNat, c.ta⟩ ⟨b, c.brow.toNat, c.bcol.toNat, !c.tb⟩
    | _ => s)

/-! ## MLDA and MSTA (R119, R277) -/

/-- The stored element for accumulator element k, as row and column of the block. -/
def spotOf (tr : Bool) (k : Nat) : Nat × Nat := if tr then (k % 64, k / 64) else (k / 64, k % 64)

/-- MLDA (R277). -/
def execMlda (c : MldaCmd) (s : State) : Host.Outcome State Fault Refusal :=
  runCmd s (fun g q m =>
    match m.tensors with
    | [t] =>
      let b : Block := ⟨c.row.toNat, 64, c.col.toNat, 64⟩
      match s.readBlock g q m t b m.progress with
      | (s1, bs, .done) =>
        let bytes := m.buf ++ bs
        let f := fun k => ((roundStd .f32 .rne false (t.value (t.code b bytes (spotOf c.tr k).1 (spotOf c.tr k).2))).1).setWidth 32
        let s2 := s1.modCore g (fun x => { x with acc := accPut x.acc c.acc.toNat f })
        s2.cmdOut g q m (fun x => { x with progress := t.blockLen b, buf := [] }) .done 0
      | (s1, bs, o) => s1.cmdOut g q m (fun x => { x with progress := x.progress + bs.length, buf := x.buf ++ bs }) o 0
    | _ => s)

/-- The code that MSTA stores for an accumulator element. -/
def Tid.encode (t : Tid) (mode : RMode) (sat : Bool) (a : BitVec 32) : Nat :=
  match t.fmt with
  | .std ty => (roundStd ty mode sat (decodeStd .f32 (a.setWidth 64))).1.toNat % 2 ^ t.fmt.bits
  | .narrow n => (n.encode mode sat t.scale (decodeStd .f32 (a.setWidth 64))).1

/-- The bits of a block's row: its codes at their places, from the row part's first byte on. -/
def Tid.rowBits (t : Tid) (b : Block) (code : Nat → Nat) : Nat :=
  packFields t.fmt.bits code b.cols * 2 ^ (t.fmt.bits * b.col - 8 * t.lo b)

/-- The bits of a row part that belong to the block. -/
def Tid.rowMask (t : Tid) (b : Block) : Nat := (2 ^ (t.fmt.bits * b.cols) - 1) * 2 ^ (t.fmt.bits * b.col - 8 * t.lo b)

/-- A row part written from byte `off` on; bits of its first and last byte that belong to other elements are kept (R34). -/
def State.writeRow (s : State) (g : CoreId) (q : QueueId) (m : Cmd) (t : Tid) (va bits mask : Nat) :
    Nat → Nat → Nat → State × Nat × EngOut
  | 0, off, z => (s, off, if z ≤ off then .done else .waits)
  | fuel + 1, off, z =>
    if z ≤ off then (s, off, .done)
    else
      match s.engSpan g q m .write (s.pieceCap t.elemBytes) (va + off) (z - off) with
      | (s1, .error o) => (s1, off, o)
      | (s1, .ok (l, n)) =>
        if !t.agrees l then (s1, off, .status stSparse)
        else
          let mine := mask / 2 ^ (8 * off) % 2 ^ (8 * n)
          let new := bits / 2 ^ (8 * off) % 2 ^ (8 * n)
          match (if mine = 2 ^ (8 * n) - 1 then (s1, .ok []) else s1.engLoad g m (va + off) l n) with
          | (s2, .error o) => (s2, off, o)
          | (s2, .ok old) =>
            match s2.engStore g q m (va + off) l (bytesOf n ((numOf old &&& ((2 ^ (8 * n) - 1) ^^^ mine)) ||| new)) with
            | (s3, .done) => s3.writeRow g q m t va bits mask fuel (off + n) z
            | (s3, o) => (s3, off, o)

/-- Rows of a block written, `left` of them unfinished: the bytes stored in all, and what ended them. -/
def State.writeRows (s : State) (g : CoreId) (q : QueueId) (m : Cmd) (t : Tid) (b : Block) (code : Nat → Nat → Nat) :
    Nat → Nat → State × Nat × EngOut
  | 0, _ => (s, b.rows * t.span b, .done)
  | left + 1, off =>
    let n := b.rows - (left + 1)
    let z := t.span b
    match s.writeRow g q m t (t.rowVa b n) (t.rowBits b (code n)) (t.rowMask b) (if t.sparse then pieceFuel z else s.turnFuel z) off z with
    | (s1, _, .done) =>
      if s.rowEnds t && left != 0 then (s1, (n + 1) * z, .waits) else s1.writeRows g q m t b code left 0
    | (s1, k, o) => (s1, n * z + k, o)

/-- The statistics of a tensor entry take one update of a command (R36, R119); a page that is pulled is waited for as a piece is
(R283). -/
def State.mstaStats (s : State) (g : CoreId) (q : QueueId) (m : Cmd) (acc : Nat) : State × EngOut :=
  let vals := (List.range 4096).map (fun k => accGet (s.core g).acc (acc * 4096 + k))
  let nan := fun (a : BitVec 32) => (decodeStd .f32 (a.setWidth 64)).isNan
  let amax := vals.foldl (fun x a => if nan a then x else maxMag x (absF32 .f32 (a.setWidth 64))) 0
  let nans := (vals.filter nan).length
  match m.tids with
  | [] => (s, .done)
  | e :: _ =>
    match s.xlate g m.dom .look false e.1 with
    | (s1, .error (.pull x p)) => s1.engPull g q m x p e.1.toNat
    | (s1, .error (.trap c)) => (s1, .stop (engCode c) e.1.toNat)
    | (s1, .ok x) =>
      if s1.migrating x.pa then (s1, .waits)
      else
        match s1.entryPlace g m.dom e.1 false true none with
        | (s2, .ok (.mem pa _ _)) =>
          if s2.poisonedAt (pa + 32) 8 then (s2, .stop .poison (e.1.toNat + 32))
          else ((s2.cohWriteWord (pa + 32) (statsWord (s2.cohWord (pa + 32)) amax nans)).engHide g m.dom (pa + 32) 8, .done)
        | (s2, .bad c) => (s2, .stop (engCode c) e.1.toNat)
        | (s2, _) => (s2, .stop .access e.1.toNat)

/-- MSTA (R277). -/
def execMsta (c : MstaCmd) (s : State) : Host.Outcome State Fault Refusal :=
  runCmd s (fun g q m =>
    match m.tensors with
    | [t] =>
      let b : Block := ⟨c.row.toNat, 64, c.col.toNat, 64⟩
      let z := t.span b
      let acc := (s.core g).acc
      let code := fun n k =>
        let i := if c.tr then k else n
        let j := if c.tr then n else k
        t.encode (resolveMode c.mode m.frm) c.sat (accGet acc (accIndex c.acc.toNat i j))
      match s.writeRows g q m t b code (64 - m.progress / z) (m.progress % z) with
      | (s1, k, .done) =>
        match s1.mstaStats g q m c.acc.toNat with
        | (s2, .done) =>
          let s3 := if c.clr then s2.modCore g (fun x => { x with acc := accPut x.acc c.acc.toNat (fun _ => 0) }) else s2
          s3.cmdOut g q m (fun x => { x with progress := k }) .done 0
        | (s2, o) => s2.cmdOut g q m (fun x => { x with progress := k }) o 0
      | (s1, k, o) => s1.cmdOut g q m (fun x => { x with progress := k }) o 0
    | _ => s)

/-! ## MZERO, MSAVE and MRSTR (R277) -/

/-- MZERO (R277). -/
def execMzero (c : MzeroCmd) (s : State) : Host.Outcome State Fault Refusal :=
  runCmd s (fun g q m =>
    (s.modCore g (fun x => { x with acc := x.acc.filter (fun e => !c.mask.getLsbD (e.1 / 4096)) })).cmdOut g q m id .done 0)

/-- MSAVE (R277). -/
def execMsave (c : MsaveCmd) (s : State) : Host.Outcome State Fault Refusal :=
  runCmd s (fun g q m =>
    let bytes := (accBytes (s.core g).acc c.acc.toNat).drop m.progress
    match s.engWriteRun g q m (s.pieceCap 4) (c.va.toNat + m.progress) (s.turnFuel 16384) bytes with
    | (s1, k, o) => s1.cmdOut g q m (fun x => { x with progress := m.progress + k }) o 0)

/-- MRSTR (R277). -/
def execMrstr (c : MsaveCmd) (s : State) : Host.Outcome State Fault Refusal :=
  runCmd s (fun g q m =>
    match s.readSome g q m (fun _ => true) 4 (c.va.toNat + m.progress) (s.turnFuel 16384) (16384 - m.progress) with
    | (s1, bs, .done) =>
      (s1.modCore g (fun x => { x with acc := accOfBytes x.acc c.acc.toNat (m.buf ++ bs) })).cmdOut g q m
        (fun x => { x with progress := 16384, buf := [] }) .done 0
    | (s1, bs, o) => s1.cmdOut g q m (fun x => { x with progress := x.progress + bs.length, buf := x.buf ++ bs }) o 0)

end Sys2Proof.Machine
end

