-- ==== Sys2Proof/Machine/GatherCmds.lean ====
section
/-! DEFINITION. The gather queue and the front-end queue: GATHER, SCATTER in both forms, GSUM and DISPATCH (R278 to R280). -/

namespace Sys2Proof.Machine

/-! ## Table and dense rows (R278) -/

/-- Bytes of a row. -/
def gRow (c : GatherCmd) : Nat := c.rb.toNat + 1
/-- Bytes of an index entry. -/
def gEntry (c : GatherCmd) : Nat := if c.wide then 8 else 4
/-- The VA of a table row, modulo 2^48. -/
def gTblVa (c : GatherCmd) (k : Nat) : Nat := (c.tbl.toNat + k * gRow c) % 2 ^ 48
/-- The VA of a dense row. -/
def gDenseVa (c : GatherCmd) (k : Nat) : Nat := c.dense.toNat + k * gRow c

/-- The place of a piece of the table: MT 00 with EXIST = 0, outside scratch. -/
def State.tblPlace (s : State) (g : CoreId) (q : QueueId) (m : Cmd) (a : Acc) (va : Nat) : State × Except EngOut Loc :=
  match s.engPlace g q m a va with
  | (s1, .error o) => (s1, .error o)
  | (s1, .ok (.mem pa mt gr)) => if mt = 0 then (s1, .ok (.mem pa mt gr)) else (s1, .error (.stop .access va))
  | (s1, .ok _) => (s1, .error (.stop .access va))

/-- Bytes of a table row read, piece by piece, in elements of z bytes: the bytes, and what ended them. -/
def State.tblRow (s : State) (g : CoreId) (q : QueueId) (m : Cmd) (z va : Nat) : Nat → Nat → State × List Byte × EngOut
  | 0, len => (s, [], if len = 0 then .done else .waits)
  | fuel + 1, len =>
    if len = 0 then (s, [], .done)
    else
      let n := min len (min (512 - va % 512) (s.pieceCap z))
      match s.tblPlace g q m .read va with
      | (s1, .error o) => (s1, [], o)
      | (s1, .ok l) =>
        match s1.engLoad g m va l n with
        | (s2, .error o) => (s2, [], o)
        | (s2, .ok bs) =>
          match s2.tblRow g q m z (va + n) fuel (len - n) with
          | (s3, rest, o) => (s3, bs ++ rest, o)

/-- Bytes of a table row stored, piece by piece: the number stored, and what ended them. -/
def State.tblStore (s : State) (g : CoreId) (q : QueueId) (m : Cmd) (va : Nat) : Nat → List Byte → State × Nat × EngOut
  | 0, bs => (s, 0, if bs.isEmpty then .done else .waits)
  | fuel + 1, bs =>
    if bs.isEmpty then (s, 0, .done)
    else
      let n := min bs.length (512 - va % 512)
      match s.tblPlace g q m .write va with
      | (s1, .error o) => (s1, 0, o)
      | (s1, .ok l) =>
        match s1.engStore g q m va l (bs.take n) with
        | (s2, .done) =>
          match s2.tblStore g q m (va + n) fuel (bs.drop n) with
          | (s3, k, o) => (s3, n + k, o)
        | (s2, o) => (s2, 0, o)

/-- Entry i of the index list. -/
def State.idxEntry (s : State) (g : CoreId) (q : QueueId) (m : Cmd) (c : GatherCmd) (i : Nat) : State × Except EngOut Nat :=
  match s.engRead g q m (c.idx.toNat + i * gEntry c) (gEntry c) with
  | (s1, .error o) => (s1, .error o)
  | (s1, .ok bs) => (s1, .ok (numOf bs))

/-- The entry that has been read already, or entry i. -/
def State.entryOr (s : State) (g : CoreId) (q : QueueId) (m : Cmd) (c : GatherCmd) (i : Nat) (known : Option Nat) :
    State × Except EngOut Nat :=
  match known with
  | some k => (s, .ok k)
  | none => s.idxEntry g q m c i

/-- Events of GATHER for one entry, from byte `off` of its row on: a piece of the dense row takes its bytes of the table. The offset
reached, and what ended them. -/
def State.gatherRow (s : State) (g : CoreId) (q : QueueId) (m : Cmd) (src dst z : Nat) : Nat → Nat → State × Nat × EngOut
  | 0, off => (s, off, if z ≤ off then .done else .waits)
  | fuel + 1, off =>
    if z ≤ off then (s, off, .done)
    else
      match s.engSpan g q m .write (s.pieceCap 1) (dst + off) (z - off) with
      | (s1, .error o) => (s1, off, o)
      | (s1, .ok (l, n)) =>
        match s1.tblRow g q m 1 (src + off) (pieceFuel (128 * n)) n with
        | (s2, bs, .done) =>
          match s2.engStore g q m (dst + off) l bs with
          | (s3, .done) => s3.gatherRow g q m src dst z fuel (off + n)
          | (s3, o) => (s3, off, o)
        | (s2, _, o) => (s2, off, o)

/-- Events of SCATTER for one entry, from byte `off` of its row on: a piece of the dense row goes to the table. -/
def State.scatterRow (s : State) (g : CoreId) (q : QueueId) (m : Cmd) (src dst z : Nat) : Nat → Nat → State × Nat × EngOut
  | 0, off => (s, off, if z ≤ off then .done else .waits)
  | fuel + 1, off =>
    if z ≤ off then (s, off, .done)
    else
      match s.engNext g q m .read (s.pieceCap 1) (src + off) (z - off) with
      | (s1, .error o) => (s1, off, o)
      | (s1, .ok bs) =>
        match s1.tblStore g q m (dst + off) (pieceFuel bs.length) bs with
        | (s2, k, .done) => s2.scatterRow g q m src dst z fuel (off + k)
        | (s2, k, o) => (s2, off + k, o)

/-- Where a command of the gather queue stands: entries performed, the offset within the next, and the row that it names once it is
read. -/
structure EntryAt where
  done : Nat
  off : Nat
  row : Option Nat

/-- Entries in ascending order, `left` of them unfinished, the first from where it stands: where they end, and what ended them. -/
def State.entries (s : State) (g : CoreId) (q : QueueId) (m : Cmd) (c : GatherCmd)
    (move : State → Nat → Nat → Nat → State × Nat × EngOut) : Nat → Nat → Option Nat → State × EntryAt × EngOut
  | 0, _, _ => (s, ⟨c.count.toNat + 1, 0, none⟩, .done)
  | left + 1, off, row =>
    let i := c.count.toNat - left
    match s.entryOr g q m c i row with
    | (s1, .error o) => (s1, ⟨i, off, none⟩, o)
    | (s1, .ok k) =>
      match move s1 i k off with
      | (s2, _, .done) =>
        if s.piece != 0 && left != 0 then (s2, ⟨i + 1, 0, none⟩, .waits) else s2.entries g q m c move left 0 none
      | (s2, off', o) => (s2, ⟨i, off', some k⟩, o)

/-- A command of the gather queue that moves one row for each entry; `count` keeps the offset within the entry under way, and `buf` the
row that it names. -/
def gatherOp (c : GatherCmd) (s : State) (move : CoreId → QueueId → Cmd → State → Nat → Nat → Nat → State × Nat × EngOut) :
    Host.Outcome State Fault Refusal :=
  runCmd s (fun g q m =>
    match s.entries g q m c (move g q m) (c.count.toNat + 1 - m.progress) m.count (if m.buf.isEmpty then none else some (numOf m.buf)) with
    | (s1, x, o) =>
      let buf := match x.row with
        | some k => bytesOf 8 k
        | none => []
      s1.cmdOut g q m (fun y => { y with progress := x.done, count := x.off, buf := buf }) o 0)

/-- GATHER (R279). -/
def execGather (c : GatherCmd) (s : State) : Host.Outcome State Fault Refusal :=
  gatherOp c s (fun g q m s i k off => s.gatherRow g q m (gTblVa c k) (gDenseVa c i) (gRow c) (s.turnFuel (gRow c)) off)

/-- SCATTER (R279). -/
def execScatter (c : GatherCmd) (s : State) : Host.Outcome State Fault Refusal :=
  gatherOp c s (fun g q m s i k off => s.scatterRow g q m (gDenseVa c i) (gTblVa c k) (gRow c) (s.turnFuel (gRow c)) off)

/-- The places of an element of the table, in two parts where it crosses a block: each with its VA and length. -/
def State.elemPlaces (s : State) (g : CoreId) (q : QueueId) (m : Cmd) : List (Nat × Nat) → State × Except EngOut (List (Nat × Nat × Loc))
  | [] => (s, .ok [])
  | x :: l =>
    match s.tblPlace g q m .write x.1 with
    | (s1, .error o) => (s1, .error o)
    | (s1, .ok loc) =>
      match s1.elemPlaces g q m l with
      | (s2, .error o) => (s2, .error o)
      | (s2, .ok r) => (s2, .ok ((x.1, x.2, loc) :: r))

/-- The parts of an element read. -/
def State.elemLoad (s : State) (g : CoreId) (m : Cmd) : List (Nat × Nat × Loc) → State × Except EngOut (List Byte)
  | [] => (s, .ok [])
  | x :: l =>
    match s.engLoad g m x.1 x.2.2 x.2.1 with
    | (s1, .error o) => (s1, .error o)
    | (s1, .ok bs) =>
      match s1.elemLoad g m l with
      | (s2, .error o) => (s2, .error o)
      | (s2, .ok r) => (s2, .ok (bs ++ r))

/-- The parts of an element stored; a table lies in memory, where a store at a place that has been found does not fail. -/
def State.elemStore (s : State) (g : CoreId) (q : QueueId) (m : Cmd) : List (Nat × Nat × Loc) → List Byte → State
  | [], _ => s
  | x :: l, bs => ((s.engStore g q m x.1 x.2.2 (bs.take x.2.1)).1).elemStore g q m l (bs.drop x.2.1)

/-- Elements added into the table from a VA on, each as one event at its home (R279): the bytes added, and what ended them. -/
def State.addElems (s : State) (g : CoreId) (q : QueueId) (m : Cmd) (t : EType) (dst : Nat) : Nat → List Byte → State × Nat × EngOut
  | 0, _ => (s, 0, .done)
  | n + 1, bs =>
    let k := min t.size (512 - dst % 512)
    let parts := if k < t.size then [(dst, k), (dst + k, t.size - k)] else [(dst, k)]
    match s.elemPlaces g q m parts with
    | (s1, .error o) => (s1, 0, o)
    | (s1, .ok ps) =>
      match s1.elemLoad g m ps with
      | (s2, .error o) => (s2, 0, o)
      | (s2, .ok old) =>
        match (s2.elemStore g q m ps (accumBytes t 1 old (bs.take t.size))).addElems g q m t (dst + t.size) n (bs.drop t.size) with
        | (s3, d, o) => (s3, t.size + d, o)

/-- Events of SCATTER with ADD for one entry, from byte `off` of its row on: whole elements of a piece of the dense row, or one that lies
in two pieces, are added into the table. -/
def State.addRow (s : State) (g : CoreId) (q : QueueId) (m : Cmd) (t : EType) (src dst z : Nat) : Nat → Nat → State × Nat × EngOut
  | 0, off => (s, off, if z ≤ off then .done else .waits)
  | fuel + 1, off =>
    if z ≤ off then (s, off, .done)
    else
      match s.engSpan g q m .read (s.pieceCap t.size) (src + off) (z - off) with
      | (s1, .error o) => (s1, off, o)
      | (s1, .ok (l, n)) =>
        match (if n < t.size then s1.engReadRun g q m (src + off) 3 t.size else s1.engLoad g m (src + off) l (n / t.size * t.size)) with
        | (s2, .error o) => (s2, off, o)
        | (s2, .ok bs) =>
          match s2.addElems g q m t (dst + off) (bs.length / t.size) bs with
          | (s3, k, .done) => s3.addRow g q m t src dst z fuel (off + k)
          | (s3, k, o) => (s3, off + k, o)

/-- SCATTER with ADD (R279). -/
def execScatterAdd (c : GatherCmd) (s : State) : Host.Outcome State Fault Refusal :=
  gatherOp c s (fun g q m s i k off => s.addRow g q m c.ety (gDenseVa c i) (gTblVa c k) (gRow c) (s.turnFuel (2 * gRow c)) off)

/-! ## GSUM (R279) -/

/-- The run under way as a command keeps it: its segment, the bytes of it written already, its sum so far, the entry that has been read
and is not yet taken, and what has been read of that entry's row. -/
structure SumRun where
  seg : Nat
  off : Nat
  sum : List Byte
  next : Option Nat
  cur : List Byte

/-- The run as bytes. -/
def SumRun.bytes (r : SumRun) : List Byte :=
  bytesOf 4 r.seg ++ bytesOf 4 r.off ++ bytesOf 1 (if r.next.isSome then 1 else 0) ++ bytesOf 8 (r.next.getD 0) ++ r.sum ++ r.cur
/-- The run from its bytes, for rows of a length. -/
def sumRunOf (row : Nat) (bs : List Byte) : Option SumRun :=
  if bs.isEmpty then none
  else
    let rest := bs.drop 17
    let has := decide (row ≤ rest.length)
    some ⟨numOf (bs.take 4), numOf ((bs.drop 4).take 4), if has then rest.take row else [],
      if numOf ((bs.drop 8).take 1) = 1 then some (numOf ((bs.drop 9).take 8)) else none, if has then rest.drop row else rest⟩

/-- The row of a segment, in elements of z bytes, is written from byte `off` on, outside scratch (R282): the offset reached, and what ended it. -/
def State.writeSum (s : State) (g : CoreId) (q : QueueId) (m : Cmd) (z va : Nat) (sum : List Byte) : Nat → Nat → State × Nat × EngOut
  | 0, off => (s, off, if sum.length ≤ off then .done else .waits)
  | fuel + 1, off =>
    if sum.length ≤ off then (s, off, .done)
    else if inScratch (va + off) then (s, off, .stop .access (va + off))
    else
      match s.engSpan g q m .write (s.pieceCap z) (va + off) (sum.length - off) with
      | (s1, .error o) => (s1, off, o)
      | (s1, .ok (l, n)) =>
        match s1.engStore g q m (va + off) l ((sum.drop off).take n) with
        | (s2, .done) => s2.writeSum g q m z va sum fuel (off + n)
        | (s2, o) => (s2, off, o)

/-- Where GSUM stands: entries taken, segments written, the run under way. -/
structure SumAt where
  done : Nat
  segs : Nat
  run : Option SumRun

/-- The run under way is written, if there is one. -/
def State.closeRun (s : State) (g : CoreId) (q : QueueId) (m : Cmd) (c : GatherCmd) (x : SumAt) : State × SumAt × EngOut :=
  match x.run with
  | none => (s, x, .done)
  | some r =>
    match s.writeSum g q m c.ety.size (gDenseVa c r.seg) r.sum (s.turnFuel (gRow c)) r.off with
    | (s1, _, .done) => (s1, ⟨x.done, x.segs + 1, none⟩, .done)
    | (s1, off, o) => (s1, ⟨x.done, x.segs, some { r with off := off }⟩, o)

/-- The row of a run's next entry is read to its end and added to the sum, which begins with the first row. -/
def State.sumRow (s : State) (g : CoreId) (q : QueueId) (m : Cmd) (c : GatherCmd) (x : SumAt) (w : Nat) (r : SumRun) :
    State × SumAt × EngOut :=
  let k := r.cur.length
  match s.tblRow g q m c.ety.size (gTblVa c (w % 2 ^ 32) + k) (s.turnFuel (gRow c)) (gRow c - k) with
  | (s1, bs, .done) =>
    let row := r.cur ++ bs
    let sum := if r.sum.isEmpty then row else accumBytes c.ety (gRow c / c.ety.size) r.sum row
    (s1, ⟨x.done + 1, x.segs, some ⟨r.seg, 0, sum, none, []⟩⟩, .done)
  | (s1, bs, o) => (s1, { x with run := some { r with next := some w, cur := r.cur ++ bs } }, o)

/-- One entry of GSUM: its row joins the run of its segment, or the run before it is closed first; a lower segment ends the command. -/
def State.sumEntry (s : State) (g : CoreId) (q : QueueId) (m : Cmd) (c : GatherCmd) (x : SumAt) (w : Nat) : State × SumAt × EngOut :=
  let seg := w / 2 ^ 32
  let fresh : SumRun := ⟨seg, 0, [], some w, []⟩
  match x.run with
  | none => s.sumRow g q m c x w fresh
  | some r =>
    if r.seg = seg then s.sumRow g q m c x w r
    else
      match s.closeRun g q m c { x with run := some { r with next := some w } } with
      | (s1, y, .done) => if seg < r.seg then (s1, y, .status stOrder) else s1.sumRow g q m c y w fresh
      | (s1, y, o) => (s1, y, o)

/-- Entries of GSUM in ascending order, `left` of them not taken. -/
def State.sums (s : State) (g : CoreId) (q : QueueId) (m : Cmd) (c : GatherCmd) : Nat → SumAt → State × SumAt × EngOut
  | 0, x => s.closeRun g q m c x
  | left + 1, x =>
    match s.entryOr g q m c x.done (x.run.bind (fun r => r.next)) with
    | (s1, .error o) => (s1, x, o)
    | (s1, .ok w) =>
      match s1.sumEntry g q m c x w with
      | (s2, y, .done) => if s.piece = 0 then s2.sums g q m c left y else (s2, y, .waits)
      | r => r

/-- GSUM (R279). -/
def execGsum (c : GatherCmd) (s : State) : Host.Outcome State Fault Refusal :=
  runCmd s (fun g q m =>
    match s.sums g q m c (c.count.toNat + 1 - m.progress) ⟨m.progress, m.count, sumRunOf (gRow c) m.buf⟩ with
    | (s1, x, o) =>
      let buf := match x.run with
        | some r => r.bytes
        | none => []
      s1.cmdOut g q m (fun y => { y with progress := x.done, count := x.segs, buf := buf }) o (BitVec.ofNat 64 x.segs))

/-! ## DISPATCH (R280) -/

/-- DISPATCH: the descriptor passes to the package front end, which accepts or rejects it in its turn. -/
def execDispatch (_c : DispatchCmd) (s : State) : Host.Outcome State Fault Refusal :=
  runCmd s (fun g q m => s.modCmd g q m.pos (fun x => { x with st := .issued }))

end Sys2Proof.Machine
end

