-- ==== Sys2Proof/Machine/Csr.lean ====
section
/-! DEFINITION. Control and status registers: which exist, who may read and write them, their values and their writes (R25, R33, R37,
R55, R64, R76, R95 to R97, R142, R182, R187, R188, R194, R259, R288, R297, R320, R324, R327, R329, R369 to R372). -/

namespace Sys2Proof.Machine

/-! ## Indices and levels (R95) -/

/-- The index is that of a defined CSR. -/
def csrDefined (n : Nat) : Bool :=
  (decide (1 ≤ n) && decide (n ≤ 6)) || (decide (0x100 ≤ n) && decide (n ≤ 0x105)) || n == 0x108 || n == 0x109 || n == 0x10C ||
    n == 0x10D || n == 0x110 || n == 0x114 || n == 0x115 || n == 0x118 || n == 0x11C || n == 0x120 || n == 0x121 ||
    (decide (0x124 ≤ n) && decide (n ≤ 0x127)) || n == 0x130 || n == 0x134 ||
    (decide (0x200 ≤ n) && decide (n ≤ 0x20F) && n % 4 ≤ 1) || n == 0x210 || (decide (0x300 ≤ n) && decide (n ≤ 0x363)) ||
    (decide (0x400 ≤ n) && decide (n ≤ 0x410))

/-- The level that may read a CSR. -/
def csrRead (n : Nat) : BitVec 2 := if n < 0x100 ∨ 0x400 ≤ n then 0 else if n < 0x200 then 1 else 2

/-- The level that may write a CSR, or none where no CSR instruction may. -/
def csrWrite (n : Nat) : Option (BitVec 2) :=
  if n = 1 ∨ n = 2 then some 0
  else if n < 0x100 ∨ n = 0x105 ∨ n = 0x134 ∨ (0x200 ≤ n ∧ n ≤ 0x20F) then none
  else if n = 0x100 ∨ n = 0x130 ∨ 0x200 ≤ n then some 2
  else some 1

/-! ## Values -/

/-- CNTS (R76). -/
def cntsWord (c : Counters) : Word :=
  BitVec.ofNat 64 (c.ld.toNat * 2 ^ 30 + c.st.toNat * 2 ^ 24 + c.cp.toNat * 2 ^ 18 + c.mx.toNat * 2 ^ 12 + c.gx.toNat * 2 ^ 6 + c.sd.toNat)

/-- TASKINFO (R25). -/
def State.taskInfo (s : State) (i : SlotId) (sl : Slot) : Word :=
  let t := sl.task.tr
  BitVec.ofNat 64 (i.val * 2 ^ 32 + t.origin.toNat * 2 ^ 24 + t.vn.toNat * 2 ^ 22 + t.stl.toNat * 2 ^ 21 + t.replay.toNat * 2 ^ 19 +
    t.prio.toNat * 2 ^ 17 + sl.level.toNat * 2 ^ 15 + (s.dom sl.dom).vf.toNat * 2 ^ 8 + sl.dom.toNat)

/-- SLICE.DEBT of a domain on a core (R64). -/
def Core.debtWord (c : Core) (d : Dom) (cycle : Nat) : Word :=
  match c.entryOf d with
  | some e => let p := (c.sliceUpTo e cycle).part[e]; BitVec.ofNat 64 (p.forgiven * 2 ^ 32 + p.debt)
  | none => 0

/-- Cycles in which an entry's domain has held a slot, up to now (R372). -/
def Core.heldNow (c : Core) (e : PartId) (cycle : Nat) : Nat :=
  c.part[e].heldFor + (if c.holds c.part[e].dom = 0 then 0 else cycle - c.part[e].vAt)

/-- The total of a counter; event 0x0001 counts the cycles themselves. -/
def Core.evTotal (c : Core) (n : Fin 8) (cycle : Nat) : Word :=
  c.ev[n].total + (if c.ev[n].counts 1 then BitVec.ofNat 64 cycle else 0)

/-- The sub-count of a domain, or 0 where it holds no entry (R370, R371). -/
def Core.evSub (c : Core) (n : Fin 8) (d : Dom) (cycle : Nat) : Word :=
  match c.entryOf d with
  | some e => c.ev[n].sub[e] + (if c.ev[n].counts 1 then BitVec.ofNat 64 (c.heldNow e cycle) else 0)
  | none => 0

/-- EVC as a task reads it (R370). -/
def State.evcRead (s : State) (g : CoreId) (sl : Slot) (n : Fin 8) : Word :=
  let c := s.core g
  if sl.level ≠ 2 then c.evSub n sl.dom s.cycle
  else if c.evdom.getLsbD 8 then c.evSub n (c.evdom.setWidth 8) s.cycle
  else c.evTotal n s.cycle

/-- A CSR of the executing slot's domain (R95). -/
def State.domCsr (s : State) (g : CoreId) (d : Dom) (n : Nat) : Word :=
  let x := s.dom d
  match n with
  | 0x100 => x.ptroot
  | 0x101 => x.fqBase
  | 0x102 => x.fqSize
  | 0x103 => x.fqHead
  | 0x104 => x.fqTail
  | 0x105 => x.fqOvf
  | 0x108 => x.fpBase
  | 0x109 => BitVec.ofNat 64 (x.fpFree.toNat * 2 ^ 32 + x.fpNf.toNat)
  | 0x10C => x.spillBase
  | 0x10D => x.spillSize
  | 0x110 => x.deadq
  | 0x114 => x.gateBase
  | 0x115 => x.gateLen
  | 0x118 => x.tidtab
  | 0x11C => x.regiontab
  | 0x120 => x.supcore
  | 0x121 => x.suphandler
  | 0x124 => x.notify[0]
  | 0x125 => x.notify[1]
  | 0x126 => x.notify[2]
  | 0x127 => x.notify[3]
  | 0x130 => x.coremap
  | 0x134 => (s.core g).debtWord d s.cycle
  | _ => 0

/-- A partition word of a core (R40, R41). -/
def Core.dpart (c : Core) (n : Nat) : Word :=
  let e : PartId := Fin.ofNat 4 (n / 4 % 4)
  if n % 4 = 0 then c.part[e].a else c.part[e].b

/-- L2WAY of a VF, or a snoop-filter control, of a die (R182, R187). -/
def Die.csr (d : Die) (n : Nat) : Word :=
  match n with
  | 0x360 => d.binv
  | 0x361 => if d.forceBusy then 1 else 0
  | 0x362 => d.perr
  | 0x363 => d.hostcap.setWidth 64
  | _ => d.l2way[Fin.ofNat 96 (n - 0x300)]

/-- The value of a defined CSR as a slot reads it. -/
def State.csrGet (s : State) (g : CoreId) (i : SlotId) (n : Nat) : Word :=
  let sl := s.slot g i
  let c := s.core g
  match n with
  | 1 => sl.fflags.setWidth 64
  | 2 => sl.frm.setWidth 64
  | 3 => s.taskInfo i sl
  | 4 => cntsWord sl.cnt
  | 5 => s.cycleOf sl.dom
  | 6 => s.timeOf sl.dom
  | _ =>
    if n < 0x200 then s.domCsr g sl.dom n
    else if n = 0x210 then c.l1ctl
    else if n < 0x300 then c.dpart n
    else if n < 0x400 then (s.die g.die).csr n
    else if n < 0x408 then c.ev[Fin.ofNat 8 n].sel
    else if n < 0x410 then s.evcRead g sl (Fin.ofNat 8 n)
    else c.evdom

/-! ## The frame pool's registers (R320) -/

/-- Bitmap words of n frames. -/
def bitmapWords (nf : Nat) : List Nat := List.range ((nf + 63) / 64)

/-- What comes of a CSR write. -/
inductive CsrRes where
  | ok (s : State)
  | trap (s : State) (t : Trap)
  /-- It waits for a pull. -/
  | waits (s : State)

/-- Places of the bitmap words that a pool write clears: the failures, and whether a pull is awaited. -/
def State.poolPlaces (s : State) (g : CoreId) (d : Dom) (base : VA) (who : Option (CoreId × SlotId × Nat)) :
    List Nat → State × List (Nat × Nat) × List BadSpot × Bool
  | [] => (s, [], [], false)
  | w :: l =>
    let va := base + BitVec.ofNat 48 (8 * w)
    match s.xlDev g d .both va with
    | (s1, r) =>
      match s1.poolPlaces g d base who l with
      | (s2, ps, bs, wait) =>
        match r with
        | .ok pa => (s2, (w, pa) :: ps, bs, wait)
        | .error (.trap c) =>
          let c' : TrapCode := if c = .page then .page else .access
          (s2, ps, ⟨rankOf c', va, c'⟩ :: bs, wait)
        | .error (.pull x p) =>
          match s2.startPull d x p va who with
          | some s3 => (s3, ps, bs, true)
          | none => (s2, ps, ⟨rankOf .access, va, .access⟩ :: bs, wait)

/-- Bits 0 to NF - 1 of the bitmap are cleared. -/
def State.poolClear (s : State) (nf : Nat) : List (Nat × Nat) → State
  | [] => s
  | (w, pa) :: l =>
    let keep : Word := if nf < 64 * w + 64 then 0xFFFFFFFFFFFFFFFF <<< (nf - 64 * w) else 0
    (s.cohWriteWord pa (s.cohWord pa &&& keep)).poolClear nf l

/-- A write to FRAMEPOOL.BASE, or to NF (R320). -/
def State.poolWrite (s : State) (g : CoreId) (d : Dom) (who : Option (CoreId × SlotId × Nat)) (size : Bool) (w : Word) : CsrRes :=
  let x := s.dom d
  let nf : BitVec 16 := if size then w.setWidth 16 else x.fpNf
  let base : Word := if size then x.fpBase else w &&& 0xFFFFFFFFFC00
  if x.fpFree.toNat < x.fpNf.toNat && (!size || nf != x.fpNf) then .trap s (trapOf .illegal)
  else
    match s.poolPlaces g d (base.setWidth 48) who (bitmapWords nf.toNat) with
    | (s1, ps, bs, wait) =>
      match worst bs with
      | some b => .trap s1 ⟨b.code, b.va.setWidth 64, 0⟩
      | none =>
        if wait then .waits s1
        else .ok ((s1.poolClear nf.toNat ps).modDom d (fun y => { y with fpBase := base, fpNf := nf, fpFree := nf }))

/-- FRAMEPOOL_WRITE: the effect of such a write by itself. -/
def execFramepoolWrite (d : Dom) (size : Bool) (w : Word) (s : State) : Host.Outcome State Fault Refusal :=
  .next (match s.poolWrite 0 d none size w with
    | .ok s1 => s1
    | .trap _ _ => s
    | .waits s1 => s1)

/-! ## Event counters (R369 to R372) -/

/-- The code of an event. -/
def eventCode (n : Nat) : Bool :=
  [0x0001, 0x0002, 0x0003, 0x0010, 0x0011, 0x0012, 0x0013, 0x0014, 0x0020, 0x0030, 0x0031, 0x0032, 0x0040, 0x0041, 0x0050, 0x0051, 0x00F0].contains n

/-- A counter that selects an event, at zero. -/
def Core.evFresh (c : Core) (sel : Word) (cycle : Nat) : EvCtr :=
  let e : EvCtr := ⟨sel, 0, Vector.replicate 4 0⟩
  if e.counts 1 then ⟨sel, 0 - BitVec.ofNat 64 cycle, Vector.ofFn (fun (p : Fin 4) => 0 - BitVec.ofNat 64 (c.heldNow p cycle))⟩ else e

/-- EVSELn is written; a reserved code is refused (R369). -/
def State.evselWrite (s : State) (g : CoreId) (n : Fin 8) (w : Word) : Option State :=
  if eventCode (w.extractLsb' 0 16).toNat then
    some (s.modCore g (fun c => { c with ev := c.ev.set n (c.evFresh (w &&& 0x1FFFF) s.cycle) }))
  else none

/-- EVSEL_WRITE. -/
def execEvselWrite (g : CoreId) (n : Fin 8) (w : Word) (s : State) : Host.Outcome State Fault Refusal :=
  .next ((s.evselWrite g n w).getD s)

/-- A write at H sets a counter's total (R370). -/
def State.evcSet (s : State) (g : CoreId) (n : Fin 8) (w : Word) : State :=
  s.modCore g (fun c =>
    let t := w - (if c.ev[n].counts 1 then BitVec.ofNat 64 s.cycle else 0)
    { c with ev := c.ev.set n { c.ev[n] with total := t } })

/-- EVC_WRITE. -/
def execEvcWrite (g : CoreId) (n : Fin 8) (w : Word) (s : State) : Host.Outcome State Fault Refusal := .next (s.evcSet g n w)

/-! ## L1CTL and SFCTL (R187, R188) -/

/-- Every L1 entry of a core is evicted; the bit that asked for it is cleared. -/
def State.wball (s : State) (g : CoreId) : Option State :=
  let c := s.core g
  if c.l1ctl.getLsbD 0 then
    let c1 : Core := { c with l1 := [], l1ctl := c.l1ctl &&& 0xFFFFFFFFFFFFFFFE }
    let count := fun (s : State) (e : L1Entry) => if e.state = .ownedDirty then s.tally g (some e.dom) 0x0013 (granules e.run).length else s
    some (c.l1.foldl count ((s.setCore g c1).send (c.l1.flatMap (evictMsgs g))))
  else none

/-- L1CTL_WBALL. -/
def execL1ctlWball (g : CoreId) (s : State) : Host.Outcome State Fault Refusal := .next ((s.wball g).getD s)

/-- Every remote holding of every grain homed on a die is back-invalidated, which its slices count (R187, R373). -/
def State.forceAll (s : State) (d : DieId) : State := (s.die d).dir.foldl (fun s e => s.backInvalid d e) s

/-- SFCTL1_FORCE. -/
def State.force (s : State) (d : DieId) : Option State :=
  if (s.die d).forceBusy then some ((s.forceAll d).modDie d (fun x => { x with forceBusy := false, dir := [] })) else none

/-- SFCTL1_FORCE. -/
def execSfctl1Force (d : DieId) (s : State) : Host.Outcome State Fault Refusal := .next ((s.force d).getD s)

/-! ## Writes -/

/-- A rule of a register's field map that a new value breaks (R96, R97, R142, R188, R194, R259, R288, R297, R329, R369). -/
def csrBroken (n : Nat) (new : Word) : Bool :=
  match n with
  | 2 => decide (3 < new.toNat)
  | 0x100 => new.extractLsb' 51 13 != 0 || new.extractLsb' 0 18 != 0
  | 0x130 => new.extractLsb' 51 13 != 0 || new.extractLsb' 0 12 != 0
  | 0x115 => decide (256 < (new.extractLsb' 0 9).toNat)
  | 0x120 => new.extractLsb' 10 54 != 0
  | 0x121 => new.extractLsb' 48 16 != 0 || new.extractLsb' 0 3 != 0
  | 0x124 | 0x125 | 0x126 | 0x127 => new.extractLsb' 58 4 != 0 || new.extractLsb' 0 3 != 0
  | 0x210 => decide (48 < (new.extractLsb' 8 8).toNat)
  | _ => decide (0x400 ≤ n) && decide (n < 0x408) && !eventCode (new.extractLsb' 0 16).toNat

/-- A domain after a write to one of its registers, but for the frame pool's; bits of RO fields are ignored. -/
def Domain.csrSet (x : Domain) (n : Nat) (w : Word) : Domain :=
  match n with
  | 0x100 => { x with ptroot := w }
  | 0x101 => { x with fqBase := w &&& 0xFFFFFFFFFFC0 }
  | 0x102 => { x with fqSize := w &&& 0xFFFF }
  | 0x103 => { x with fqHead := w &&& 0xFFFFFFFF, fqRetry := 0 }
  | 0x104 => { x with fqTail := w &&& 0xFFFFFFFF }
  | 0x10C => { x with spillBase := w &&& 0xFFFFFFFFF000 }
  | 0x10D => { x with spillSize := w &&& 0xFFF }
  | 0x110 => { x with deadq := w &&& 0xFFFFFFFFFFFF }
  | 0x114 => { x with gateBase := w &&& 0xFFFFFFFFFFE0 }
  | 0x115 => { x with gateLen := w &&& 0x1FF }
  | 0x118 => { x with tidtab := w &&& 0xFFFFFFFFFFC0 }
  | 0x11C => { x with regiontab := w &&& 0xFFFFFFFFFFC0 }
  | 0x120 => { x with supcore := w }
  | 0x121 => { x with suphandler := w }
  | 0x124 => { x with notify := x.notify.set 0 w }
  | 0x125 => { x with notify := x.notify.set 1 w }
  | 0x126 => { x with notify := x.notify.set 2 w }
  | 0x127 => { x with notify := x.notify.set 3 w }
  | 0x130 => { x with coremap := w }
  | _ => x

/-- A die after a write to one of its registers. -/
def Die.csrSet (d : Die) (n : Nat) (w : Word) : Die :=
  match n with
  | 0x360 | 0x362 => d
  | 0x361 => { d with forceBusy := d.forceBusy || w.getLsbD 0 }
  | 0x363 => { d with hostcap := w.setWidth 4 }
  | _ => { d with l2way := d.l2way.set (Fin.ofNat 96 (n - 0x300)) (w &&& 0xFFFF) }

/-- A CSR takes a new value that breaks no rule. -/
def State.csrSet (s : State) (g : CoreId) (i : SlotId) (n : Nat) (w : Word) : CsrRes :=
  let sl := s.slot g i
  match n with
  | 1 => .ok (s.modSlot g i (fun x => { x with fflags := w.setWidth 5 }))
  | 2 => .ok (s.modSlot g i (fun x => { x with frm := w.setWidth 3 }))
  | 0x108 => s.poolWrite g sl.dom (some (g, i, sl.task.act)) false w
  | 0x109 => s.poolWrite g sl.dom (some (g, i, sl.task.act)) true w
  | _ =>
    if n < 0x200 then .ok (s.modDom sl.dom (fun x => x.csrSet n w))
    else if n = 0x210 then .ok (s.modCore g (fun c => { c with l1ctl := (w &&& 0xFF01) ||| (c.l1ctl &&& 1) }))
    else if n = 0x363 then .ok ((s.modDie g.die (fun d => d.csrSet n w)).hostFit g.die)
    else if n < 0x400 then .ok (s.modDie g.die (fun d => d.csrSet n w))
    else if n < 0x408 then .ok ((s.evselWrite g (Fin.ofNat 8 n) w).getD s)
    else if n < 0x410 then .ok (s.evcSet g (Fin.ofNat 8 n) w)
    else .ok (s.modCore g (fun c => { c with evdom := w &&& 0x1FF }))

/-! ## The instructions (R142) -/

/-- The index of a CSR instruction. -/
def csrIndex (f : FmtS) : Nat := (f.imm.extractLsb' 0 12).toNat

/-- CSRR. -/
def execCsrr (f : FmtS) (s : State) : Host.Outcome State Fault Refusal :=
  runCore s (specRegs [f.dst]) (fun g i sl =>
    let n := csrIndex f
    if !csrDefined n then raise s g i (trapOf .illegal)
    else if sl.level.toNat < (csrRead n).toNat then raise s g i (trapOf .priv)
    else (s.putX g i f.dst (s.csrGet g i n)).pcNext g i)

/-- The trap of a write by its index and level alone, if any (R95, R142). -/
def csrDenied (n : Nat) (level : BitVec 2) : Option TrapCode :=
  if !csrDefined n then some .illegal
  else if level.toNat < (csrRead n).toNat then some .priv
  else
    match csrWrite n with
    | none => some .illegal
    | some l => if level.toNat < l.toNat then some .priv else none

/-- The new value breaks a rule; FFLAGS judges the operand itself (R96). -/
def csrRefused (n : Nat) (operand new : Word) : Bool := if n = 1 then operand.extractLsb' 5 59 != 0 else csrBroken n new

/-- A CSR write as one step with its read; a write to 0x100 to 0x3FF waits for every earlier access of the slot (R142). -/
def csrOp (f : FmtS) (s : State) (new : Word → Word → Word) : Host.Outcome State Fault Refusal :=
  runCore s (specRegs [f.dst, f.sa]) (fun g i sl =>
    let n := csrIndex f
    match csrDenied n sl.level with
    | some c => raise s g i (trapOf c)
    | none =>
      let old := s.csrGet g i n
      let w := new old (sl.srcW f.sa)
      if csrRefused n (sl.srcW f.sa) w then raise s g i (trapOf .illegal)
      else if 0x100 ≤ n && n < 0x400 && !(s.core g).released sl.task.act sl.acq false then s
      else
        match s.csrSet g i n w with
        | .ok s1 => (s1.putX g i f.dst old).pcNext g i
        | .trap s1 t => raise s1 g i t
        | .waits s1 => s1)

/-- CSRW. -/
def execCsrw (f : FmtS) (s : State) : Host.Outcome State Fault Refusal := csrOp f s (fun _ w => w)
/-- CSRS. -/
def execCsrs (f : FmtS) (s : State) : Host.Outcome State Fault Refusal := csrOp f s (fun old w => old ||| w)
/-- CSRC. -/
def execCsrc (f : FmtS) (s : State) : Host.Outcome State Fault Refusal := csrOp f s (fun old w => old &&& ~~~w)

end Sys2Proof.Machine
end

