-- ==== Sys2Proof/Machine/System.lean ====
section
/-! DEFINITION. System instructions: TRAP, BKPT, FENCEI, RESUME, ABORT, TLBINV and SCRUB (R143, R286, R332 to R337, R341). -/

namespace Sys2Proof.Machine

/-! ## TRAP and BKPT (R332) -/

/-- TRAP: SWTRAP with the value of SA, or 0, and n. -/
def execTrap (f : FmtS) (s : State) : Host.Outcome State Fault Refusal :=
  runCore s (specRegs [f.sa]) (fun g i sl =>
    raise s g i ⟨.swtrap, if f.sa = Spec.none then 0 else sl.srcW f.sa, (f.imm.extractLsb' 0 16).setWidth 24⟩)

/-- BKPT: a suspension that resumes at the next instruction. -/
def execBkpt (f : FmtS) (s : State) : Host.Outcome State Fault Refusal :=
  runCore s [] (fun g i _ => raise s g i ⟨.bkpt, 0, (f.imm.extractLsb' 0 16).setWidth 24⟩)

/-! ## FENCEI (R143) -/

/-- The access in flight writes memory: a store, ZERO, ERASE, SC or atomic. -/
def Pend.writes (p : Pend) : Bool :=
  match p.kind with
  | .flush _ | .waitFlush | .held .flush _ => false
  | .cp (.amo ..) | .cp (.sc _) | .cp .tidamx | .held (.amo ..) _ | .held (.sc _) _ | .held .tidamx _ => true
  | _ => p.isStore

/-- Earlier stores, ZEROs, ERASEs and atomics of an activation are performed, those to a peer at the peer (R205). -/
def Core.storesDone (c : Core) (act : Nat) : Bool := !c.pend.any (fun p => p.act == act && p.writes)

/-- FENCEI: the words that the core holds for the slot's domain go, once its earlier stores are performed. -/
def execFencei (_f : FmtS) (s : State) : Host.Outcome State Fault Refusal :=
  runCore s [] (fun g i sl =>
    if !(s.core g).storesDone sl.task.act then s
    else (s.modCore g (fun c => { c with fetched := c.fetched.filter (fun e => e.dom != sl.dom) })).pcNext g i)

/-! ## RESUME and ABORT (R333, R334) -/

/-- The domain that RESUME, ABORT or TLBINV names; none where S names another than its own. U names its own: the rule on the field speaks of
S and H. -/
def domOperand (sl : Slot) (field : BitVec 8) : Option Dom :=
  if sl.level = 2 then some field else if sl.level = 1 && field != 0 then none else some sl.dom

/-- The DOM field of RESUME and ABORT. -/
def resumeDom (f : FmtS) : BitVec 8 := f.imm.extractLsb' 8 8

/-- What RESUME or ABORT comes to: it waits for a page that it looks at (R365), it traps, or it has its effect. -/
inductive SupRes where
  | waits (s : State)
  | trap (t : Trap)
  | done (s : State)

/-- What happens before a RESUME or an ABORT is performed: a release at package scope, of the slot's own stores and of those before its
acquires (R215, R334). -/
def Core.supReady (c : Core) (act mark : Nat) : Bool := c.storesDone act && c.released act mark false

/-- RESUME and ABORT up to their effect: the domain, the release, and the level, which follows every run-time ILLEGAL (R94, R334). -/
def supOp (f : FmtS) (s : State) (uses : List RegName) (go : CoreId → Slot → Dom → SupRes) : Host.Outcome State Fault Refusal :=
  runCore s uses (fun g i sl =>
    match domOperand sl (resumeDom f) with
    | none => raise s g i (trapOf .illegal)
    | some d =>
      if !sl.isU && !(s.core g).supReady sl.task.act sl.acq then s
      else
        match go g sl d with
        | .waits s1 => s1
        | .trap t => raise s g i (if sl.isU && t.code != .illegal then trapOf .priv else t)
        | .done s1 => if sl.isU then raise s g i (trapOf .priv) else s1.pcNext g i)

/-- RESUME of a command (R286). -/
def execResumeCmd (f : FmtS) (s : State) : Host.Outcome State Fault Refusal :=
  supOp f s (specRegs [f.sa]) (fun _ sl d =>
    match s.stoppedCmd d (sl.srcW f.sa) with
    | none => .trap (trapOf .illegal)
    | some (h, q, m) => .done (s.resumeStopped h q m))

/-- ABORT of a command (R286). -/
def execAbortCmd (f : FmtS) (s : State) : Host.Outcome State Fault Refusal :=
  supOp f s (specRegs [f.sa]) (fun _ sl d =>
    match s.stoppedCmd d (sl.srcW f.sa) with
    | none => .trap (trapOf .illegal)
    | some (h, q, m) => .done (s.abortStoppedCmd h q m))

/-- Doublewords that an instruction looks at through a domain's tables: none where a page cannot be reached, the state where a page is
awaited (R365). -/
def State.lookWords (s : State) (g : CoreId) (d : Dom) : List VA → Except (Option State) (List Word)
  | [] => .ok []
  | va :: l =>
    match s.devPlace g d .look va with
    | (s1, .error none) => .error (some s1)
    | (_, .error (some _)) => .error none
    | (_, .ok pa) =>
      match s.lookWords g d l with
      | .ok ws => .ok (s.cohWord pa :: ws)
      | .error e => .error e

/-- What a frame holds of its task, as RESUME and ABORT look at it: S0, S3 and S17 (R319). -/
structure FrameLook where
  s0 : Word
  s3 : Word
  s17 : Word

/-- KIND of a frame. -/
def FrameLook.kind (x : FrameLook) : BitVec 2 := x.s3.extractLsb' 62 2
/-- The supervisor's edits of a frame break no rule (R319, R334). -/
def FrameLook.legal (x : FrameLook) : Bool :=
  decide ((x.s3.extractLsb' 5 3).toNat ≤ 3) && x.s0.extractLsb' 0 3 == 0 && x.s0.extractLsb' 48 16 == 0
/-- UNC or a counter of a frame is not zero. -/
def FrameLook.busy (x : FrameLook) : Bool := x.s3.extractLsb' 48 12 != 0 || unpackCounters x.s3 != Counters.zero

/-- What a frame VA names (R334): an in-use frame whose task KIND admits, a page that is awaited (R365), or neither. -/
inductive FrameFound where
  | bad
  | waits (s : State)
  | task (c : Cont) (x : FrameLook)

/-- The task of a frame VA (R320, R334). -/
def State.frameTask (s : State) (g : CoreId) (d : Dom) (f : VA) : FrameFound :=
  match (s.dom d).frameNumber f with
  | none => .bad
  | some n =>
    match s.lookWords g d [(s.dom d).fpVa + BitVec.ofNat 48 (8 * (n / 64)), frameWord f 0, frameWord f 3, frameWord f 17] with
    | .error (some s1) => .waits s1
    | .ok [m, s0, s3, s17] =>
      match s.conts.find? (fun c => c.dom == d && c.frame == f) with
      | none => .bad
      | some c =>
        let x : FrameLook := ⟨s0, s3, s17⟩
        if m.getLsbD (n % 64) && (x.kind == 1 || (x.kind == 0 && c.noticed)) then .task c x else .bad
    | _ => .bad

/-- The frame of a suspended task as its RESUME finds it: the doublewords that its start takes (R319). One that cannot be reached now is
read at the start. -/
inductive ImageRes where
  | waits (s : State)
  | got (l : Option (List Word))

/-- The doublewords that a RESUME reads (R319, R334). -/
def State.resumeImage (s : State) (g : CoreId) (c : Cont) : ImageRes :=
  if c.suspended then
    match s.readFrame g c.dom c.frame with
    | (_, .ok ws) => .got (some ws)
    | (s1, .error (_, none)) => .waits s1
    | (_, .error (_, some _)) => .got none
  else .got none

/-- The task is re-homed; a suspended one becomes startable, with its frame as it was found (R319, R334). -/
def State.resumeCont (s : State) (g : CoreId) (c : Cont) (home : CoreId) (v : Word) (image : Option (List Word)) : State :=
  let s1 := (s.frameMod g c.dom c.frame 17 (fun _ => v)).1
  let s2 := if c.suspended then (s1.frameMod g c.dom c.frame 3 (fun w => (w &&& 0x3FFFFFFFFFFFFFFF) ||| 0x8000000000000000)).1 else s1
  { s2 with conts := s2.conts.map (fun (x : Cont) =>
      if x.id = c.id then
        { x with home := home, noticed := false, notBefore := 0, startable := x.startable || c.suspended, image := image,
                 since := if c.suspended then s2.cycle else x.since }
      else x) }

/-- Where a RESUME sends its task: the core, and the virtual number that S17.HOME then holds; none is DOMAIN (R334). -/
def State.resumeTarget (s : State) (d : Dom) (c : Cont) (home : Word) (given : Option Word) : Option (CoreId × Word) :=
  match given with
  | none =>
    if home = 0x3FF then some (c.home, home)
    else
      match s.mapTarget d home with
      | some (.local_ g) => some (g, home)
      | _ => none
  | some t =>
    match s.mapTarget d t with
    | some (.local_ g) => some (g, t)
    | _ => none

/-- RESUME of a task (R334). -/
def execResumeTask (f : FmtS) (s : State) : Host.Outcome State Fault Refusal :=
  supOp f s (specRegs [f.sa, f.sb]) (fun g sl d =>
    match s.frameTask g d ((sl.srcW f.sa).setWidth 48) with
    | .bad => .trap (trapOf .illegal)
    | .waits s1 => .waits s1
    | .task c x =>
      let given := if f.sb = Spec.none then none else some (sl.srcW f.sb)
      if !x.legal || (given.getD x.s17 != x.s17 && x.busy) then .trap (trapOf .illegal)
      else
        match s.resumeTarget d c x.s17 given with
        | none => .trap ⟨.domain, given.getD x.s17, 0⟩
        | some (h, v) =>
          if sl.isU then .trap (trapOf .priv)
          else
            match s.resumeImage g c with
            | .waits s1 => .waits s1
            | .got l => .done (s.resumeCont g c h v l))

/-- ABORT of a task (R334). -/
def execAbortTask (f : FmtS) (s : State) : Host.Outcome State Fault Refusal :=
  supOp f s (specRegs [f.sa]) (fun g sl d =>
    match s.frameTask g d ((sl.srcW f.sa).setWidth 48) with
    | .bad => .trap (trapOf .illegal)
    | .waits s1 => .waits s1
    | .task c _ => .done (s.abortCont c))

/-! ## TLBINV (R336, R337) -/

/-- What a TLBINV invalidates: domain, range, sizes, and whether global entries go as well. -/
structure InvRange where
  d : Dom
  lo : Nat
  hi : Nat
  sizes : BitVec 4
  global : Bool

/-- An extent of VAs meets the range. -/
def InvRange.meets (r : InvRange) (va len : Nat) : Bool := decide (va < r.hi) && decide (r.lo < va + len)

/-- A held translation goes. -/
def InvRange.drops (r : InvRange) (e : TlbEntry) : Bool :=
  e.dom == r.d && r.sizes.getLsbD e.level.val && r.meets e.va (2 ^ levelShift e.level.val) && (r.global || !pteBit e.pte 6)

/-- Cores of a scope instance: 1 core, 2 quad, 3 die, 4 package (R212). -/
def inScope (scope : Nat) (g h : CoreId) : Bool :=
  match scope with
  | 1 => g == h
  | 2 => g.die == h.die && g.quad == h.quad
  | 3 => g.die == h.die
  | _ => true

/-- The TLBs of a scope without the dropped entries; the issuing quad's second level always goes with its cores'. -/
def State.tlbDrop (s : State) (g : CoreId) (scope : Nat) (r : InvRange) : State :=
  let s1 := (List.finRange 768).foldl (fun (s : State) (h : CoreId) =>
    if inScope scope g h && !(s.core h).tlb.isEmpty then s.modCore h (fun c => { c with tlb := c.tlb.filter (fun e => !r.drops e) }) else s) s
  (List.finRange 6).foldl (fun (s : State) (d : DieId) =>
    if scope = 4 || d == g.die then
      s.modDie d (fun x => { x with
        quadTlb := x.quadTlb.filter (fun e => !(r.drops e.2 && (decide (2 < scope) || e.1 == g.quad)))
        walk := x.walk.filter (fun e => e.1 != r.d) })
    else s) s1

/-- A cached region entry that goes. DESIGN CHOICE: one that its fields make invalid covers no pages, and goes with any TLBINV of its domain,
whatever the range (log 76). -/
def InvRange.dropsRegion (r : InvRange) (e : RegionCached) : Bool :=
  e.dom == r.d && (match regionOf e.idx e.dws.toList with
    | some q => r.meets q.base q.len
    | none => true)

/-- Cached region entries of the range go on every die (R39, R337). -/
def State.regionDrop (s : State) (r : InvRange) : State :=
  (List.finRange 6).foldl (fun (s : State) (d : DieId) =>
    if (s.die d).regions.isEmpty then s
    else s.modDie d (fun x => { x with regions := x.regions.filter (fun e => !r.dropsRegion e) })) s

/-- Reservations on the range end (R247, R337). -/
def State.resvDrop (s : State) (r : InvRange) : State :=
  { s with resv := s.resv.filter (fun x => !(x.dom == r.d && r.meets x.va.toNat x.size)) }

/-- Elements of a domain that a core has translated and not performed, with their sizes: those of accesses in flight, and those of
instructions on several tiles that are under way. -/
def Core.translated (c : Core) (d : Dom) : List (Elem × Nat) :=
  (c.pend.filter (fun p => p.dom == d && !p.isHeld)).flatMap (fun p => (p.elems ++ p.rest.map (fun x => x.1)).map (fun e => (e, p.size))) ++
    (c.slots.toList.filter (fun sl => sl.dom == d)).flatMap (fun sl => match sl.tile with
      | some t => t.elems.map (fun e => (e, 8))
      | none => [])

/-- Accesses of the scope's cores to the range are in flight: those that have their places, and contributions of ordered ACCUM (R271,
R337). -/
def State.inFlight (s : State) (g : CoreId) (scope : Nat) (r : InvRange) : Bool :=
  (List.finRange 768).any (fun (h : CoreId) => inScope scope g h && ((s.core h).translated r.d).any (fun x => r.meets x.1.va.toNat x.2)) ||
    (s.contribs ++ s.staged ++ s.refused).any (fun c =>
      c.dom == r.d && !c.stale && inScope scope g c.g && r.meets c.va.toNat c.data.length)

/-- A place in a tile of a region. -/
def Loc.inRegions (l : Loc) (idx : List (BitVec 6)) : Bool :=
  match l with
  | .tile r _ _ => idx.contains r
  | _ => false

/-- Accesses of any core to tiles whose region entry is to go were translated through it, and use it as it is (R39). -/
def State.tilesBusy (s : State) (r : InvRange) : Bool :=
  match (s.dies.toList.flatMap (fun x => x.regions.filter (fun e => r.dropsRegion e))).map (fun e => e.idx) with
  | [] => false
  | idx =>
    s.cores.toList.any (fun c => (c.translated r.d).any (fun x => x.1.loc.inRegions idx)) ||
      (s.contribs ++ s.staged ++ s.refused).any (fun c => c.dom == r.d && !c.stale && c.loc.inRegions idx)

/-- What TLBINV drops at once: translations of its scope and reservations. -/
def State.tlbInvFirst (s : State) (g : CoreId) (scope : Nat) (r : InvRange) : State := (s.tlbDrop g scope r).resvDrop r

/-- What TLBINV has dropped when it completes: the cached region entries as well. -/
def State.tlbInv (s : State) (g : CoreId) (scope : Nat) (r : InvRange) : State := (s.tlbInvFirst g scope r).regionDrop r

/-- TLBINV (R337): the drops, and the slot holds until the accesses that used what is dropped are performed. Region entries go last: an
access translated before uses its entry as it was (R39). -/
def execTlbinv (f : FmtS) (s : State) : Host.Outcome State Fault Refusal :=
  runCore s (specRegs [f.sa, f.sb]) (fun g i sl =>
    let all := f.imm.getLsbD 13
    let a := if all then 0 else (sl.srcW f.sa).toNat
    let len := if all then 2 ^ 48 else (sl.srcW f.sb).toNat
    if 2 ^ 48 < a + len then raise s g i (trapOf .illegal)
    else
      match domOperand sl (f.imm.extractLsb' 16 8) with
      | none => raise s g i (trapOf .illegal)
      | some d =>
        if sl.isU then raise s g i (trapOf .priv)
        else if !(s.core g).storesDone sl.task.act then s
        else if len = 0 then s.pcNext g i
        else
          let scope := (f.imm.extractLsb' 0 3).toNat
          let r : InvRange := ⟨d, a, a + len, f.imm.extractLsb' 8 4, f.imm.getLsbD 14⟩
          if s.inFlight g scope r || s.tilesBusy r then s.tlbInvFirst g scope r else (s.tlbInv g scope r).pcNext g i)

/-! ## SCRUB (R341) -/

/-- SCRUB of the domain is refused. -/
def State.scrubRefused (s : State) (d : Dom) : Bool :=
  d == 0 || s.cores.toList.any (fun c => (c.entryOf d).isSome) || s.launches.any (fun l => l.dom == d)

/-- Tiles that the registries hold for a domain. -/
def State.tilesOfDom (s : State) (d : Dom) : Nat :=
  s.dies.toList.foldl (fun n x => n + (x.registry.filter (fun t => t.dom == d)).length) 0

/-- A barrier freed if a domain owns it. -/
def Bar.scrub (b : Bar) (d : Dom) : Bar := if b.owner = some d then Bar.free else b

/-- A die without what a domain holds of it. -/
def Die.scrub (x : Die) (d : Dom) : Die :=
  { x with
    depots := x.depots.filter (fun e => e.dom != d)
    registry := x.registry.filter (fun t => t.dom != d)
    quadBar := x.quadBar.map (fun q => q.map (fun b => b.scrub d))
    dieBar := x.dieBar.map (fun b => b.scrub d)
    quadTlb := x.quadTlb.filter (fun e => e.2.dom != d)
    walk := x.walk.filter (fun e => e.1 != d)
    regions := x.regions.filter (fun e => e.dom != d) }

/-- A core without what a domain holds of it. -/
def Core.scrub (c : Core) (d : Dom) : Core :=
  { c with
    tlb := c.tlb.filter (fun e => e.dom != d)
    tidCache := c.tidCache.filter (fun e => e.dom != d)
    ranks := c.ranks.filter (fun r => r.dom != d) }

/-- The effects of SCRUB, package-wide: the domain's CSRs return to their reset values; its VF and launch queues are not CSRs. -/
def State.scrubAll (s : State) (d : Dom) : State :=
  let gone := (s.conts.filter (fun c => c.dom == d)).map (fun c => c.id)
  let s1 : State := { s with
    cores := s.cores.map (fun c => c.scrub d)
    dies := s.dies.map (fun x => x.scrub d)
    pkgBar := s.pkgBar.map (fun b => b.scrub d)
    podBar := s.podBar.map (fun b => b.scrub d)
    conts := s.conts.filter (fun c => c.dom != d)
    watches := s.watches.filter (fun w => !gone.contains w.cont) }
  s1.modDom d (fun x => { Domain.reset x.vf with lq := x.lq })

/-- SCRUB (R341). -/
def execScrub (f : FmtS) (s : State) : Host.Outcome State Fault Refusal :=
  runCore s (specRegs [f.dst, f.sa]) (fun g i sl =>
    let d : Dom := (sl.srcW f.sa).setWidth 8
    if s.scrubRefused d then raise s g i (trapOf .illegal)
    else if sl.level ≠ 2 then raise s g i (trapOf .priv)
    else if !(s.core g).released sl.task.act sl.acq false then s
    else ((s.scrubAll d).putX g i f.dst (BitVec.ofNat 64 (s.tilesOfDom d))).pcNext g i)

end Sys2Proof.Machine
end

