-- ==== Sys2Proof/Machine/Domset.lean ====
section
/-! DEFINITION. DOMSET and the DRAIN event (R40 to R43, R338 to R343). -/

namespace Sys2Proof.Machine

/-! ## What DOMSET asks for, and when it is refused (R338, R339) -/

/-- A DOMSET as its operands give it: the target core, the entry, the words to be written and the save or restore VA. -/
structure DomAsk where
  t : CoreId
  e : PartId
  wa : Bool
  wb : Bool
  a : Word
  b : Word
  va : Word

/-- The ask of an instruction; none where the target is no core. -/
def domAsk (g : CoreId) (sl : Slot) (f : FmtS) : Option DomAsk :=
  let r := fun k => sl.readX (xIndex f.sa + k)
  let t : Option CoreId := if r 3 = 0x3FF then some g else if h : (r 3).toNat < 768 then some ⟨(r 3).toNat, h⟩ else none
  t.map (fun t => ⟨t, Fin.ofNat 4 (f.imm.extractLsb' 0 2).toNat, f.imm.getLsbD 2, f.imm.getLsbD 3, r 0, r 1, r 2⟩)

/-- The entry as the write would leave it. -/
def DomAsk.result (q : DomAsk) (p : Part) : Part := { p with a := if q.wa then q.a else p.a, b := if q.wb then q.b else p.b }

/-- The change of STATE is one of the table's. -/
def stateStep (p q : BitVec 2) : Bool :=
  match p.toNat with
  | 0 => q != 2
  | 2 => q == 2
  | _ => q != 0

/-- Two entries that are not EMPTY agree with each other (R43). -/
def Part.apart (p q : Part) : Bool :=
  q.state == 0 || (p.dom != q.dom && p.banks &&& q.banks == 0 && p.accs &&& q.accs == 0)

/-- The result keeps R43. -/
def Core.partOk (c : Core) (e : PartId) (p : Part) : Bool :=
  p.state == 0 || (p.slots != 0 && (List.finRange 4).all (fun k => k == e || p.apart c.part[k]))

/-- The DOMSET is refused (R339). -/
def Core.domRefused (c : Core) (q : DomAsk) : Bool :=
  let p := c.part[q.e]
  let r := q.result p
  (q.wa && p.state != 0) || (q.wb && p.state != 0 && r.accs != p.accs) || (q.wb && q.b.extractLsb' 16 8 != 0) ||
    !c.partOk q.e r || !stateStep p.state r.state

/-! ## Save and restore areas (R340) -/

/-- The length of the area of an entry. -/
def Part.areaLen (p : Part) : Nat := 64 + 16384 * ((bankList p.banks).length + (accList p.accs).length)

/-- What comes of an area's check or read. -/
inductive AreaRes where
  | ok
  | bad (va : Nat)
  | waits

/-- Every page of a save area can be written. -/
def State.areaWritable (s : State) (g : CoreId) (d : Dom) (who : Option (CoreId × SlotId × Nat)) : List Nat → State × AreaRes
  | [] => (s, .ok)
  | va :: l =>
    if 2 ^ 48 ≤ va then (s, .bad va)
    else
      match s.xlDev g d .write (BitVec.ofNat 48 va) with
      | (s1, .error (.trap _)) => (s1, .bad va)
      | (s1, .error (.pull x p)) =>
        match s1.startPull d x p (BitVec.ofNat 48 va) who with
        | some s2 => (s2, .waits)
        | none => (s1, .bad va)
      | (s1, .ok _) => s1.areaWritable g d who l

/-- A restore area read, 64 bytes at a time: each page needs V, R and MT 00. -/
def State.areaRead (s : State) (g : CoreId) (d : Dom) (who : Option (CoreId × SlotId × Nat)) : Nat → Nat → State × AreaRes × List Byte
  | 0, _ => (s, .ok, [])
  | n + 1, va =>
    if 2 ^ 48 ≤ va || inScratch va then (s, .bad va, [])
    else
      match s.place g d .read false who (BitVec.ofNat 48 va) with
      | (s1, .bad _) => (s1, .bad va, [])
      | (s1, .pulling _) => (s1, .waits, [])
      | (s1, .ok l) =>
        let piece : State × Option (List Byte) := match l with
          | .mem pa mt _ => if mt = 0 then (s1, some (s1.cohRead pa 64)) else (s1, none)
          | .tile idx _ off =>
            match s1.tileAt g d idx (BitVec.ofNat 48 va) with
            | (s2, some x) => (s2, some (s2.tileRead x off 64))
            | (s2, none) => (s2, none)
          | .scratch _ | .unplaced => (s1, none)
        match piece with
        | (s2, none) => (s2, .bad va, [])
        | (s2, some bs) =>
          match s2.areaRead g d who n (va + 64) with
          | (s3, r, rest) => (s3, r, bs ++ rest)

/-- The header of a restore area fits the entry. -/
def headFits (p : Part) (bs : List Byte) : Bool :=
  let w := wordOf (bs.take 8)
  (bankList (w.extractLsb' 32 32)).length == (bankList p.banks).length && (accList (w.setWidth 16)).length == (accList p.accs).length

/-- Banks and accumulators of an entry loaded from an area's bytes. -/
def Core.loadArea (c : Core) (p : Part) (bs : List Byte) : Core :=
  let body := bs.drop 64
  (c.loadBanks (bankList p.banks) body).loadAccs (accList p.accs) (body.drop (16384 * (bankList p.banks).length))

/-! ## The write -/

/-- An entry as it leaves EMPTY (R58, R64, R370); its EGRESS acts from the next window on (R43). -/
def Part.enter (p : Part) (cycle : Nat) : Part :=
  { p with slice := .closed, sliceNow := p.sliceLen, overrun := none, freedAt := 0, debt := 0, forgiven := 0, vClock := 0, vAt := cycle, heldFor := 0, saveVa := 0, egressUsed := 0 }

/-- Sub-counts of an entry cleared. -/
def Core.subClear (c : Core) (e : PartId) : Core :=
  { c with ev := c.ev.map (fun (x : EvCtr) => { x with sub := x.sub.set e 0 }) }

/-- The entry is written at its core as one step (R43, R339). -/
def Core.domWrite (c : Core) (q : DomAsk) (cycle : Nat) : Core :=
  let p := c.part[q.e].windowed cycle
  let r := q.result p
  if p.state = 0 then
    if r.state = 0 then { c with part := c.part.set q.e r }
    else ({ c with part := c.part.set q.e (r.enter cycle) } : Core).subClear q.e
  else
    let c0 : Core := { c with part := c.part.set q.e (c.part[q.e].windowed cycle) }
    let c1 := (c0.sliceUpTo q.e cycle).settle q.e cycle
    let c2 := if p.state = 1 && r.state != 1 then c1.closeSlice q.e cycle else c1
    let c3 : Core := { c2 with part := c2.part.set q.e (q.result c2.part[q.e]) }
    let c4 : Core := if r.state = 1 then c3 else { c3 with steal := { c3.steal with lost := true } }
    if p.state ≠ 2 && r.state = 2 then { c4 with part := c4.part.set q.e { c4.part[q.e] with saveVa := q.va } } else c4

/-- An entry's domain is admitted to a core again: deque records that returned to the core meanwhile enter its deque (R313; log 71). -/
def State.homecoming (s : State) (g : CoreId) (e : PartId) : State :=
  let d := (s.core g).part[e].dom
  let mine := (s.dom d).homeless.filter (fun x => x.1 == g)
  if mine.isEmpty then s
  else (s.modDom d (fun x => { x with homeless := x.homeless.filter (fun y => y.1 != g) })).modPart g e (fun p =>
    { p with deque := mine.map (fun x => x.2) ++ p.deque })

/-- DOMSET applied, with the shares of its core where an entry enters or leaves EMPTY. -/
def State.domApply (s : State) (q : DomAsk) : State :=
  let p := (s.core q.t).part[q.e]
  let s1 := s.modCore q.t (fun c => c.domWrite q s.cycle)
  if (p.state == 0) != ((q.result p).state == 0) then (s1.homecoming q.t q.e).reshare q.t else s1

/-- The save VA is used: a change to DRAIN. -/
def DomAsk.saves (q : DomAsk) (p : Part) : Bool := q.va != 0 && p.state != 2 && (q.result p).state == 2
/-- The restore VA is used: a change from EMPTY to RUN or HELD. -/
def DomAsk.restores (q : DomAsk) (p : Part) : Bool := q.va != 0 && p.state == 0 && (q.result p).state != 0

/-- DOMSET that is not refused, at H (R339, R340). A save or restore VA that is not 64-byte aligned raises ALIGN (log 13). -/
def State.domGo (s : State) (g : CoreId) (i : SlotId) (f : FmtS) (act : Nat) (q : DomAsk) : State :=
  let p := (s.core q.t).part[q.e]
  let r := q.result p
  let who := some (g, i, act)
  let finish := fun (s : State) => (s.putX g i f.dst p.b).pcNext g i
  if !q.saves p && !q.restores p then finish (s.domApply q)
  else if q.va.toNat % 64 ≠ 0 then raise s g i ⟨.align, q.va, 0⟩
  else if q.saves p then
    match s.areaWritable q.t r.dom who (pageSteps q.va.toNat r.areaLen) with
    | (s1, .ok) => finish (s1.domApply q)
    | (s1, .waits) => s1
    | (s1, .bad va) => raise s1 g i ⟨.access, BitVec.ofNat 64 va, 0⟩
  else
    match s.areaRead q.t r.dom who (r.areaLen / 64) q.va.toNat with
    | (s1, .waits, _) => s1
    | (s1, .bad va, _) => raise s1 g i ⟨.access, BitVec.ofNat 64 va, 0⟩
    | (s1, .ok, bs) =>
      if !headFits r bs then raise s1 g i (trapOf .illegal)
      else finish ((s1.domApply q).modCore q.t (fun c => c.loadArea r bs))

/-- DOMSET (R338, R339). -/
def execDomset (f : FmtS) (s : State) : Host.Outcome State Fault Refusal :=
  runCore s (specRegs [f.dst] ++ quadRegs f.sa) (fun g i sl =>
    match domAsk g sl f with
    | none => raise s g i (trapOf .illegal)
    | some q =>
      if !q.wa && !q.wb then
        (if sl.level ≠ 2 then raise s g i (trapOf .priv) else (s.putX g i f.dst (s.core q.t).part[q.e].b).pcNext g i)
      else if (s.core q.t).domRefused q then raise s g i (trapOf .illegal)
      else if sl.level ≠ 2 then raise s g i (trapOf .priv)
      else s.domGo g i f sl.task.act q)

/-! ## DRAIN (R342) -/

/-- DRAIN. -/
def execDrain (g : CoreId) (e : PartId) (s : State) : Host.Outcome State Fault Refusal := .next ((s.drain g e stAborted).getD s)

end Sys2Proof.Machine
end

