-- ==== Sys2Proof/Machine/Homes.lean ====
section
/-! DEFINITION. The events of the coherence network: fills, registrations, recalls, write-backs, the requests between dies and
their forwards, and the answers of coherence points (R170, R171, R174, R176, R177, R182, R184 to R186, R232, R251, R252, R307 to
R309, R344), and the migration of a page (R225). -/

namespace Sys2Proof.Machine

/-! ## Messages -/

/-- The n-th message leaves the network. -/
def State.dropMsg (s : State) (n : Nat) : State := { s with net := s.net.eraseIdx n }

/-- A message leaves the network, wherever it stands now. -/
def State.dropThe (s : State) (m : Msg) : State := { s with net := s.net.erase m }

/-- The n-th message becomes another, in its place. -/
def State.setMsg (s : State) (n : Nat) (m : Msg) : State := { s with net := s.net.set n m }

/-- The core and bytes of a message that a core's L1 sends to its home slices (R252). -/
def Msg.fromCore (m : Msg) : Option (CoreId × Run) :=
  match m with
  | .fillReq g _ r _ | .farRead g _ r _ => some (g, r)
  | .reg g _ r _ => some (g, r)
  | .writeBack g pa data .. => some (g, ⟨pa, data.length⟩)
  | .dereg g r _ => some (g, r)
  | .through g _ pa data => some (g, ⟨pa, data.length⟩)
  | _ => none

/-- The home slice at which an element is performed, of the core's own die for memory, of its region's for a tile; what goes to another
target passes none (R167, R183, R184, R196). -/
def State.elemSlice (s : State) (g : CoreId) (d : Dom) (e : Elem) : Option (DieId × Fin 16) :=
  match e.loc with
  | .mem pa mt _ => if mt = 0 || mt = 1 then some (g.die, homeSlice pa) else none
  | .tile idx t _ => (s.tileAt g d idx e.va).2.map (fun r => (r.region.home, tileSlice idx.toNat t))
  | _ => none

/-- The core and the slices of a request of a core: of the L1, or of an access at its coherence point, once it need not wait at the core
(R183). -/
def State.request (s : State) (m : Msg) : Option (CoreId × List (DieId × Fin 16)) :=
  match m with
  | .cp g id =>
    match (s.core g).pendOf id with
    | some p =>
      match p.kind with
      | .cp op => if s.pointWaits g p op then none else some (g, p.step.1.filterMap (s.elemSlice g p.dom))
      | _ => none
    | none => none
  | m => m.fromCore.map (fun x => (x.1, [(x.1.die, homeSlice x.2.pa)]))

/-- No earlier request of the core to one of the slices is under way: requests from one requester to one slice keep their order (R183,
R252). -/
def State.inOrderAt (s : State) (n : Nat) (g : CoreId) (l : List (DieId × Fin 16)) : Bool :=
  !(s.net.take n).any (fun m => match s.request m with
    | some (h, k) => h == g && k.any (fun x => l.contains x)
    | none => false)

/-- No earlier request of the core to the home slice of an address is under way. -/
def State.inOrder (s : State) (n : Nat) (g : CoreId) (pa : Nat) : Bool := s.inOrderAt n g [(g.die, homeSlice pa)]

/-- The order of an answer to a recall. DESIGN CHOICE: no earlier request of the core to the slice is under way but a registration, which may
itself wait for such an answer, and what has been sent after that; and no earlier message for the same bytes (R252; log 33). -/
def State.inOrderBytes (s : State) (n : Nat) (g : CoreId) (r : Run) : Bool :=
  let mine := (s.net.take n).filterMap (fun m => match m.fromCore with
    | some (h, q) => if h == g && homeSlice q.pa == homeSlice r.pa then some (m, q) else none
    | none => none)
  let first := match mine.head? with
    | some (.reg .., _) | none => true
    | _ => false
  first && !mine.any (fun x => x.2.meets r)

/-- The request queue of a slice has room (R183, R253). -/
def State.slotFree (s : State) (x : DieId × Fin 16) : Bool := decide ((((s.die x.1).sliceQ[x.2]).filter (fun y => y.2.2)).length < 32)

/-- The slice of an address on a die accepts a request now. -/
def State.accepts (s : State) (d : DieId) (pa : Nat) : Bool := s.slotFree (d, homeSlice pa)

/-- A slice has accepted a request (R373). -/
def State.accepted (s : State) (d : DieId) (pa : Nat) : State := s.modDie d (fun x => x.sliceUp pa 0)

/-- The slice that serves a die's request for a grain accepts it: none is on the device for host memory. -/
def State.homeAccepts (s : State) (q : Run) : Bool := isFabric q.pa || s.accepts (dieOf q.pa) q.pa

/-- A die's request for a grain is at its true home: it has crossed the edges between, and is counted (R307, R373). -/
def State.atHome (s : State) (d : DieId) (q : Run) : State :=
  if isFabric q.pa then s else (s.crossed d (dieOf q.pa)).accepted (dieOf q.pa) q.pa

/-- The filter entry of a grain becomes the most recently used (R308). -/
def State.dirTouch (s : State) (q : Run) : State :=
  match s.dirGet q with
  | some e => if isFabric q.pa then s else s.modDie (dieOf q.pa) (fun x => { x with dir := e :: x.dir.filter (fun y => y.pa != q.pa || y.len != q.len) })
  | none => s

/-- Sectors of a run that are poisoned at their home (R180). -/
def State.badIn (s : State) (r : Run) : List Nat :=
  s.poison.filter (fun x => decide (32 * x < r.pa + r.len) && decide (r.pa < 32 * x + 32))

/-- A new holding finds a way: in a full set the least recently used entry goes (R186). -/
def State.filterRoom (s : State) (q : Run) : State :=
  if isFabric q.pa || (s.dirGet q).isSome then s
  else
    match (s.filterWays q).getLast? with
    | some e => if (s.filterWays q).length < 8 then s else s.backInvalidate (dieOf q.pa) e
    | none => s

/-- The host comes to hold a copy of a grain: its least recently used ones of the set go where HOSTCAP is reached (R186, R187,
R354). -/
def State.hostHold (s : State) (q : Run) : State :=
  let d := dieOf q.pa
  let s1 := s.hostCut d (fun e => sameFilterSet e.pa q.pa && (e.pa != q.pa || e.len != q.len)) ((s.die d).hostWays - 1) 8
  let s2 := s1.filterRoom q
  let dies := match s2.dirGet q with
    | some e => (e.dies, e.owner, e.st)
    | none => (0, none, .s)
  s2.modDie (dieOf q.pa) (fun x =>
    let rest := x.dir.filter (fun e => e.pa != q.pa || e.len != q.len)
    { x with dir := ⟨q.pa, q.len, dies.1, true, dies.2.1, dies.2.2⟩ :: rest })

/-- A grain held somewhere in another grain size goes home before it is held in a new one. -/
def State.oddGrain (s : State) (q : Run) : Bool :=
  s.dies.toList.any (fun d => d.visitors.any (fun v => (⟨v.pa, v.data.length⟩ : Run).meets q && (v.pa != q.pa || v.data.length != q.len)))

/-- A request for a grain is being answered: an invalidation or a forward of it is under way. -/
def State.grainBusy (s : State) (q : Run) : Bool :=
  s.net.any (fun m => match m with
    | .inval _ r => r.meets q
    | .snoop _ (.rds _) _ r => r.meets q
    | .snoop _ (.rdown _) _ r => r.meets q
    | _ => false)

/-- A request of a die for a grain is under way. -/
def State.asked (s : State) (d : DieId) (q : Run) (own : Bool) : Bool :=
  s.net.any (fun m => match m with
    | .rds e _ r => !own && e == d && r.meets q
    | .rdown e _ r => e == d && r.meets q
    | .snoop _ (.rds _) e r => !own && e == d && r.meets q
    | .snoop _ (.rdown _) e r => e == d && r.meets q
    | _ => false)

/-- New messages, or none if there are none to send. -/
def State.sendSome (s : State) (l : List Msg) : Option State := if l.isEmpty then none else some (s.send l)

/-! ## Fills (R170, R177, R182) -/

/-- Parts of a run that the cores of a die own, and the rest. A part is widened to 8-byte groups, so that no element is answered in two
parts (R209). -/
def ownedParts (l : List Owned) (r : Run) : List (CoreId × Run) × List Run :=
  l.foldl (fun (o : List (CoreId × Run) × List Run) x =>
    match (⟨x.pa, x.len⟩ : Run).common r with
    | none => o
    | some q =>
      let lo := q.pa / 8 * 8
      match (⟨lo, (q.pa + q.len + 7) / 8 * 8 - lo⟩ : Run).common r with
      | none => o
      | some wide =>
        let mine := o.2.filterMap (fun y => y.common wide)
        (o.1 ++ mine.map (fun y => (x.g, y)), runsMinus o.2 [wide])) ([], [r])

/-- What a slice holds of memory: ranges of its own home's, grains of another's. -/
def Die.holdsRun (x : Die) (d : DieId) (q : Run) : Bool :=
  (runsMinus [q] (if visited d q.pa then x.visitors.map (fun v => ⟨v.pa, v.data.length⟩) else x.l2.map (fun e => (⟨e.pa, e.len⟩ : Run)))).isEmpty

/-- Data of a fill join those that wait for a slice's port, `hit` saying that the request keeps its place in the queue (R253). -/
def Die.portJoin (x : Die) (g : CoreId) (q : Run) (hit : Bool) : Die :=
  { x with sliceQ := x.sliceQ.set (homeSlice q.pa) (x.sliceQ[homeSlice q.pa] ++ [(g, q, hit)]) }

/-- A home slice, or a visitor slice that holds the grains, serves a fill (R177). What its L2 holds, or a visitor, keeps its place in the
request queue until its data has left; what it does not hold is read first (R253). DESIGN CHOICE: bytes that a core owns, which are forwarded
to it and neither hit nor miss, leave the queue at once and take no turn at the port (log 77). -/
def State.serveFill (s : State) (g : CoreId) (dom : Dom) (r : Run) : State :=
  let d := s.die g.die
  let p := ownedParts d.owned r
  let hit := d.holdsRun g.die
  let here := p.2.filter hit
  (s.modDie g.die (fun x => here.foldl (fun x q => x.portJoin g q true) (x.sliceUp r.pa 0))).send
    (p.1.map (fun x => Msg.fwdRead x.1 g dom x.2) ++ here.map (fun q => Msg.fillResp g dom q.pa (s.cohRead q.pa q.len) true (s.badIn q)) ++
      (p.2.filter (fun q => !hit q)).map (fun q => Msg.hbmRead g dom q))

/-- Grains of a fill that the visitor slice lacks. -/
def State.fillLacks (s : State) (g : CoreId) (r : Run) (grain : Nat) : List Run :=
  if visited g.die r.pa then (grainsOf grain r).filter (fun q => ((s.die g.die).grain q).isNone) else []

/-- The requests for grains that a fill lacks. -/
def State.askGrains (s : State) (g : CoreId) (dom : Dom) (l : List Run) : List Msg :=
  (l.filter (fun q => !s.asked g.die q false)).map (fun q => Msg.rds g.die dom q)

/-- HOME_FILL_REQUEST: a fill is accepted at its home slice where the request queue has room, or at a visitor slice, which asks for the
grains it lacks. Where the VF has no way no grain is asked for, and the fill is served without allocating (R182, R253, R307). -/
def State.homeFill (s : State) (n : Nat) : Option State :=
  match s.net[n]? with
  | some (.fillReq g dom r grain) =>
    if !s.inOrder n g r.pa || !s.accepts g.die r.pa then none
    else
      let lacks := s.fillLacks g r grain
      if lacks.isEmpty || s.l2ways g.die dom == 0 then some ((s.dropMsg n).serveFill g dom r)
      else some ((s.setMsg n (.farRead g dom r grain)).send (s.askGrains g dom lacks))
  | _ => none

/-- HOME_FILL_REQUEST. -/
def execHomeFillRequest (n : Nat) (s : State) : Host.Outcome State Fault Refusal := .next ((s.homeFill n).getD s)

/-- Data read from HBM are allocated, widened to 64-byte alignment (R177, R182); those of another home are not kept (R182, R184). -/
def State.hbmKeep (s : State) (g : CoreId) (dom : Dom) (r : Run) : State :=
  if visited g.die r.pa then s
  else
    let lo := r.pa / 64 * 64
    let wide := runsMinus [⟨lo, (r.pa + r.len + 63) / 64 * 64 - lo⟩] ((s.die g.die).l2.map (fun e => (⟨e.pa, e.len⟩ : Run)))
    wide.foldl (fun s q => s.l2Allocate g.die (s.l2ways g.die dom) q) s

/-- HBM_READ: the data arrives, is allocated, and takes its turn at the port to answer the fill (R253); a fill that waits for grains is
served once the visitor slice holds them. -/
def State.hbmArrive (s : State) (n : Nat) : Option State :=
  match s.net[n]? with
  | some (.hbmRead g dom r) =>
    some ((((s.dropMsg n).hbmKeep g dom r).modDie g.die (fun x => x.portJoin g r false)).send
      [.fillResp g dom r.pa (s.cohRead r.pa r.len) true (s.badIn r)])
  | some (.farRead g dom r grain) =>
    let lacks := s.fillLacks g r grain
    if !s.accepts g.die r.pa then none
    else if lacks.isEmpty || s.l2ways g.die dom == 0 then some ((s.dropMsg n).serveFill g dom r)
    else s.sendSome (s.askGrains g dom lacks)
  | _ => none

/-- HBM_READ. -/
def execHbmRead (n : Nat) (s : State) : Host.Outcome State Fault Refusal := .next ((s.hbmArrive n).getD s)

/-- The poison that a core's owned bytes of a run carry: that of its entries, and the home's for sectors of which it owns only a part
(R180). -/
def State.ownedPoison (s : State) (o : CoreId) (r : Run) : List Nat :=
  let mine := (s.core o).l1.filter (fun e => e.state != .clean && e.run.meets r)
  mine.flatMap (fun e => e.badOf r) ++ (s.badIn r).filter (fun x => !(runsMinus [⟨32 * x, 32⟩] (mine.map L1Entry.run)).isEmpty)

/-- FORWARDED_READ: the owner supplies its current bytes, with the poison of its entry (R177, R180); the home answers for what a
write-back has taken from it (R174). -/
def State.forwarded (s : State) (n : Nat) : Option State :=
  match s.net[n]? with
  | some (.fwdRead o g dom r) =>
    some ((s.dropMsg n).send [.fillResp g dom r.pa (s.cohRead r.pa r.len) true (s.ownedPoison o r)])
  | _ => none

/-- FORWARDED_READ. -/
def execForwardedRead (n : Nat) (s : State) : Host.Outcome State Fault Refusal := .next ((s.forwarded n).getD s)

/-- Fill data becomes a clean entry if there is room, with its poisoned sectors, and entries are merged; what the loads that wait for it
have of their own extents is not freed for it (R170, R172, R173, R180). -/
def State.fillEntry (s : State) (g : CoreId) (dom : Dom) (pa : Nat) (data : List Byte) (bad : List Nat) : State :=
  let c := s.core g
  let r : Run := ⟨pa, data.length⟩
  let mine := (c.pend.filter (fun p => (match p.kind with
    | .load .. => true
    | _ => false) && runsMeet p.runs [r])).flatMap (fun p => p.runs)
  let a : L1Acc := ⟨g, c.l1ways dom, r :: mine, s.now, []⟩
  let free := runsMinus [r] (c.l1.map L1Entry.run)
  let o := free.foldl (fun (o : List L1Entry × List Msg) q =>
    let poison := BitVec.ofNat 128 (packFields 1 (fun k => if bad.contains (q.pa / 4096 * 128 + k) then 1 else 0) 128)
    let e : L1Entry := ⟨q.pa / 4096, q.pa % 4096, (data.drop (q.pa - pa)).take q.len, .clean, dom, 0, poison, s.now, []⟩
    match l1Place a e o.1 with
    | some p => (p.1, o.2 ++ p.2)
    | none => o) (c.l1, [])
  s.putL1 g dom (l1Coalesce o.1) o.2

/-- Bytes that have arrived leave their fill tracker, which is free once all have (R183). -/
def Core.arrived (c : Core) (dom : Dom) (r : Run) : Core :=
  let on := c.fills.map (fun (f : Fill) => if f.dom == dom then (⟨f.dom, runsMinus f.left [r]⟩ : Fill) else f)
  { c with fills := on.filter (fun f => !f.left.isEmpty) }

/-- Fill data reaches one load that waits for it. -/
def State.fillLoad (s : State) (g : CoreId) (dom : Dom) (pa : Nat) (data : List Byte) (bad : List Nat) (id : Nat) : State :=
  match (s.core g).pendOf id with
  | none => s
  | some p =>
    match p.kind with
    | .load got todo mixed =>
      if p.dom ≠ dom then s
      else
        let want := p.runs.flatMap (fun r => (List.range r.len).map (fun k => r.pa + k))
        let new := want.filterMap (fun a => if (gotByte got a).isSome then none else (byteFrom pa data a).map (fun b => (a, b)))
        let hit := p.elems.find? (fun e => match e.loc with
          | .mem a _ _ => new.any (fun x => decide (a ≤ x.1) && decide (x.1 < a + p.size) && bad.contains (x.1 / 32))
          | _ => false)
        match hit with
        | some e => s.loadPoison g p e.va
        | none => if new.isEmpty then s else s.tryFinish g { p with kind := .load (got ++ new) todo mixed }
    | _ => s

/-- An entry of a port's list is a core's data for a run. -/
def portOf (g : CoreId) (r : Run) (x : CoreId × Run × Bool) : Bool := x.1 == g && x.2.1 == r

/-- Data leave a slice in the order in which they came to wait for its port; what waits for none leaves as it comes (R253). -/
def State.portTurn (s : State) (g : CoreId) (r : Run) : Bool :=
  match (s.die g.die).sliceQ[homeSlice r.pa] with
  | [] => true
  | x :: l => portOf g r x || !l.any (portOf g r)

/-- Data have left their slice's port. -/
def Die.portLeave (x : Die) (g : CoreId) (r : Run) : Die :=
  { x with sliceQ := x.sliceQ.set (homeSlice r.pa) (x.sliceQ[homeSlice r.pa].eraseP (portOf g r)) }

/-- L1_FILL_RESPONSE: the entry is made, and waiting accesses are served (R170, R172, R183, R251). -/
def State.fillArrive (s : State) (n : Nat) : Option State :=
  match s.net[n]? with
  | some (.fillResp g dom pa data keep bad) =>
    let r : Run := ⟨pa, data.length⟩
    if !s.portTurn g r then none
    else
      let s0 := (s.dropMsg n).modDie g.die (fun x => x.portLeave g r)
      let s1 := s0.modCore g (fun c => c.arrived dom r)
      let s2 := if keep then s1.fillEntry g dom pa data bad else s1
      let s3 := ((s2.core g).pend.map (fun p => p.id)).foldl (fun (s : State) id => s.fillLoad g dom pa data bad id) s2
      some (s3.tryAll g)
  | _ => none

/-- L1_FILL_RESPONSE. -/
def execL1FillResponse (n : Nat) (s : State) : Host.Outcome State Fault Refusal := .next ((s.fillArrive n).getD s)

/-! ## Registrations, recalls and write-backs (R171, R174, R176, R184) -/

/-- An answer to a recall of bytes is under way from a core, or the recall itself. -/
def State.recalling (s : State) (o : CoreId) (r : Run) : Bool :=
  s.net.any (fun m => match m with
    | .recall h q => h == o && q.meets r
    | .writeBack h pa data _ true _ _ => h == o && (⟨pa, data.length⟩ : Run).meets r
    | .dereg h q true => h == o && q.meets r
    | _ => false)

/-- What a registration waits for: grains in E or M, remote holders invalidated, the old owner's bytes recalled. -/
def State.regNeeds (s : State) (g : CoreId) (dom : Dom) (r : Run) (grain : Nat) : Option (List Msg) :=
  let d := g.die
  let lacking := if visited d r.pa && s.l2ways d dom != 0 then (grainsOf grain r).filter (fun q => !(s.die d).ownsGrain q) else []
  let remote := if visited d r.pa then [] else (s.die d).dir.filter (fun e => e.dies != 0 && (⟨e.pa, e.len⟩ : Run).meets r)
  let others := (s.die d).owned.filter (fun o => o.g != g && (⟨o.pa, o.len⟩ : Run).meets r)
  if lacking ≠ [] then some ((lacking.filter (fun q => !s.asked d q true)).map (fun q => Msg.rdown d dom q))
  else if remote ≠ [] then
    some ((remote.filter (fun e => !s.grainBusy ⟨e.pa, e.len⟩)).flatMap (fun e => (diesOf e.dies).map (fun h => Msg.inval h ⟨e.pa, e.len⟩)))
  else if others ≠ [] then
    some ((others.filter (fun o => !s.recalling o.g r)).filterMap (fun o => ((⟨o.pa, o.len⟩ : Run).common r).map (fun q => Msg.recall o.g q)))
  else none

/-- Bytes of a store are performed: every agent sees them from now on (R207). -/
def State.unshadow (s : State) (g : CoreId) (id : Nat) (r : Run) : State :=
  match (s.core g).pendOf id with
  | none => s
  | some p =>
    match p.kind with
    | .store a before => if before.isEmpty then s else s.setPend g { p with kind := .store a (before.filter (fun x => !r.has x.1)) }
    | _ => s

/-- The domain of an access in flight. -/
def State.pendDom (s : State) (g : CoreId) (id : Nat) : Dom := (((s.core g).pendOf id).map (fun p => p.dom)).getD 0

/-- A slice records a core as the owner of a run (R176). -/
def Die.record (x : Die) (d : DieId) (g : CoreId) (r : Run) : Die :=
  { x with owned := ownedCut x.owned r ++ [⟨r.pa, r.len, g⟩], dir := if visited d r.pa then x.dir else dirCut x.dir r }

/-- A registration of a domain that has lost its ways of the L2 meanwhile is recorded nowhere: the bytes are stored where they belong, and
become clean at the core (R182; log 8). -/
def State.registerThrough (s : State) (g : CoreId) (dom : Dom) (r : Run) : State :=
  let l := dirtyOf (s.core g).l1 r
  let o := l1GiveUp g (s.core g).l1ways s.now r (s.core g).l1
  let s1 := (s.modCore g (fun c => { c with l1 := o.1 })).send o.2
  l.foldl (fun s x => (s.storeFrom g.die dom x.1 x.2.1).markPoison x.2.2) s1

/-- A registration of memory with another home: every grain of it becomes M; none where one has left the slice meanwhile (R184, R185). -/
def State.registerVisitor (s : State) (g : CoreId) (dom : Dom) (r : Run) (grain : Nat) : State × Bool :=
  let qs := grainsOf grain r
  let s1 := qs.foldl (fun (s : State) q => s.regrant q) (s.visitorState g.die dom qs .m)
  (s1, qs.all (fun q => (s1.die g.die).ownsGrain q))

/-- REGISTRATION: the new owner is recorded once nothing is left to wait for, and acknowledged (R176, R184). -/
def State.register' (s : State) (n : Nat) : Option State :=
  match s.net[n]? with
  | some (.reg g id r grain) =>
    let dom := s.pendDom g id
    if !s.inOrder n g r.pa || !s.accepts g.die r.pa then none
    else
      match s.regNeeds g dom r grain with
      | some l => s.sendSome l
      | none =>
        let done := fun (s : State) => (((s.dropThe (.reg g id r grain)).accepted g.die r.pa).unshadow g id r).send [.regAck g id r]
        let record := fun (s : State) => done ((s.modDie g.die (fun x => x.record g.die g r)).storeEvent none 0 (.mem r.pa 0 0) r.len)
        if !visited g.die r.pa then some (record s)
        else if s.l2ways g.die dom = 0 then some (done (s.registerThrough g dom r))
        else
          match s.registerVisitor g dom r grain with
          | (s1, true) => some (record s1)
          | (s1, false) => some s1
  | _ => none

/-- REGISTRATION. -/
def execRegistration (n : Nat) (s : State) : Host.Outcome State Fault Refusal := .next ((s.register' n).getD s)

/-- One acknowledgement that a store waits for has come; with the last it is performed, and clears the poison of the sectors it has
written in full (R171, R173, R180). -/
def State.storeAck (s : State) (g : CoreId) (id : Nat) : State :=
  match (s.core g).pendOf id with
  | none => s
  | some p =>
    match p.kind with
    | .store a before =>
      if a ≤ 1 then (((storeRuns p.runs).foldl (fun (s : State) r => s.clearPoison r.pa r.len) s).finishStore g p).tryAll g
      else s.setPend g { p with kind := .store (a - 1) before }
    | _ => s

/-- REGISTRATION_ACK (R171). -/
def State.regAcked (s : State) (n : Nat) : Option State :=
  match s.net[n]? with
  | some (.regAck g id _) => some ((s.dropMsg n).storeAck g id)
  | _ => none

/-- REGISTRATION_ACK. -/
def execRegistrationAck (n : Nat) (s : State) : Host.Outcome State Fault Refusal := .next ((s.regAcked n).getD s)

/-- RECALL: dirty bytes are written back, and the bytes become clean (R174, R176). -/
def State.recalled (s : State) (n : Nat) : Option State :=
  match s.net[n]? with
  | some (.recall o r) =>
    let x := (s.core o).giveUp o s.now r
    let s1 := ((s.dropMsg n).tallyBacks o r).modCore o (fun c => { c with l1 := x.2.1 })
    some (s1.send (x.1.map (fun p => Msg.writeBack o p.1 p.2.1 false true none p.2.2) ++ x.2.2 ++ [.dereg o r true]))
  | _ => none

/-- RECALL. -/
def execRecall (n : Nat) (s : State) : Host.Outcome State Fault Refusal := .next ((s.recalled n).getD s)

/-- A FLUSH learns that one of its write-backs has been performed (R238). -/
def State.flushed (s : State) (g : CoreId) (id : Nat) : State :=
  match (s.core g).pendOf id with
  | none => s
  | some p =>
    match p.kind with
    | .flush k => if k ≤ 1 then s.finishStore g p else s.setPend g { p with kind := .flush (k - 1) }
    | _ => s

/-- WRITE_BACK: the bytes are performed at the home before any deregistration takes effect (R174, R180). -/
def State.wroteBack (s : State) (n : Nat) : Option State :=
  match s.net[n]? with
  | some (.writeBack g pa data dereg rec id bad) =>
    let r : Run := ⟨pa, data.length⟩
    if !(if rec then s.inOrderBytes n g r else s.inOrder n g pa) || !s.accepts g.die pa then none
    else
      let s1 := ((s.dropMsg n).accepted g.die pa).levelWrite g.die pa data bad
      let s2 := if dereg then s1.modDie g.die (fun d => { d with owned := ownedDrop d.owned g r }) else s1
      some (match id with
        | some id => s2.flushed g id
        | none => s2)
  | _ => none

/-- WRITE_BACK. -/
def execWriteBack (n : Nat) (s : State) : Host.Outcome State Fault Refusal := .next ((s.wroteBack n).getD s)

/-- DEREGISTRATION: the home drops the record (R174). -/
def State.deregistered (s : State) (n : Nat) : Option State :=
  match s.net[n]? with
  | some (.dereg g r rec) =>
    if !(if rec then s.inOrderBytes n g r else s.inOrder n g r.pa) || !s.accepts g.die r.pa then none
    else some (((s.dropMsg n).accepted g.die r.pa).modDie g.die (fun d => { d with owned := ownedDrop d.owned g r }))
  | _ => none

/-- DEREGISTRATION. -/
def execDeregistration (n : Nat) (s : State) : Host.Outcome State Fault Refusal := .next ((s.deregistered n).getD s)

/-! ## Between dies (R185, R186, R307 to R309) -/

/-- A grain granted to a die from its home: what the home's own L1s own of it comes first (R176). -/
def State.grantHome (s : State) (d : DieId) (dom : Dom) (q : Run) (dies : BitVec 6) (shared : Bool) : State :=
  let s1 := if isFabric q.pa then s.absorb q else s.recallGrain (dieOf q.pa) q
  let s2 := s1.filterRoom q
  let s3 := s2.putVisitor d dom q (s2.cohRead q.pa q.len) (if shared then .s else .e)
  if shared then s3.dirPut q (dies ||| dieBit d) none .s else s3.dirPut q (dieBit d) (some d) .em

/-- RDS at the true home (R308). -/
def State.serveRds (s : State) (n : Nat) : Option State :=
  match s.net[n]? with
  | some (.rds d dom q) =>
    let s0 := (s.dropMsg n).atHome d q
    if s.grainBusy q || !s.homeAccepts q then none
    else if ((s.die d).grain q).isSome then some (s0.dirTouch q)
    else if s.l2ways d dom = 0 then some s0
    else
      let s1 := if s0.oddGrain q then s0.takeHome q else s0
      some (match s1.dirGet q with
        | none => s1.grantHome d dom q 0 false
        | some e =>
          match e.st, e.owner with
          | .s, _ => s1.grantHome d dom q e.dies true
          | _, some o => s1.send [.snoop o (.rds dom) d q]
          | _, none => s1.grantHome d dom q e.dies true)
  | _ => none

/-- RDS. -/
def execRds (n : Nat) (s : State) : Host.Outcome State Fault Refusal := .next ((s.serveRds n).getD s)

/-- RDOWN at the true home (R308): a grant waits for every invalidation it needs. -/
def State.serveRdown (s : State) (n : Nat) : Option State :=
  match s.net[n]? with
  | some (.rdown d dom q) =>
    let whole := fun (s1 : State) => if s.oddGrain q then s1.takeHome q else s1
    let home := (whole (s.dropMsg n)).atHome d q
    if s.grainBusy q || !s.homeAccepts q then none
    else if (s.die d).ownsGrain q then some (((s.dropMsg n).atHome d q).dirTouch q)
    else if s.l2ways d dom = 0 then some ((s.dropMsg n).atHome d q)
    else
      let s1 := whole s
      match s1.dirGet q with
      | none => some (home.grantHome d dom q 0 false)
      | some e =>
        match (diesOf e.dies).filter (fun h => h != d && some h != e.owner) with
        | [] =>
          some (match e.owner with
            | some o =>
              if o = d then (home.visitorState d dom [q] .m).dirPut q (dieBit d) (some d) .em
              else home.send [.snoop o (.rdown dom) d q]
            | none => home.grantHome d dom q 0 false)
        | others => some (s1.send (others.map (fun h => Msg.inval h q)))
  | _ => none

/-- RDOWN. -/
def execRdown (n : Nat) (s : State) : Host.Outcome State Fault Refusal := .next ((s.serveRdown n).getD s)

/-- An element lies in a grain. -/
def Elem.inGrain (e : Elem) (q : Run) : Bool :=
  match e.loc with
  | .mem pa _ _ => q.has pa
  | _ => false

/-- An access in flight reads its bytes of a grain that has been answered (R307). -/
def State.readGrain (s : State) (g : CoreId) (id : Nat) (q : Run) : State :=
  match (s.core g).pendOf id with
  | none => s
  | some p =>
    match p.kind with
    | .cp .read | .cp (.ldx ..) =>
      match s.pointPoison { p with elems := p.elems.filter (fun e => e.inGrain q) } with
      | some va => s.pointTrap g p va
      | none =>
        match s.readPoints g p.dom p.size (p.elems.filter (fun e => e.inGrain q)) with
        | (s1, .ok (vs, _)) => s1.setPend g { p with elems := p.elems.filter (fun e => !e.inGrain q), vals := p.vals ++ vs }
        | (s1, .error _) => s1
    | .cp .lr => (s.performPoint g p .lr false).getD s
    | _ => s

/-- RDNA at the true home: the reading access gets current bytes, and nothing is allocated (R307, R308). -/
def State.serveRdna (s : State) (n : Nat) : Option State :=
  match s.net[n]? with
  | some (.rdna g id d q) =>
    if s.grainBusy q || !s.homeAccepts q then none
    else
      let s0 := (s.dropMsg n).atHome d q
      some (match s0.dirGet q with
        | some e =>
          match e.st, e.owner with
          | .s, _ => s0.readGrain g id q
          | _, some o => s0.send [.snoop o (.rdna g id) d q]
          | _, none => s0.readGrain g id q
        | none => s0.readGrain g id q)
  | _ => none

/-- RDNA. -/
def execRdna (n : Nat) (s : State) : Host.Outcome State Fault Refusal := .next ((s.serveRdna n).getD s)

/-- The owner of a grain answers a forward for RdS or RdOwn (R308, R309). -/
def State.supply (s : State) (o d : DieId) (dom : Dom) (own : Bool) (q : Run) : State :=
  let e := s.dirGet q
  let dies := match e with
    | some e => e.dies
    | none => 0
  let s1 := s.recallGrain o q
  match (s1.die o).grain q with
  | none => s1
  | some v =>
    let dirty := v.st == .m || v.st == .o
    if own then
      let s2 := s1.modDie o (fun x => { x with visitors := x.visitors.filter (fun w => w.pa != q.pa || w.data.length != q.len) })
      (s2.putVisitor d dom q v.data (if dirty then .m else .e)).dirPut q (dieBit d) (some d) .em
    else
      let s2 := (s1.visitorState o dom [q] (if dirty then .o else .s)).putVisitor d dom q v.data .s
      s2.dirPut q (dies ||| dieBit o ||| dieBit d) (if dirty then some o else none) (if dirty then .o else .s)

/-- SNOOP_FORWARD: an owner that has let the grain go meanwhile leaves the request to the home again. -/
def State.snooped (s : State) (n : Nat) : Option State :=
  match s.net[n]? with
  | some (.snoop o why d q) =>
    let s0 := ((s.dropMsg n).crossed (dieOf q.pa) o).crossed o d
    let held := ((s0.die o).grain q).isSome
    some (match why with
      | .rds dom => if s0.l2ways d dom = 0 then s0 else if held then s0.supply o d dom false q else s0.send [.rds d dom q]
      | .rdown dom => if s0.l2ways d dom = 0 then s0 else if held then s0.supply o d dom true q else s0.send [.rdown d dom q]
      | .rdna g id => if held then s0.readGrain g id q else s0.send [.rdna g id d q])
  | _ => none

/-- SNOOP_FORWARD. -/
def execSnoopForward (n : Nat) (s : State) : Host.Outcome State Fault Refusal := .next ((s.snooped n).getD s)

/-- INVALIDATION (R308, R309). -/
def State.invalidated (s : State) (n : Nat) : Option State :=
  match s.net[n]? with
  | some (.inval h q) => some (((s.dropMsg n).crossed (dieOf q.pa) h).dropHolding h q)
  | _ => none

/-- INVALIDATION. -/
def execInvalidation (n : Nat) (s : State) : Host.Outcome State Fault Refusal := .next ((s.invalidated n).getD s)

/-- VISITOR_EVICTION (R185). -/
def State.visitorEvict (s : State) (d : DieId) (n : Nat) : Option State :=
  ((s.die d).visitors[n]?).map (fun v => s.dropHolding d ⟨v.pa, v.data.length⟩)

/-- VISITOR_EVICTION. -/
def execVisitorEviction (d : DieId) (n : Nat) (s : State) : Host.Outcome State Fault Refusal := .next ((s.visitorEvict d n).getD s)

/-! ## Coherence points and targets (R205, R232) -/

/-- Grains of an access at its coherence point that the die's visitor slice must ask the true home for (R307). -/
def State.rdnaNeeds (s : State) (g : CoreId) (p : Pend) : List Run :=
  (p.elems.filterMap (fun e => match e.loc with
    | .mem pa mt gr =>
      let q : Run := ⟨pa / grainSize gr * grainSize gr, grainSize gr⟩
      if (mt == 0 || mt == 1) && visited g.die pa && !(s.die g.die).ownsGrain q then some q else none
    | _ => none)).eraseDups

/-- The access reads memory through the die's visitor slice; LR on host memory takes the grain in M instead (R247). -/
def Pend.readsFar (p : Pend) (op : CpOp) : Bool :=
  match op with
  | .read | .ldx .. => true
  | .lr => !p.elems.any (fun e => e.loc.hosted)
  | _ => false

/-- Grains of host memory that the die's visitor slice must hold in E or M first: for an LR, an SC, or an atomic that the fabric does not
carry (R245, R247, R307); none for a VF without ways, which is served at the home (R182). -/
def State.ownNeeds (s : State) (g : CoreId) (p : Pend) (op : CpOp) : List Run :=
  let own := match op with
    | .lr | .sc _ => true
    | .amo k _ _ => !fabricCarries k p.size
    | .vamo fadd _ => !fabricCarries (if fadd then .fadd else .add) p.size
    | _ => false
  if !own then []
  else
    (p.elems.filterMap (fun e => match e.loc with
      | .mem pa mt gr =>
        let q : Run := ⟨pa / grainSize gr * grainSize gr, grainSize gr⟩
        if mt == 1 && s.l2ways g.die p.dom != 0 && !(s.die g.die).ownsGrain q then some q else none
      | _ => none)).eraseDups

/-- An RDNA of an access for a grain is under way. -/
def State.rdnaAsked (s : State) (g : CoreId) (id : Nat) (q : Run) : Bool :=
  s.net.any (fun m => match m with
    | .rdna h i _ r => h == g && i == id && r == q
    | .snoop _ (.rdna h i) _ r => h == g && i == id && r == q
    | _ => false)

/-- What the next event of an access asks for first: grains in E or M, and grains to be read at their homes (R307). -/
def State.pointNeeds (s : State) (g : CoreId) (p : Pend) (op : CpOp) : List Run × List Run :=
  let q : Pend := { p with elems := p.step.1 }
  if (s.pointPoison q).isSome then ([], []) else (s.ownNeeds g q op, if p.readsFar op then s.rdnaNeeds g q else [])

/-- The slices of an access accept it now, in its order among the core's requests to them (R183). -/
def State.pointAccepted (s : State) (n : Nat) (g : CoreId) (p : Pend) : Bool :=
  let l := p.step.1.filterMap (s.elemSlice g p.dom)
  s.inOrderAt n g l && l.all s.slotFree

/-- An access in flight at its coherence point is performed, or asks for what it needs first; with `evict` an aged reservation leaves for
an LR. -/
def State.pointGo (s : State) (n : Nat) (g : CoreId) (p : Pend) (op : CpOp) (evict : Bool) : Option State :=
  if s.pointWaits g p op || !s.pointAccepted n g p then none
  else
    match s.pointNeeds g p op with
    | ([], []) =>
      let s1 := (p.step.1.filterMap (s.elemSlice g p.dom)).eraseDups.foldl (fun (s : State) x => s.modDie x.1 (fun y => y.sliceCount x.2 0)) (s.dropMsg n)
      (s1.performPoint g p op evict).map (fun s => s.tryAll g)
    | ([], far) => if evict then none else s.sendSome ((far.filter (fun q => !s.rdnaAsked g p.id q)).map (fun q => Msg.rdna g p.id g.die q))
    | (own, _) => if evict then none else s.sendSome ((own.filter (fun q => !s.asked g.die q true)).map (fun q => Msg.rdown g.die p.dom q))

/-- COHERENCE_POINT_RESPONSE: the access is performed and answered; bytes that passed through the L1 are performed (R173, R232). -/
def State.pointAnswer (s : State) (n : Nat) : Option State :=
  match s.net[n]? with
  | some (.cp g id) =>
    match (s.core g).pendOf id with
    | none => some (s.dropMsg n)
    | some p =>
      match p.kind with
      | .cp op => s.pointGo n g p op false
      | _ => some (s.dropMsg n)
  | some (.through g id pa data) =>
    if !s.inOrder n g pa || !s.accepts g.die pa then none
    else some (((((s.dropMsg n).accepted g.die pa).unshadow g id ⟨pa, data.length⟩).storeFrom g.die (s.pendDom g id) pa data).storeAck g id)
  | _ => none

/-- COHERENCE_POINT_RESPONSE. -/
def execCoherencePointResponse (n : Nat) (s : State) : Host.Outcome State Fault Refusal := .next ((s.pointAnswer n).getD s)

/-- An LR reads through the visitor slice and its table is full: an aged entry leaves, and the LR finds room when its grain has been read
(R247, R307). -/
def State.lrFarEvict (s : State) (g : CoreId) (p : Pend) : Option State :=
  match p.step.1 with
  | [] => none
  | e :: _ =>
    let h := (s.resvHome g p.dom e).2
    let s2 := if s.pendSlot g p then s.dropReservation g p.slot else s
    if !s2.resvFull h || (s.pointNeeds g p .lr).1 ≠ [] || (s.pointNeeds g p .lr).2 = [] then none
    else (s2.resv.find? (fun r => r.home == h && decide (r.since + 1024 ≤ s.cycle))).map (fun r => { s with resv := s.resv.erase r })

/-- RESERVATION_TABLE_EVICTION: an LR that waits on a full table evicts an aged entry and proceeds (R247). -/
def State.resvEvict (s : State) (n : Nat) : Option State :=
  match s.net[n]? with
  | some (.cp g id) =>
    match (s.core g).pendOf id with
    | some p =>
      if p.kind = .cp .lr then
        match s.pointGo n g p .lr true with
        | some s1 => some s1
        | none => if s.pointWaits g p .lr || !s.pointAccepted n g p then none else s.lrFarEvict g p
      else none
    | none => none
  | _ => none

/-- RESERVATION_TABLE_EVICTION. -/
def execReservationTableEviction (n : Nat) (s : State) : Host.Outcome State Fault Refusal := .next ((s.resvEvict n).getD s)

/-- REMOTE_ACKNOWLEDGEMENT: a store or atomic beyond the device is acknowledged: it ends, and its launch counts it no more
(R224, R344). -/
def State.remoteAck (s : State) (n : Nat) : Option State :=
  match s.net[n]? with
  | some (.posted g id lid) =>
    let s0 := s.dropMsg n
    let s1 : State := { s0 with launches := s0.launches.map (fun l => if some l.lid = lid then { l with remote := l.remote - 1 } else l) }
    some (match (s1.core g).pendOf id with
      | some p => (s1.finishPoint g p).tryAll g
      | none => s1)
  | _ => none

/-- REMOTE_ACKNOWLEDGEMENT. -/
def execRemoteAcknowledgement (n : Nat) (s : State) : Host.Outcome State Fault Refusal := .next ((s.remoteAck n).getD s)

/-! ## Migration of a page (R225) -/

/-- No access that has its places, no instruction on several tiles, and no message under way touches a run of memory. -/
def State.quiet (s : State) (r : Run) : Bool :=
  !s.cores.toList.any (fun c => c.pend.any (fun p => !p.isHeld && runsMeet p.runs [r]) || c.slots.toList.any (fun sl => match sl.tile with
      | some t => runsMeet (memRuns 8 t.elems) [r]
      | none => false)) &&
    !s.net.any (fun m => match m with
      | .fillReq _ _ q _ => q.meets r
      | .hbmRead _ _ q => q.meets r
      | .farRead _ _ q _ => q.meets r
      | .fwdRead _ _ _ q => q.meets r
      | .fillResp _ _ pa data _ _ => (⟨pa, data.length⟩ : Run).meets r
      | .reg _ _ q _ => q.meets r
      | .regAck _ _ q => q.meets r
      | .rds _ _ q => q.meets r
      | .rdown _ _ q => q.meets r
      | .rdna _ _ _ q => q.meets r
      | .snoop _ _ _ q => q.meets r
      | .inval _ q => q.meets r
      | .through _ _ pa data => (⟨pa, data.length⟩ : Run).meets r
      | _ => false)

/-- The bytes of a run of device memory copied to another place. -/
def copyCells (l : List Host.Cell) (src dst len : Nat) : List Host.Cell :=
  let kept := l.filter (fun x => !(decide (dst ≤ x.1) && decide (x.1 < dst + len)))
  (l.filter (fun x => decide (src ≤ x.1) && decide (x.1 < src + len))).foldl (fun m x => cellWrite zeroByte m (x.1 - src + dst) x.2) kept

/-- A place that a migration moves. -/
def Loc.moved (l : Loc) (src dst len : Nat) : Loc :=
  match l with
  | .mem pa mt gr => if src ≤ pa && pa < src + len then .mem (pa - src + dst) mt gr else l
  | _ => l

/-- A watched word moves with its page. -/
def Watch.moved (w : Watch) (src dst len : Nat) : Watch :=
  match w.loc.moved src dst len with
  | .mem pa mt gr => if w.loc = .mem pa mt gr then w else { w with loc := .mem pa mt gr, home := (dieOf pa, homeSlice pa) }
  | _ => w

/-- A contribution to a granule moves with its page, and goes to its new home. -/
def Contribution.moved (c : Contribution) (src dst len : Nat) : Contribution :=
  match c.loc.moved src dst len with
  | .mem pa mt gr => if c.loc = .mem pa mt gr then c else { c with loc := .mem pa mt gr, home := (dieOf pa, homeSlice pa) }
  | _ => c

/-- The page that a migration may take: its frame, its length and its PTE (R225). -/
def State.migrationOf (s : State) (d : Dom) (va : VA) (dst : Nat) : Option Migration :=
  match walkFrom s s.cohWord va.toNat 3 (s.rootOf d) with
  | .error _ => none
  | .ok l =>
    let len := 2 ^ levelShift l.level.val
    let src := pteAddr l.pte
    if pteBit l.pte 11 || pteBit l.pte 12 || pteMt l.pte != 0 || dst % len != 0 || isFabric dst || !deviceOk dst || src == dst then none
    else some ⟨d, src, dst, len, l.pteAt⟩

/-- Nothing is left under way for either frame of a migration: everything that was has drained (R225). -/
def State.drained (s : State) (m : Migration) : Bool := s.quiet ⟨m.src, m.len⟩ && s.quiet ⟨m.dst, m.len⟩

/-- No core keeps clean bytes of a run: they are not values of the page that comes to lie there (R208, R225). -/
def State.forgetClean (s : State) (r : Run) : State :=
  (List.finRange 768).foldl (fun (s : State) g =>
    let bad := fun (e : L1Entry) => e.state == .clean && e.run.meets r
    if (s.core g).l1.any bad then s.modCore g (fun c => { c with l1 := c.l1.filter (fun e => !bad e) }) else s) s

/-- The steps of a migration after the page has drained: owned bytes and visitor holdings go to the old home, the bytes are copied,
translation switches, watched words move, reservations are lost, and the accesses that have waited go on (R225). -/
def State.moveFrame (s : State) (m : Migration) : State :=
  let s1 := ((s.takeHome ⟨m.src, m.len⟩).takeHome ⟨m.dst, m.len⟩).forgetClean ⟨m.dst, m.len⟩
  let bad := (s1.badIn ⟨m.src, m.len⟩).map (fun x => x - m.src / 32 + m.dst / 32)
  let s2 : State := { s1 with
    mem := copyCells s1.mem m.src m.dst m.len
    poison := bad ++ s1.poison.filter (fun x => !(decide (m.dst ≤ 32 * x) && decide (32 * x < m.dst + m.len)))
    migrations := s1.migrations.erase m }
  let old := s2.cohWord m.pteAt
  let pte := BitVec.ofNat 64 (old.toNat - m.src / 128 * 2 ^ 16 + m.dst / 128 * 2 ^ 16)
  let s3 := if pteAddr old = m.src then s2.cohWriteWord m.pteAt pte else s2
  let gone := fun (e : TlbEntry) => e.pteAt == m.pteAt
  let s4 := (List.finRange 768).foldl (fun (s : State) g =>
    if (s.core g).tlb.any gone then s.modCore g (fun c => { c with tlb := c.tlb.filter (fun e => !gone e) }) else s) s3
  let s5 := (List.finRange 6).foldl (fun (s : State) h => s.modDie h (fun x => { x with quadTlb := x.quadTlb.filter (fun e => !gone e.2) })) s4
  let move := fun (l : List Contribution) => l.map (fun c => c.moved m.src m.dst m.len)
  let s6 : State := { s5 with
    watches := s5.watches.map (fun (w : Watch) => w.moved m.src m.dst m.len)
    resv := s5.resv.filter (fun r => !r.loc.meets r.size (.mem m.src 0 0) m.len)
    contribs := move s5.contribs
    staged := move s5.staged
    refused := move s5.refused
    rounds := s5.rounds.map (fun (r : Round) => { r with loc := r.loc.moved m.src m.dst m.len }) }
  s6.heldAll

/-- PAGE_MIGRATION of an MT 00 page to a new frame: from now on new accesses to the page wait; it is moved at once if nothing is under way
there, else once that has drained (R225). -/
def State.migrate (s : State) (d : Dom) (va : VA) (dst : Nat) : Option State :=
  match s.migrationOf d va dst with
  | none => none
  | some m =>
    if s.migrations.any (fun x => x.src == m.src) then none
    else
      let s1 : State := { s with migrations := m :: s.migrations }
      some (if s1.drained m then s1.moveFrame m else s1)

/-- The first migration whose page has drained is completed. -/
def State.migrateOn (s : State) : Option State := (s.migrations.find? s.drained).map (fun m => s.moveFrame m)

/-- PAGE_MIGRATION. -/
def execPageMigration (d : Dom) (va : VA) (newPa : Nat) (s : State) : Host.Outcome State Fault Refusal :=
  .next ((s.migrate d va newPa).getD s)

end Sys2Proof.Machine
end

