-- ==== Sys2Proof/Machine/Pulls.lean ====
section
/-! DEFINITION. Post-copy pulls: a failed attempt, the last failure, and the arrival of the page (R364 to R366). -/

namespace Sys2Proof.Machine

/-- The n-th pull under way, die by die. -/
def State.pullAt (s : State) (n : Nat) : Option (DieId × Pull) :=
  ((List.finRange 6).flatMap (fun h => (s.die h).pulls.map (fun p => (h, p))))[n]?

/-- A pull leaves those under way. -/
def State.dropPull (s : State) (h : DieId) (p : Pull) : State :=
  s.modDie h (fun x => { x with pulls := x.pulls.filter (fun q => q.dpa != p.dpa) })

/-- STATE and TRIES of a pull's table entry, written by the device. -/
def State.pullMark (s : State) (h : DieId) (p : Pull) (tries st : Nat) : State :=
  s.cohWriteWord ((s.die h).pullBase + 32 * p.entry + 24) (BitVec.ofNat 64 (tries * 16 + st))

/-- PULL is cleared by an atomic AND at the PTE's home (R365). -/
def State.pullClear (s : State) (p : Pull) : State := s.cohWriteWord p.pteAt (s.cohWord p.pteAt &&& 0xFFFFFFFFFFFFEFFF)

/-- An access of an activation that waits for its pages, and touches an address. -/
def Core.heldAt (c : Core) (act : Nat) (va : VA) : Option Pend :=
  c.pend.find? (fun p => p.act == act && p.heldExts.any (fun x => decide (x.1 ≤ va.toNat) && decide (va.toNat < x.1 + x.2)))

/-- A task whose access waits for a failed pull aborts with MIGLOST (R366). -/
def State.lostTask (s : State) (w : CoreId × SlotId × Nat × VA) : State :=
  let sl := s.slot w.1 w.2.1
  match (s.core w.1).heldAt w.2.2.1 w.2.2.2 with
  | some p => s.pendTrap w.1 p ⟨.miglost, w.2.2.2.setWidth 64, 0⟩
  | none =>
  if sl.task.act = w.2.2.1 then
    s.raiseAct w.1 w.2.2.1 ⟨.miglost, w.2.2.2.setWidth 64, 0⟩ sl.pc ((s.core w.1).wordAt sl.dom sl.pc)
  else s

/-- A tile command that waits for a failed pull stops with MIGLOST at its piece (R283, R366). -/
def State.lostCmd (s : State) (w : CoreId × QueueId × Fin 32 × VA) : State :=
  match (s.core w.1).cmdAt w.2.1 w.2.2.1 with
  | some m => if m.st = .running || m.st = .issued then s.stopCmd w.1 w.2.1 w.2.2.1 .miglost w.2.2.2 else s
  | none => s

/-- The third failure: the frame is poisoned, PULL is cleared, every waiter learns of it, and a notice of KIND 5 is written (R366). -/
def State.pullFail (s : State) (h : DieId) (p : Pull) : State :=
  let s1 := (s.takeHome ⟨p.dpa, p.len⟩).markPoison ((List.range (p.len / 32)).map (fun k => p.dpa / 32 + k))
  let s2 := ((s1.pullMark h p 3 3).pullClear p).dropPull h p
  let s3 := p.waiters.foldl (fun s w => s.lostTask w) s2
  let s4 := p.cmds.foldl (fun s w => s.lostCmd w) s3
  let g := coreAt h 0 0
  (s4.noticeOwn g p.dom (s4.noticeOf p.dom 5 p.dom 0x3FF 0 (BitVec.ofNat 64 p.dpa) 0 0 0)).heldAll

/-- PULL_ATTEMPT_TIMEOUT: 20 µs without data end an attempt; the next takes another route (R365). -/
def State.pullTimeout (s : State) (n : Nat) : Option State :=
  match s.pullAt n with
  | none => none
  | some (h, p) =>
    if s.time < p.since + 20000 then none
    else
      let tries := ((s.pullWord h p.entry 3).extractLsb' 4 4).toNat
      if 3 ≤ tries then some (s.pullFail h p)
      else some ((s.pullMark h p (tries + 1) 1).modDie h (fun x => { x with pulls := x.pulls.map (fun (q : Pull) => if q.dpa = p.dpa then { q with since := s.time } else q) }))

/-- PULL_ATTEMPT_TIMEOUT. -/
def execPullAttemptTimeout (n : Nat) (s : State) : Host.Outcome State Fault Refusal := .next ((s.pullTimeout n).getD s)

/-- PULL_COMPLETE: every byte of the frame is performed at its home, PULL is cleared and STATE is done; the waiting accesses walk
again (R365). -/
def State.pullDone (s : State) (n : Nat) : Option State :=
  match s.pullAt n with
  | none => none
  | some (h, p) =>
    let src := 2 ^ 51 + p.node.toNat * 2 ^ 41 + p.soff
    let tries := ((s.pullWord h p.entry 3).extractLsb' 4 4).toNat
    let s1 := s.cohWrite p.dpa (s.cohRead src p.len)
    some (((s1.pullClear p).pullMark h p tries 2).dropPull h p).heldAll

/-- PULL_COMPLETE. -/
def execPullComplete (n : Nat) (s : State) : Host.Outcome State Fault Refusal := .next ((s.pullDone n).getD s)

end Sys2Proof.Machine
end

