-- ==== Sys2Proof/Machine/Events.lean ====
section
/-! DEFINITION. The events of a core: slots that start, steals, slices, budgets, egress windows, wakes, messages, the waystation, held
frames, fault records and dead letters (R58 to R71, R291 to R296, R321, R323 to R329, R331, R342, R348, R349, R381). -/

namespace Sys2Proof.Machine

/-! ## Starts, steals and slices -/

/-- SLOT_START (R59). -/
def execSlotStart (g : CoreId) (i : SlotId) (s : State) : Host.Outcome State Fault Refusal :=
  .next ((s.slotStart g i).getD (s.idleReloads g i))
/-- STEAL_REQUEST (R61). -/
def execStealRequest (n : Nat) (s : State) : Host.Outcome State Fault Refusal := .next ((s.stealAsk n).getD s)
/-- STEAL_ANSWER (R60). -/
def execStealAnswer (n : Nat) (s : State) : Host.Outcome State Fault Refusal := .next ((s.stealAnswer n).getD s)
/-- STEAL_ROUND_WAIT (R60). -/
def execStealRoundWait (g : CoreId) (s : State) : Host.Outcome State Fault Refusal := .next ((s.stealRound g).getD s)
/-- SLICE_ROUND_START (R62). -/
def execSliceRoundStart (g : CoreId) (s : State) : Host.Outcome State Fault Refusal := .next ((s.sliceRound g).getD s)
/-- SLICE_CLOSE (R63). -/
def execSliceClose (g : CoreId) (e : PartId) (s : State) : Host.Outcome State Fault Refusal := .next ((s.sliceClose g e).getD s)
/-- SLICE_DEFERRED_OPEN (R349). -/
def execSliceDeferredOpen (g : CoreId) (e : PartId) (s : State) : Host.Outcome State Fault Refusal := .next ((s.sliceOpen g e).getD s)

/-! ## The budget (R331) -/

/-- The task of a slot has held it longer than its budget, and still counts. -/
def State.overBudget (s : State) (g : CoreId) (i : SlotId) : Bool :=
  let sl := s.slot g i
  (match sl.status with
    | .running => true
    | .barWait .. => true
    | .frameWait .. => true
    | _ => false) && decide (sl.task.budget < s.cycle - sl.task.since)

/-- BUDGET_EXPIRY (R331). -/
def State.budgetExpire (s : State) (g : CoreId) (i : SlotId) : Option State :=
  if s.overBudget g i then some (raise s g i ⟨.budget, 0, 0⟩) else none

/-- BUDGET_EXPIRY. -/
def execBudgetExpiry (g : CoreId) (i : SlotId) (s : State) : Host.Outcome State Fault Refusal := .next ((s.budgetExpire g i).getD s)

/-! ## Egress windows (R348) -/

/-- The number of the egress window of a cycle. -/
def State.windowNow (s : State) : Nat := s.cycle / 1024

/-- EGRESS_WINDOW: a new window renews the quota of every entry. -/
def State.egressRenew (s : State) (g : CoreId) : Option State :=
  if (List.finRange 4).any (fun e => (s.core g).part[e].egressWin != s.windowNow) then
    some ((List.finRange 4).foldl (fun (s : State) (e : PartId) =>
      s.modPart g e (fun p => p.windowed s.cycle)) s)
  else none

/-- EGRESS_WINDOW. -/
def execEgressWindow (g : CoreId) (s : State) : Host.Outcome State Fault Refusal := .next ((s.egressRenew g).getD s)

/-! ## Wakes (R69) -/

/-- WAKE_CYCLES: the count of a parked continuation has run out. -/
def State.wakeCycle (s : State) (n : Nat) : Option State :=
  match s.conts[n]? with
  | some c =>
    match c.wake with
    | .cycles k => if c.since + k ≤ s.cycle && !c.startable && !c.suspended then some (s.wake c.id) else none
    | _ => none
  | none => none

/-- WAKE_CYCLES. -/
def execWakeCycles (n : Nat) (s : State) : Host.Outcome State Fault Refusal := .next ((s.wakeCycle n).getD s)

/-- WATCH_REREAD: the home core reads again a word that found the table full; one that it cannot reach any more wakes at once. -/
def State.reread (s : State) (n : Nat) : Option State :=
  match s.watches[n]? with
  | some w =>
    match w.reread with
    | some at_ =>
      if s.cycle < at_ then none
      else
        let g := match s.conts.find? (fun c => c.id == w.cont) with
          | some c => c.home
          | none => 0
        match s.watchedWord g w.dom w.va w.loc with
        | (s1, some (x, _)) =>
          if x ≠ w.expected then some (s1.wake w.cont)
          else some { s1 with watches := s1.watches.set n { w with reread := some (s1.cycle + 1024) } }
        | (s1, none) => some (s1.wake w.cont)
    | none => none
  | none => none

/-- WATCH_REREAD. -/
def execWatchReread (n : Nat) (s : State) : Host.Outcome State Fault Refusal := .next ((s.reread n).getD s)

/-! ## Messages (R291 to R296, R329) -/

/-- The message goes into an inbox share, not the waystation, with so many more of its tuple before it (R295). -/
def Core.inboxOpen (c : Core) (tr : TaskRec) (before : Nat) : Bool :=
  match c.entryOf tr.dom with
  | some e => !(c.rank tr.dom tr.vn).spilling && decide ((c.part[e].inbox tr.vn).length + before < c.inboxCap tr.vn)
  | none => false

/-- Messages of a tuple in a list of those in transit. -/
def sameTuple (l : List Transit) (g : CoreId) (tr : TaskRec) : Nat :=
  (l.filter (fun t => t.g == g && t.tr.dom == tr.dom && t.tr.vn == tr.vn)).length

/-- Messages in transit that the waystation of a domain will have to take: those of the domain, for any core and either network, that
find no place in an inbox share behind the ones before them (R292, R295). -/
def State.wayBound (s : State) (d : Dom) : Nat :=
  (s.transit.zipIdx.filter (fun x => x.1.tr.dom == d &&
    !(s.core x.1.g).inboxOpen x.1.tr (sameTuple (s.transit.take x.2) x.1.g x.1.tr))).length

/-- Whether a core has room: yes, not now, or its waystation could not be reached. -/
inductive Room where
  | yes | no | failed
  deriving DecidableEq, Repr

/-- A core has room for a message, in an inbox share or in the waystation, whose entry can be written (R292, R296). -/
def State.roomFor (s : State) (g : CoreId) (tr : TaskRec) : State × Room :=
  let nb := (s.dom tr.dom).nb
  if (s.core g).inboxOpen tr (sameTuple s.transit g tr) then (s, .yes)
  else if nb = 0 || s.cycle < ((s.core g).rank tr.dom tr.vn).retry then (s, .no)
  else
    let fail := fun (s1 : State) (f : DevFail) =>
      ((s1.areaFailed g tr.dom areaWay f (some tr) 0).setRank g { (s1.core g).rank tr.dom tr.vn with retry := s1.cycle + 1024 }, Room.failed)
    match s.spillPair g tr.dom (wayAt nb) with
    | (s1, .error f) => fail s1 f
    | (s1, .ok (head, tail)) =>
      let n := s1.wayBound tr.dom
      if wayEntries nb ≤ tail - head + n then (s1, .no)
      else
        match s1.devCheck g tr.dom (wayPlaces (s1.dom tr.dom).spillVa nb (tail + n)) with
        | (s2, some f) => fail s2 f
        | (s2, none) => (s2, .yes)

/-- The target of a message has no room for it now; of a peer's only the fabric tells (R291, R292). -/
def State.roomless (s : State) (m : OutMsg) : Bool :=
  match m.target with
  | .local_ t => (s.roomFor t m.tr).2 != .yes
  | .peer .. => true
  | .vcore _ => false

/-- The message is the next of its share in the order of commits (R293, R348). DESIGN CHOICE: a reply passes requests that find no room at
their target, so that none holds it back (R292; log 37). -/
def State.firstCommitted (s : State) (g : CoreId) (n : Nat) (m : OutMsg) : Bool :=
  !((s.core g).sendBuf.take n).any (fun x => x.committed && x.dom == m.dom && !(m.tr.vn && !x.tr.vn && s.roomless x))

/-- The release of its commit holds: what its sender issued before is performed, as far as its scope reaches (R213, R221, R291). -/
def Core.commitDone (c : Core) (m : OutMsg) : Bool :=
  c.releasedUpTo m.act m.rel m.mark (match m.target with
    | .peer .. => true
    | _ => false)

/-- The egress quota that the domain has in the window of a cycle allows one more (R348). -/
def Core.egressOk (c : Core) (d : Dom) (cycle : Nat) : Bool :=
  match c.entryOf d with
  | some e =>
    let p := c.part[e].windowed cycle
    p.egressCap == 0 || decide (p.egressUsed < p.egressCap)
  | none => true

/-- The n-th message leaves the send buffer, counted in the window and out of cnt.sd. -/
def State.leaveBuffer (s : State) (g : CoreId) (n : Nat) (m : OutMsg) : State :=
  let s1 := s.modCore g (fun c =>
    let c1 : Core := { c with sendBuf := c.sendBuf.eraseIdx n }
    match c1.entryOf m.dom with
    | some e =>
      let p := c1.part[e].windowed s.cycle
      { c1 with part := c1.part.set e { p with egressUsed := p.egressUsed + 1 } }
    | none => c1)
  s1.count g m.act .sd

/-- A message may leave the buffer now. -/
def State.mayLeave (s : State) (g : CoreId) (n : Nat) (m : OutMsg) : Bool :=
  let c := s.core g
  m.committed && s.firstCommitted g n m && c.commitDone m && c.egressOk m.dom s.cycle

/-- NETWORK_ACCEPTANCE (R292). -/
def State.accept (s : State) (g : CoreId) (n : Nat) : Option State :=
  match (s.core g).sendBuf[n]? with
  | none => none
  | some m =>
    if !s.mayLeave g n m then none
    else
      match m.target with
      | .local_ t =>
        match s.roomFor t m.tr with
        | (s1, .yes) => some (let s2 := s1.leaveBuffer g n m; { s2 with transit := s2.transit ++ [⟨g, t, m.tr, false⟩] })
        | (_, .no) => none
        | (s1, .failed) => some s1
      | .peer node core => some (let s2 := s.leaveBuffer g n m; { s2 with reports := .message node core m.tr.words :: s2.reports })
      | .vcore _ => none

/-- NETWORK_ACCEPTANCE. -/
def execNetworkAcceptance (g : CoreId) (n : Nat) (s : State) : Host.Outcome State Fault Refusal := .next ((s.accept g n).getD s)

/-- FABRIC_MESSAGE_REFUSAL: the peer refuses the message, which leaves the buffer, and the domain learns of it (R291, R323). -/
def State.refused' (s : State) (g : CoreId) (n : Nat) : Option State :=
  match (s.core g).sendBuf[n]? with
  | none => none
  | some m =>
    match m.target with
    | .peer node core =>
      if !s.mayLeave g n m then none
      else
        let s1 := s.leaveBuffer g n m
        some (s1.noticeOwn g m.dom (s1.noticeOf m.dom 6 m.dom 0x3FF 0 (BitVec.ofNat 64 (node.toNat * 1024 + core)) m.tr.dw0 m.tr.dw7 0))
    | _ => none

/-- FABRIC_MESSAGE_REFUSAL. -/
def execFabricMessageRefusal (g : CoreId) (n : Nat) (s : State) : Host.Outcome State Fault Refusal := .next ((s.refused' g n).getD s)

/-- SUPERVISOR_RECORD_RELEASE: a notice or supervisor record leaves once its target names a core of this device with room
(R260, R329). -/
def State.releaseOutside (s : State) (g : CoreId) (n : Nat) : Option State :=
  match (s.core g).outside[n]? with
  | none => none
  | some m =>
    let tgt : Option MsgTarget := match m.target with
      | .vcore v => s.mapTarget m.dom v
      | t => some t
    match tgt with
    | some (.local_ t) =>
      match s.roomFor t m.tr with
      | (s1, .yes) =>
        let s2 := s1.modCore g (fun c => { c with outside := c.outside.eraseIdx n })
        some { s2 with transit := s2.transit ++ [⟨g, t, m.tr, false⟩] }
      | (_, .no) => none
      | (s1, .failed) => some s1
    | _ => none

/-- SUPERVISOR_RECORD_RELEASE. -/
def execSupervisorRecordRelease (g : CoreId) (n : Nat) (s : State) : Host.Outcome State Fault Refusal :=
  .next ((s.releaseOutside g n).getD s)

/-- A message may be placed at a core now: into the inbox, or into the waystation if no retry is awaited (R296). -/
def State.mayPlace (s : State) (g : CoreId) (tr : TaskRec) : Bool :=
  (s.core g).inboxOpen tr 0 || decide (((s.core g).rank tr.dom tr.vn).retry ≤ s.cycle)

/-- An arrival from the device's own networks, in the order of its tuple (R222, R295). -/
def State.arrive (s : State) (n : Nat) : Option State :=
  match s.transit[n]? with
  | none => none
  | some t =>
    if (s.transit.take n).any (fun x => x.src == t.src && x.g == t.g && x.tr.dom == t.tr.dom && x.tr.vn == t.tr.vn) then none
    else if !s.mayPlace t.g t.tr then none
    else
      match s.placeMessage t.g t.tr t.barred with
      | (s1, true) => some { s1 with transit := s1.transit.eraseIdx n }
      | (s1, false) => some s1

/-! ## Nodes (R353) -/

/-- The entry of a node; a node without one is of class none. -/
def State.node (s : State) (n : BitVec 10) : NodeEntry :=
  match s.nodes.find? (fun e => e.1 == n) with
  | some e => e.2
  | none => ⟨.absent, 0, [], 0, 0⟩

/-- The entry of a node replaced. -/
def State.setNode (s : State) (n : BitVec 10) (e : NodeEntry) : State :=
  { s with nodes := (n, e) :: s.nodes.filter (fun x => x.1 != n) }

/-- An answer to a node. -/
def State.answer (s : State) (n : BitVec 10) (ok : Bool) (data : List Byte) : State :=
  { s with reports := .answer n ok data :: s.reports }

/-- n bytes of all ones, as a read that is not performed returns (R352). -/
def allOnes (n : Nat) : List Byte := List.replicate n 0xFF

/-- An access of an allowed node that no content answers (R352). -/
def State.errorTo (s : State) (n : BitVec 10) (len : Nat) : State := s.answer n false (allOnes len)

/-- A refused access: answered with an error and counted in the node's entry (R353). -/
def State.refuseTo (s : State) (n : BitVec 10) (len : Nat) : State :=
  (s.setNode n { s.node n with refused := (s.node n).refused + 1 }).errorTo n len

/-! ## Arrivals over the fabric -/

/-- An arrival from a peer node: refused, and counted in the node's entry, where the node table, its mask or the core does not admit
it (R291, R353). -/
def State.arriveFabric (s : State) (node : BitVec 10) (core : Nat) (ws : List Word) : Option State :=
  let tr := TaskRec.ofWords ws false
  let e := s.node node
  if !(e.cls == .peer && e.mask.getLsbD tr.dom.toNat) then some (s.refuseTo node 0)
  else
    match finOf 768 core with
    | none => some (s.refuseTo node 0)
    | some g =>
      if !s.mayPlace g tr then none
      else
        match s.placeMessage g tr false with
        | (s1, true) => some { s1 with reports := Report.answer node true [] :: s1.reports }
        | (s1, false) => some s1

/-- MESSAGE_ARRIVAL. -/
def execMessageArrival (a : ArrivalSrc) (s : State) : Host.Outcome State Fault Refusal :=
  match a with
  | .transit n => .next ((s.arrive n).getD s)
  | .fabric node core ws => .next ((s.arriveFabric node core ws).getD s)

/-- WAYSTATION_RELOAD (R295). -/
def State.reload (s : State) (g : CoreId) (d : Dom) (vn : Bool) : Option State :=
  let r := (s.core g).rank d vn
  if r.spilling && r.retry ≤ s.cycle then some (s.wayReload g d vn) else none

/-- WAYSTATION_RELOAD. -/
def execWaystationReload (g : CoreId) (d : Dom) (vn : Bool) (s : State) : Host.Outcome State Fault Refusal :=
  .next ((s.reload g d vn).getD s)

/-- WAYSTATION_RETRY: 1,024 cycles after a failed access, entries are read back and messages offered again (R296). -/
def State.wayRetry (s : State) (g : CoreId) (d : Dom) (vn : Bool) : Option State :=
  let r := (s.core g).rank d vn
  if r.retry = 0 || s.cycle < r.retry then none
  else
    let s1 := s.setRank g { r with retry := 0 }
    some (if r.spilling then s1.wayReload g d vn else s1)

/-- WAYSTATION_RETRY. -/
def execWaystationRetry (g : CoreId) (d : Dom) (vn : Bool) (s : State) : Host.Outcome State Fault Refusal :=
  .next ((s.wayRetry g d vn).getD s)

/-! ## Held frames (R321, R381) -/

/-- FRAME_FREED_PROCEED: a frame has freed, and a held park or suspension goes on. -/
def State.frameProceed (s : State) (g : CoreId) (i : SlotId) : Option State :=
  match (s.slot g i).status with
  | .frameWait w _ told => if (s.dom (s.slot g i).dom).fpFree = 0 then none else some ((s.budgetExpire g i).getD (s.retryHold g i w told))
  | _ => none

/-- FRAME_FREED_PROCEED. -/
def execFrameFreedProceed (g : CoreId) (i : SlotId) (s : State) : Host.Outcome State Fault Refusal := .next ((s.frameProceed g i).getD s)

/-- FRAME_POOL_RETRY: a failed access to the pool is made again after 1,024 cycles, that of a frame whose bit could not be reached as
well. -/
def State.frameRetry (s : State) (g : CoreId) (i : SlotId) : Option State :=
  match (s.slot g i).status with
  | .frameWait w at_ told => if s.cycle < at_ then s.refreeDue else some ((s.budgetExpire g i).getD (s.retryHold g i w told))
  | _ => s.refreeDue

/-- FRAME_POOL_RETRY. -/
def execFramePoolRetry (g : CoreId) (i : SlotId) (s : State) : Host.Outcome State Fault Refusal := .next ((s.frameRetry g i).getD s)

/-! ## Fault records (R325, R326) -/

/-- The first record that waits for a domain's queue is written, and what it waits for follows. -/
def State.faultNext (s : State) (d : Dom) : Option State :=
  match (s.dom d).fqWait with
  | [] => none
  | w :: rest =>
    let drop := fun (s : State) => s.modDom d (fun x => { x with fqWait := rest })
    if (s.dom d).fqFull then none
    else
    match w with
    | .notice r =>
      match s.fqPut 0 d r with
      | (s1, .put) => some (drop s1)
      | (s1, _) => some s1
    | .task g i =>
      match (s.slot g i).status with
      | .faultWait r after _ =>
        match s.fqPut g d r with
        | (s1, .put) => some ((drop s1).afterFault g i r after)
        | (s1, _) => some s1
      | _ => some (drop s)

/-- FAULT_RECORD_WRITE. -/
def execFaultRecordWrite (d : Dom) (s : State) : Host.Outcome State Fault Refusal :=
  .next (if (s.dom d).fqRetry = 0 then (s.faultNext d).getD s else s)

/-- FAULT_QUEUE_RETRY: a write that failed is made again after 1,024 cycles; a write of HEAD ends that wait. -/
def execFaultQueueRetry (d : Dom) (s : State) : Host.Outcome State Fault Refusal :=
  .next (if (s.dom d).fqRetry = 0 || s.cycle < (s.dom d).fqRetry then s else (s.faultNext d).getD s)

/-! ## Dead letters (R327, R328) -/

/-- The place of a dead letter is given up: its slot, its inbox entry or its place in a deque; its team counts it. -/
def State.deadPlace (s : State) (w : DeadWait) : State :=
  let s1 := match w.slot with
    | some i => s.leaveSlot w.g i .free
    | none => s
  let s2 := match w.entry with
    | some (vn, rank) =>
      match (s1.core w.g).entryOf w.tr.dom with
      | some e => s1.modPart w.g e (fun p => p.setInbox vn ((p.inbox vn).filter (fun m => m.rank != rank)))
      | none => s1
    | none =>
      -- a deque record gives up its place there
      if w.slot.isSome || w.team.isSome then s1
      else
        match (s1.core w.g).entryOf w.tr.dom with
        | some e => s1.modPart w.g e (fun p => { p with deque := p.deque.erase ⟨w.tr, false, true⟩ })
        | none => s1
  let s3 : State := if w.team.isNone then s2 else
    { s2 with launches := s2.launches.map (fun (l : Launch) => if l.lid = w.tr.lid.setWidth 64 then { l with dead := l.dead + 1 } else l) }
  s3.taskOver w.g w.tr w.team

/-- The notice of a dead letter (R328). -/
def State.deadNotice (s : State) (g : CoreId) (d : Dom) (e : Nat) (w : DeadWait) : State :=
  let q := s.dom d
  let pay : Vector Word 6 := #v[BitVec.ofNat 64 e, (w.fault.dws[0].extractLsb' 56 8).setWidth 64, 0, 0, 0, 0]
  let tr : TaskRec := ⟨mkDw0 true false 0 false d (q.suphandler.setWidth 48), pay,
    mkDw7 7 (s.ownNumber d g) w.tr.lid w.tr.tidx, w.tr.cross⟩
  s.sendOutside g d (.vcore q.supcore) tr

/-- DEAD_LETTER: the oldest record that waits is written, if the queue has room and its pages can be reached (R327); a dead-letter notice
sends none of its own (R314). -/
def State.deadWrite (s : State) (d : Dom) : Option State :=
  match (s.dom d).dlWait with
  | [] => none
  | w :: rest =>
    let base : VA := ((s.dom d).deadq.setWidth 48) &&& 0xFFFFFFFFF000
    let np := ((s.dom d).deadq.extractLsb' 0 12).toNat
    let m := 32 * (np - 1)
    if np < 2 then none
    else
      match s.devGet w.g d base 3 with
      | (s1, .error c) => if c.isNone then some s1 else none
      | (s1, .ok hs) =>
        let tail := (hs.getD 1 0).toNat
        if m ≤ tail - (hs.getD 0 0).toNat then none
        else
          let va := base + BitVec.ofNat 48 (4096 + 128 * (tail % m))
          match s1.devCheck w.g d [base, va] with
          | (s2, some f) => if f.2.isNone then some s2 else none
          | (s2, none) =>
            let s3 := (s2.devPut w.g d va (w.tr.words ++ w.fault.dws.toList)).1
            let s4 := ((s3.devPut w.g d (base + 16) [hs.getD 2 0 + 1]).1.devPut w.g d (base + 8) [BitVec.ofNat 64 (tail + 1)]).1
            let s5 := (s4.modDom d (fun x => { x with dlWait := rest })).deadPlace w
            some (if w.tr.origin = 7 then s5 else s5.deadNotice w.g d tail w)

/-- DEAD_LETTER. -/
def execDeadLetter (d : Dom) (s : State) : Host.Outcome State Fault Refusal := .next ((s.deadWrite d).getD s)

end Sys2Proof.Machine
end

