-- ==== Sys2Proof/Machine/Launches.lean ====
section
/-! DEFINITION. Launches: their acceptance by the package front end, their split among dies, the placement and delivery of teams,
their retirement and completion, and the loss of a die (R26 to R32, R45 to R52, R280, R344 to R346, R356, R383). -/

namespace Sys2Proof.Machine

/-! ## The front end's accesses (R32, R356) -/

/-- The core through whose die the front end works: it sits on D0. -/
abbrev frontCore : CoreId := 0

/-- Where a write of the front end goes. -/
inductive FrontAt where
  | at_ (pa : Nat)
  | skip
  | pulling

/-- The place of a front-end write: V and W, outside the scratch window, not EXIST, U ignored (R32). -/
def State.frontPlace (s : State) (d : Dom) (va : VA) : State × FrontAt :=
  if inScratch va.toNat then (s, .skip)
  else
    match s.xlate frontCore d .write false va with
    | (s1, .error (.trap _)) => (s1, .skip)
    | (s1, .error (.pull x p)) =>
      match s1.startPull d x p va none with
      | some s2 => (s2, .pulling)
      | none => (s1, .skip)
    | (s1, .ok x) => (s1, if pteBit x.pte 11 then .skip else .at_ x.pa)

/-- No write of a list waits for a pull. -/
def State.frontReady (s : State) (d : Dom) : List VA → State × Bool
  | [] => (s, true)
  | va :: l =>
    match s.frontPlace d va with
    | (s1, .pulling) => (s1, false)
    | (s1, _) => s1.frontReady d l

/-- A write of the front end; one that fails is skipped with a notice of KIND 8 (R32, R323). -/
def State.frontWrite (s : State) (d : Dom) (lid : Nat) (va : VA) (bs : List Byte) : State :=
  match s.frontPlace d va with
  | (s1, .at_ pa) => s1.cohWrite pa bs
  | (s1, _) => s1.noticeOwn frontCore d (s1.noticeOf d 8 d 0x3FF lid (va.setWidth 64) 0 0 0)

/-- Several writes in order. -/
def State.frontWrites (s : State) (d : Dom) (lid : Nat) (l : List (VA × List Byte)) : State :=
  l.foldl (fun s x => s.frontWrite d lid x.1 x.2) s

/-- What the front end reads. -/
inductive FrontRead where
  | ok (bs : List Byte)
  | bad
  | pulling

/-- A read of the front end that cannot be placed: one of a PULL page, or of a region's tables in such a page, waits for the pull (R38, R365). -/
def State.frontFail (s : State) (d : Dom) (va : VA) : XFail → State × FrontRead
  | .trap _ => (s, .bad)
  | .pull x p =>
    match s.startPull d x p va none with
    | some t => (t, .pulling)
    | none => (s, .bad)

/-- Bytes read by the front end for a launch queue, in pieces that cross no 512-byte block. -/
def State.frontRead (s : State) (d : Dom) (va : Nat) : Nat → Nat → State × FrontRead
  | 0, _ => (s, .ok [])
  | fuel + 1, len =>
    if len = 0 then (s, .ok [])
    else
      let n := min len (512 - va % 512)
      if 2 ^ 48 ≤ va || inScratch va then (s, .bad)
      else
        match s.xlate frontCore d .read false (BitVec.ofNat 48 va) with
        | (s1, .error e) => s1.frontFail d (BitVec.ofNat 48 va) e
        | (s1, .ok x) =>
          let here : State × FrontRead :=
            if pteBit x.pte 11 then
              match s1.tileRef frontCore d (pteRegion x.pte) va with
              | (s2, .error e) => s2.frontFail d (BitVec.ofNat 48 va) e
              | (s2, .ok t) =>
                let o := (va - t.region.base) % t.region.tile
                (s2, if s2.tilePresent t && s2.poisonedAt (s2.tilePa t + o) n then .bad else .ok (s2.tileRead t o n))
            else (s1, if s1.poisonedAt x.pa n then .bad else .ok (s1.cohRead x.pa n))
          match here with
          | (s2, .ok bs) =>
            match s2.frontRead d (va + n) fuel (len - n) with
            | (s3, .ok rest) => (s3, .ok (bs ++ rest))
            | r => r
          | r => r

/-! ## Descriptors (R26, R27, R29, R45) -/

/-- DOM of a descriptor. -/
def descDom (ws : List Word) : Dom := (ws.getD 0 0).extractLsb' 48 8
/-- CRVA, NVA and BMVA. -/
def descCrva (ws : List Word) : VA := (ws.getD 4 0).setWidth 48
/-- NVA. -/
def descNva (ws : List Word) : VA := (ws.getD 5 0).setWidth 48
/-- BMVA. -/
def descBmva (ws : List Word) : VA := (ws.getD 6 0).setWidth 48
/-- The weights of PART. -/
def descPart (ws : List Word) : List Nat := (List.range 6).map (fun i => ((ws.getD 3 0).extractLsb' (8 * i) 8).toNat)
/-- T, the teams of a launch. -/
def descTeams (ws : List Word) : Nat := (descTasks ws + descTeam ws - 1) / descTeam ws
/-- REPLAY of a descriptor. -/
def descReplay (ws : List Word) : Bool := (ws.getD 0 0).getLsbD 61

/-- A sum of weights. -/
def sumOf (l : List Nat) : Nat := l.foldl (fun a b => a + b) 0

/-- The front end accepts a descriptor of an issuing domain at a level (R29). -/
def descOk (ws : List Word) (issuer : Dom) (level : BitVec 2) : Bool :=
  let w := fun n => ws.getD n 0
  let e := descExtent ws
  !(w 0).getLsbD 60 && (w 0).extractLsb' 56 2 == 0 && (w 2).extractLsb' 39 25 == 0 && (w 3).extractLsb' 48 16 == 0 &&
    (w 4).extractLsb' 48 16 == 0 && (w 6).extractLsb' 48 16 == 0 && w 7 == 0 &&
    e.1 != 0 && e.2.1 != 0 && e.2.2 != 0 && decide (descTasks ws ≤ 2 ^ 32) &&
    decide (1 ≤ descTeam ws) && decide (descTeam ws ≤ 64) && (w 0).extractLsb' 58 2 != 3 && sumOf (descPart ws) != 0 &&
    (w 0).extractLsb' 0 3 == 0 && descCrva ws != 0 && (descCrva ws).extractLsb' 0 6 == 0 && (descNva ws).extractLsb' 0 3 == 0 &&
    (descBmva ws).extractLsb' 0 3 == 0 && (descDom ws == issuer || level == 2) &&
    (level != 0 || (!(w 0).getLsbD 63 && (w 0).extractLsb' 58 2 != 2))

/-- The part of T things that die i gets by weights (R45). -/
def split (weights : List Nat) (total i : Nat) : Nat × Nat :=
  (total * sumOf (weights.take i) / sumOf weights, total * sumOf (weights.take (i + 1)) / sumOf weights)

/-- Teams of a die. -/
def Teams.size (t : Teams) : Nat :=
  match t.again with
  | some l => l.length
  | none => t.hi - t.lo
/-- The k-th of them. -/
def Teams.nth (t : Teams) (k : Nat) : Nat :=
  match t.again with
  | some l => l.getD k 0
  | none => t.lo + k
/-- A team is one of them. -/
def Teams.has (t : Teams) (j : Nat) : Bool :=
  match t.again with
  | some l => l.contains j
  | none => decide (t.lo ≤ j) && decide (j < t.hi)
/-- All of them. -/
def Teams.list (t : Teams) : List Nat := (List.range t.size).map t.nth

/-- Teams sent to dies: each die's queue for the domain holds them (R45, R47). -/
def State.forward (s : State) (lid : Word) (d : Dom) (l : List (DieId × Teams)) : State :=
  l.foldl (fun (s : State) x => s.modDie x.1 (fun y => { y with launches := y.launches ++ [⟨lid, d, x.2, 0⟩] })) s

/-! ## The loss of a die (R345, R346) -/

/-- A launch has retired a team. -/
def Launch.hasRetired (l : Launch) (j : Nat) : Bool := l.retired.any (fun x => x.1 == j)

/-- A launch with teams on a lost die: it is marked, and its unretired teams are replayed if it asks for that (R346). -/
def State.linkLost (s : State) (l : Launch) : State :=
  let gone := l.ranges.filter (fun x => s.dieLost x.1)
  if gone.isEmpty then s
  else
    let put := fun (s : State) (x : Launch) => { s with launches := s.launches.map (fun y => if y.lid = x.lid then x else y) }
    if !descReplay l.desc then put s { l with lost := true }
    else
      let again := (gone.flatMap (fun x => x.2.list)).filter (fun j => !l.hasRetired j)
      let live := (List.finRange 6).filter (fun d => !s.dieLost d)
      let own := (List.finRange 6).map (fun d => if s.dieLost d then 0 else (descPart l.desc).getD d.val 0)
      let weights := if sumOf own = 0 then (List.finRange 6).map (fun d => if s.dieLost d then 0 else 1) else own
      let new := live.filterMap (fun d =>
        let r := split weights again.length d.val
        if r.1 < r.2 then some (d, (⟨0, 0, some ((again.drop r.1).take (r.2 - r.1))⟩ : Teams)) else none)
      let l1 : Launch := { l with lost := true, ranges := l.ranges.filter (fun x => !s.dieLost x.1) ++ new, ended := l.ended.filter (fun e => !again.contains e.1) }
      (put s l1).forward l.lid l.dom new

/-- EDGE_FAILURE: traffic reroutes; launches with teams on a die that is now unreachable are LINK_LOST, if the front end still is
there (R345, R346). -/
def State.edgeFail (s : State) (e : Fin 7) : State :=
  let s1 : State := { s with edges := s.edges &&& ~~~(1#7 <<< e.val) }
  let new := (List.finRange 6).any (fun d => s1.dieLost d && !s.dieLost d)
  if new && !s1.dieLost 0 then s1.launches.foldl (fun s l => s.linkLost l) s1 else s1

/-- EDGE_FAILURE. -/
def execEdgeFailure (e : Fin 7) (s : State) : Host.Outcome State Fault Refusal := .next (s.edgeFail e)

/-! ## Acceptance (R29 to R31, R280, R356) -/

/-- The next free launch id after the last one (R30). -/
def State.freeLid (s : State) : Nat → BitVec 16 → Option (BitVec 16)
  | 0, _ => none
  | n + 1, x => if s.launches.any (fun l => l.lid == (x + 1).setWidth 64) then s.freeLid n (x + 1) else some (x + 1)

/-- The completion record of a rejected descriptor, and its notification (R29, R31). DESIGN CHOICE: where CRVA is not valid
no record is written, and no notification either (log 68). -/
def State.rejectWrites (s : State) (ws : List Word) (issuer : Dom) : List (VA × List Byte) :=
  let cr := descCrva ws
  let nva := descNva ws
  let t := s.timeOf issuer
  if cr = 0 || cr.extractLsb' 0 6 ≠ 0 then []
  else
    [(cr + 8, wordsBytes [0, 0, 0, (descBmva ws).setWidth 64, t, t, 0]), (cr, bytesOf 8 2)] ++
      (if nva ≠ 0 && nva.extractLsb' 0 3 == 0 then
        [(nva, bytesOf 8 (2 * 2 ^ 56 + ((ws.getD 5 0).extractLsb' 48 16).toNat))] else [])

/-- What comes of a descriptor. -/
inductive Accepted where
  /-- Accepted under an id. -/
  | yes (s : State) (lid : BitVec 16)
  | no (s : State)
  /-- It waits for an id or for a pull. -/
  | waits (s : State)

/-- A descriptor is accepted: the launch has its id and its PENDING byte, and its teams go to their dies (R30, R45, R46). -/
def State.launchIn (s : State) (ws : List Word) (svc : BitVec 10) (lid : BitVec 16) : State :=
  let d := descDom ws
  let rs : List (DieId × Teams) := (List.finRange 6).filterMap (fun i =>
    let r := split (descPart ws) (descTeams ws) i.val
    if r.1 < r.2 then some (i, ⟨r.1, r.2, none⟩) else none)
  let l : Launch := ⟨lid.setWidth 64, ws, d, descTeams ws, [], [], rs, svc, 0, 0, false, s.timeOf d⟩
  let s1 : State := { s with launches := s.launches ++ [l], lastLid := lid }
  let s2 := s1.frontWrite d lid.toNat (descCrva ws) [0xFF]
  (s2.forward l.lid d (rs.filter (fun x => !s.dieLost x.1))).linkLost l

/-- The front end takes a descriptor (R29, R30). -/
def State.takeDesc (s : State) (ws : List Word) (issuer : Dom) (level : BitVec 2) (svc : BitVec 10) : Accepted :=
  if !descOk ws issuer level then
    let l := s.rejectWrites ws issuer
    match s.frontReady issuer (l.map (fun x => x.1)) with
    | (s1, false) => .waits s1
    | (s1, true) => .no (s1.frontWrites issuer 0 l)
  else
    match s.freeLid 65536 s.lastLid with
    | none => .waits s
    | some lid =>
      match s.frontReady (descDom ws) [descCrva ws] with
      | (s1, false) => .waits s1
      | (s1, true) => .yes (s1.launchIn ws svc lid) lid

/-- The number of a source in the front end's round-robin (R280). -/
def sourceNumber (a : LaunchSrc) : Nat :=
  match a with
  | .port g => g.val
  | .queue d q => 768 + 4 * d.toNat + q.val

/-- The source of a number. -/
def sourceOf (n : Nat) : LaunchSrc :=
  if h : n < 768 then .port ⟨n, h⟩ else .queue (BitVec.ofNat 8 ((n - 768) / 4)) (Fin.ofNat 4 n)

/-- The command has stopped. -/
def Cmd.stopped (m : Cmd) : Bool :=
  match m.st with
  | .stopped .. => true
  | _ => false

/-- The command of a front-end port that is next, if it has passed to the front end; a stopped one holds no later one back, nor does a
SIGNAL that is at work (R255, R280). -/
def Core.portHead (c : Core) : Option Cmd :=
  match c.queues[(3 : Fin 4)].find? (fun m => !m.finished && !m.stopped && !(m.st == .running && m.tcw.op == 63)) with
  | some m => if m.st = .issued then some m else none
  | none => none

/-- A source has something for the front end. -/
def State.sourceReady (s : State) (a : LaunchSrc) : Bool :=
  match a with
  | .port g => (s.core g).portHead.isSome
  | .queue d q => !(s.dom d).lq[q].packets.isEmpty

/-- The source is the front end's next: none that is ready comes before it (R280). -/
def State.sourceNext (s : State) (a : LaunchSrc) : Bool :=
  let start := s.fePtr + 1
  let ahead := (sourceNumber a + 1792 - start % 1792) % 1792
  !(List.range ahead).any (fun k => s.sourceReady (sourceOf ((start + k) % 1792)))

/-- The front end has served a source. -/
def State.served (s : State) (n : Nat) : State := { s with fePtr := n }

/-- The launch of a core's front-end port (R280): the command completes with the id, or with BADDESC. DESIGN CHOICE: while it waits for a
pull or for a free id the front end has not served its source, and serves no other before it, which R280 does not say (log 92). -/
def State.takePort (s : State) (g : CoreId) : Option State :=
  match (s.core g).portHead with
  | none => none
  | some m =>
    let n := g.val
    match s.engReadRun g 3 m (m.tcw.w1.extractLsb' 0 48).toNat 8 512 with
    | (s1, .error (.stop c va)) => some ((s1.cmdOut g 3 m id (.stop c va) 0).served n)
    | (s1, .error (.status x)) => some ((s1.cmdOut g 3 m id (.status x) 0).served n)
    | (s1, .error _) => some s1
    | (s1, .ok bs) =>
      match s1.takeDesc (bytesWords 64 bs) m.dom m.level (s1.ownNumber m.dom g) with
      | .yes s2 lid => some ((s2.modCmd g 3 m.pos (fun x => { x with st := .done stOk (lid.setWidth 64) })).served n)
      | .no s2 => some ((s2.modCmd g 3 m.pos (fun x => { x with st := .done stBadDesc 0 })).served n)
      | .waits s2 => some s2

/-- A packet leaves its queue; a rejected one is counted (R357). -/
def State.popPacket (s : State) (d : Dom) (q : Fin 4) (bad : Bool) : State :=
  s.modDom d (fun x =>
    let y := x.lq[q]
    { x with lq := x.lq.set q { y with packets := y.packets.drop 1, baddesc := if bad && y.baddesc.toNat < 65535 then y.baddesc + 1 else y.baddesc } })

/-- The level of a launch queue's issuer (R356). -/
def State.queueLevel (s : State) (d : Dom) (q : Fin 4) : BitVec 2 := if d = 0 then 2 else if (s.dom d).lq[q].priv then 1 else 0

/-- The next packet of a launch queue (R356). -/
def State.takeQueue (s : State) (d : Dom) (q : Fin 4) : Option State :=
  let n := 768 + 4 * d.toNat + q.val
  let go := fun (s : State) (ws : List Word) =>
    match s.takeDesc ws d (s.queueLevel d q) 0x3FF with
    | .yes s1 _ => (s1.popPacket d q false).served n
    | .no s1 => (s1.popPacket d q true).served n
    | .waits s1 => s1
  match (s.dom d).lq[q].packets with
  | [] => none
  | .desc ws :: _ => some (go s ws)
  | .ref va :: _ =>
    if va.extractLsb' 0 6 ≠ 0 then some ((s.popPacket d q true).served n)
    else
      match s.frontRead d va.toNat 8 512 with
      | (s1, .bad) => some ((s1.popPacket d q true).served n)
      | (s1, .pulling) => some s1
      | (s1, .ok bs) => some (go s1 (bytesWords 64 bs))

/-- LAUNCH_ACCEPTANCE. -/
def State.acceptLaunch (s : State) (a : LaunchSrc) : Option State :=
  if s.dieLost 0 || !s.sourceNext a then none
  else
    match a with
    | .port g => s.takePort g
    | .queue d q => s.takeQueue d q

/-- LAUNCH_ACCEPTANCE. -/
def execLaunchAcceptance (a : LaunchSrc) (s : State) : Host.Outcome State Fault Refusal := .next ((s.acceptLaunch a).getD s)

/-! ## Placement (R48, R49, R383) -/

/-- Slots of a core that are free for a domain it admits (R48). -/
def Core.freeFor (c : Core) (d : Dom) (cycle : Nat) : List SlotId :=
  match c.entryOf d with
  | some e =>
    if c.part[e].mayStart cycle then (List.finRange 16).filter (fun i => c.slots[i].status == .free && c.part[e].hasSlot i) else []
  | none => []

/-- need[c] of a team of n (R48). -/
def needOf (n c : Nat) : Nat := (n + 3 - c) / 4

/-- The free quad barrier that a placement takes (R52). DESIGN CHOICE: the lowest (log 69). -/
def State.freeQuadBar (s : State) (d : DieId) (q : Fin 32) : Option (Fin 8) :=
  (List.finRange 8).find? (fun i => (s.bar (.quad d q i)).owner.isNone)

/-- A quad can take a team of n tasks of a domain (R49). -/
def State.quadFits (s : State) (d : DieId) (q : Fin 32) (dom : Dom) (n : Nat) (bar : Bool) : Bool :=
  (List.finRange 4).all (fun c => needOf n c.val == 0 || decide (needOf n c.val ≤ ((s.core (coreAt d q c)).freeFor dom s.cycle).length)) &&
    (!bar || (s.freeQuadBar d q).isSome)

/-- The record of position p of team j (R21, R27). -/
def teamRecord (l : Launch) (replay : Bool) (j p : Nat) : TaskRec :=
  let w0 := l.desc.getD 0 0
  let e := descExtent l.desc
  let i := j * descTeam l.desc + p
  let n := fun (k : Nat) => BitVec.ofNat 64 k
  let tr : TaskRec := ⟨mkDw0 (w0.getLsbD 63) false (w0.extractLsb' 58 2) false (descDom l.desc) (w0.setWidth 48),
    #v[n (i % e.1), n (i / e.1 % e.2.1), n (i / (e.1 * e.2.1)), n j, n p, n (teamSize l.desc j)],
    mkDw7 0 l.svc (l.lid.setWidth 16) (BitVec.ofNat 32 i), false⟩
  if replay then tr.withReplay 1 else tr

/-- Slots are reserved for positions p on, and their records sent out (R49, R51). DESIGN CHOICE: each position takes the lowest free slot
of its core (log 69). -/
def State.reserveTeam (s : State) (d : DieId) (q : Fin 32) (l : Launch) (replay : Bool) (j : Nat) (bar : Option (Fin 8)) :
    List Nat → State
  | [] => s
  | p :: ps =>
    let g := coreAt d q (Fin.ofNat 4 p)
    match (s.core g).freeFor l.dom s.cycle with
    | [] => s.reserveTeam d q l replay j bar ps
    | i :: _ =>
      let s1 := s.reslot g i (fun sl => { sl with status := .reserved })
      (s1.modDie d (fun x => { x with deliveries := x.deliveries ++ [⟨g, i, teamRecord l replay j p, j, bar, false⟩] })).reserveTeam d q l replay j bar ps

/-- PlaceTeam (R49): the first quad from the pointer on that fits. -/
def State.placeTeam (s : State) (d : DieId) (l : Launch) (replay : Bool) (j : Nat) : Option State :=
  let n := teamSize l.desc j
  let teambar := (l.desc.getD 0 0).getLsbD 62
  let quads := (List.range 32).map (fun i => Fin.ofNat 32 ((s.die d).ptr.val + i))
  match quads.find? (fun q => s.quadFits d q l.dom n teambar) with
  | none => none
  | some q =>
    let bar := if teambar then s.freeQuadBar d q else none
    let s1 := match bar with
      | some i => s.setBar (.quad d q i) ⟨some l.dom, some (l.lid, j), n, 0, 0⟩
      | none => s
    some ((s1.reserveTeam d q l replay j bar (List.range n)).modDie d (fun x => { x with ptr := Fin.ofNat 32 (q.val + 1) }))

/-- The launch of a domain whose teams a die places next. -/
def Die.waiting (x : Die) (dom : Dom) : Option DieLaunch := x.launches.find? (fun y => y.dom == dom)

/-- One more team of a die's launch is placed; a launch whose teams are all placed leaves its queue. -/
def State.placedOne (s : State) (d : DieId) (y : DieLaunch) : State :=
  let z := { y with placed := y.placed + 1 }
  s.modDie d (fun x => { x with launches := if z.teams.size ≤ z.placed then x.launches.erase y else x.launches.map (fun w => if w = y then z else w) })

/-- Attempts of a placement slot, domain by domain; the first success ends it (R383). -/
def State.placeGo (s : State) (d : DieId) : List Dom → State
  | [] => s
  | dom :: rest =>
    let s1 := s.modDie d (fun x => { x with domPtr := dom })
    match (s.die d).waiting dom with
    | none => s1.placeGo d rest
    | some y =>
      match s.launchOf y.lid with
      | none => s1.modDie d (fun x => { x with launches := x.launches.erase y })
      | some l =>
        match s1.placeTeam d l y.teams.again.isSome (y.teams.nth y.placed) with
        | some s2 => s2.placedOne d y
        | none => s1.placeGo d rest

/-- The domains that wait on a die, in the order of their turns. -/
def Die.turns (x : Die) : List Dom :=
  ((List.range 256).map (fun k => x.domPtr + BitVec.ofNat 8 (k + 1))).filter (fun dom => (x.waiting dom).isSome)

/-- PLACEMENT_SLOT; the firmware may have stopped placement on the die (R361). -/
def execPlacementSlot (d : DieId) (s : State) : Host.Outcome State Fault Refusal :=
  .next (if (s.die d).stopped then s else s.placeGo d ((s.die d).turns.take 8))

/-- The records of a team are delivered in the order in which they were sent out, which is position order (R51). -/
def Die.inTurn (y : Die) (n : Nat) (x : Delivery) : Bool :=
  !(y.deliveries.take n).any (fun z => z.team == x.team && z.tr.lid == x.tr.lid)

/-- TEAM_RECORD_DELIVERY: a record starts in its reserved slot (R51); one that took SENDQFULL waits for its share (R294). -/
def State.deliver (s : State) (d : DieId) (n : Nat) : Option State :=
  match (s.die d).deliveries[n]? with
  | none => none
  | some x =>
    if !(s.die d).inTurn n x || x.barred && !(s.core x.g).barLifted x.tr.dom then none
    else
      let s1 := s.modDie d (fun y => { y with deliveries := y.deliveries.eraseIdx n })
      some (s1.startTask x.g x.slot x.tr .launch 0 (some x.team) x.bar)

/-- TEAM_RECORD_DELIVERY. -/
def execTeamRecordDelivery (d : DieId) (n : Nat) (s : State) : Host.Outcome State Fault Refusal := .next ((s.deliver d n).getD s)

/-! ## Retirement and completion (R31, R32, R344, R346) -/

/-- An access that a team's retirement waits for: a store, ZERO, ERASE, atomic or statistics update, one that waits for its pages too (R32,
R344). -/
def Pend.holdsTeam (p : Pend) (lid : Word) (team : Nat) : Bool :=
  p.lid == some lid && p.team == some team && !p.postedOnly && p.writes

/-- Every store of a team's tasks is performed, and every tile command they enqueued has completed, on the die that has the team
(R344): what a lost die holds of an earlier attempt does not count (R346). -/
def State.teamQuiet (s : State) (d : DieId) (lid : Word) (team : Nat) : Bool :=
  !(List.finRange 128).any (fun (k : Fin 128) =>
    let c := s.core ⟨d.val * 128 + k.val, by omega⟩
    c.pend.any (fun p => p.holdsTeam lid team) || c.queues.toList.any (fun q => q.any (fun m => m.lid == some lid && m.team == some team)))

/-- TEAM_RETIREMENT: a die reports a team (R344). -/
def State.teamRetire (s : State) (n team : Nat) : Option State :=
  match s.launches[n]? with
  | none => none
  | some l =>
    match l.ranges.find? (fun x => x.2.has team) with
    | none => none
    | some (d, _) =>
      if s.dieLost d || s.dieLost 0 || l.hasRetired team || l.endedOf team < teamSize l.desc team || !s.teamQuiet d l.lid team then none
      else some { s with launches := s.launches.set n { l with retired := l.retired ++ [(team, d)] } }

/-- TEAM_RETIREMENT. -/
def execTeamRetirement (n team : Nat) (s : State) : Host.Outcome State Fault Refusal := .next ((s.teamRetire n team).getD s)

/-- Teams of a launch that a lost die has not reported. -/
def State.lostTeams (s : State) (l : Launch) : Nat :=
  sumOf ((l.ranges.filter (fun x => s.dieLost x.1)).map (fun x => x.2.size - (l.retired.filter (fun r => x.2.has r.1)).length))

/-- STATUS of a launch that completes (R31). -/
def Launch.status (l : Launch) : Nat := if l.lost then 1 else if l.dead ≠ 0 then 3 else 0

/-- Teams retired on a die. -/
def Launch.retOn (l : Launch) (d : Nat) : Nat := (l.retired.filter (fun r => r.2.val == d)).length

/-- The doublewords of the bitmap that have bits for retired teams: index and bits. -/
def Launch.bitmap (l : Launch) : List (Nat × Word) :=
  let ks := (List.range ((l.teams + 63) / 64)).filter (fun k => l.retired.any (fun r => r.1 / 64 == k))
  ks.map (fun k => (k, BitVec.ofNat 64 (packFields 1 (fun b => if l.hasRetired (64 * k + b) then 1 else 0) 64)))

/-- Bits set in a doubleword of the bitmap. -/
def State.bitmapWrite (s : State) (l : Launch) (x : Nat × Word) : State :=
  let va := descBmva l.desc + BitVec.ofNat 48 (8 * x.1)
  match s.frontPlace l.dom va with
  | (s1, .at_ pa) => s1.cohWriteWord pa (s1.cohWord pa ||| x.2)
  | (s1, _) => s1.noticeOwn frontCore l.dom (s1.noticeOf l.dom 8 l.dom 0x3FF l.lid.toNat (va.setWidth 64) 0 0 0)

/-- The completion record and the notification (R31, R32): counts of teams have 32 bits (log 67). -/
def State.recordWrites (s : State) (l : Launch) : List (VA × List Byte) :=
  let cr := descCrva l.desc
  let nva := descNva l.desc
  let n := fun (k : Nat) => BitVec.ofNat 64 (k % 2 ^ 32)
  let ret := fun i => n (l.retOn (2 * i + 1)) <<< 32 ||| n (l.retOn (2 * i))
  let dw0 := l.dead * 2 ^ 32 + l.lid.toNat * 2 ^ 16 + l.status
  [(cr + 8, wordsBytes [ret 0, ret 1, ret 2, (descBmva l.desc).setWidth 64, s.timeOf l.dom, l.tacc, n l.teams]), (cr, bytesOf 8 dw0)] ++
    (if nva = 0 then []
      else [(nva, bytesOf 8 (l.status * 2 ^ 56 + l.lid.toNat * 2 ^ 16 + ((l.desc.getD 5 0).extractLsb' 48 16).toNat))])

/-- LAUNCH_COMPLETION: the bitmap, the record and the notification are written in order, and the id is free again. -/
def State.completeLaunch (s : State) (n : Nat) : Option State :=
  match s.launches[n]? with
  | none => none
  | some l =>
    if s.dieLost 0 || l.retired.length + s.lostTeams l < l.teams || l.remote ≠ 0 then none
    else
      let bits := if descBmva l.desc = 0 then [] else l.bitmap
      let ws := s.recordWrites l
      match s.frontReady l.dom (bits.map (fun x => descBmva l.desc + BitVec.ofNat 48 (8 * x.1)) ++ ws.map (fun x => x.1)) with
      | (s1, false) => some s1
      | (s1, true) =>
        let s2 := (bits.foldl (fun (s : State) x => s.bitmapWrite l x) s1).frontWrites l.dom l.lid.toNat ws
        some { s2 with launches := s2.launches.eraseIdx n }

/-- LAUNCH_COMPLETION. -/
def execLaunchCompletion (n : Nat) (s : State) : Host.Outcome State Fault Refusal := .next ((s.completeLaunch n).getD s)

end Sys2Proof.Machine
end

