-- ==== Sys2Proof/Machine/Host.lean ====
section
/-! DEFINITION. The world outside: accesses of other fabric nodes and what their offsets name, launch-queue packets, host snoops,
flushes, starts and halts, management writes, power, soft errors and attestation (R299, R352 to R363, R367, R368, R373 to R378). -/

namespace Sys2Proof.Machine

/-! ## What a class may access (R353) -/

/-- The node may access bytes of device memory. -/
def reaches (e : NodeEntry) (off len : Nat) : Bool :=
  match e.cls with
  | .mgmt => true
  | .absent => false
  | _ => e.apertures.any (fun a => decide (a.1 ≤ off) && decide (off + len ≤ a.1 + a.2))

/-- The node may access the window of a VF. -/
def mayWindow (e : NodeEntry) (vf : Nat) : Bool :=
  match e.cls with
  | .mgmt => true
  | .host => e.vf.toNat == vf
  | _ => false

/-! ## The offset space (R352, R355, R363, R364, R367) -/

/-- What an offset names. -/
inductive OffsetOf where
  | mem (pa : Nat)
  /-- A byte of a queue slot in the window of a VF. -/
  | queue (vf : Nat) (d : Dom) (q : Fin 4) (at_ : Nat)
  | devstate
  | cycleOff (v : Fin 96)
  | timeOff (v : Fin 96)
  | pulltab (d : DieId)
  | domCsr (d : Dom) (n : Nat)
  | coreCsr (g : CoreId) (n : Nat)
  /-- A word of the node table's entry of a node. -/
  | nodeWord (n : BitVec 10) (k : Nat)
  /-- Counter k of a slice, or, from 64 on, of a die (R373). -/
  | counter (d : DieId) (k : Fin 80)
  | unused
  deriving DecidableEq, Repr

/-- Bytes of the device-memory part of the offset space. -/
def memEnd : Nat := 0x18000000000

/-- A device register by its place among them; the spec gives the node table and the counters no place of their own there (log 42). -/
def devRegister (r : Nat) : OffsetOf :=
  if r = 0 then .devstate
  else if 0x2000 ≤ r ∧ r < 0x2000 + 16 * 96 then
    if r % 16 = 0 then .cycleOff (Fin.ofNat 96 ((r - 0x2000) / 16))
    else if r % 16 = 8 then .timeOff (Fin.ofNat 96 ((r - 0x2000) / 16))
    else .unused
  else if 0x3000 ≤ r ∧ r < 0x3000 + 8 * 6 then
    if r % 8 = 0 then .pulltab (Fin.ofNat 6 ((r - 0x3000) / 8)) else .unused
  else if r % 8 ≠ 0 then .unused
  else
    match Config.nodePlace r, Config.counterPlace r with
    | some x, _ => .nodeWord x.1 x.2
    | none, some k => .counter (Fin.ofNat 6 (k / 80)) (Fin.ofNat 80 k)
    | none, none => .unused

/-- What an offset names. -/
def offsetOf (off : Nat) : OffsetOf :=
  if off < memEnd then .mem off
  else if off < 0x1C000000000 then .unused
  else if off < 0x1C000000000 + 96 * 0x100000 then
    let r := off - 0x1C000000000
    .queue (r / 0x100000) (BitVec.ofNat 8 (r / 0x1000)) (Fin.ofNat 4 (r / 0x400)) (r % 0x400)
  else if off < 0x1FD00000000 then .unused
  else if off < 0x1FE00000000 then devRegister (off - 0x1FD00000000)
  else if off % 8 ≠ 0 then .unused
  else if off < 0x1FF00000000 then
    let r := off - 0x1FE00000000
    let n := 0x100 + r % 0x1000 / 8
    if r / 0x1000 < 256 ∧ n < 0x200 ∧ n ≠ 0x134 ∧ csrDefined n = true then .domCsr (BitVec.ofNat 8 (r / 0x1000)) n else .unused
  else
    let r := off - 0x1FF00000000
    let n := r % 0x8000 / 8
    match finOf 768 (r / 0x8000) with
    | some g => if 0x200 ≤ n ∧ n < 0x500 ∧ csrDefined n = true then .coreCsr g n else .unused
    | none => .unused

/-! ## Registers through the fabric -/

/-- DEVSTATE (R367). -/
def State.devWord (s : State) : Word :=
  let lost := (List.finRange 6).foldl (fun n d => n + (if s.dieLost d then 2 ^ d.val else 0)) 0
  BitVec.ofNat 64 (s.dev.phase.toNat * 2 ^ 56 + lost * 2 ^ 50 + s.dev.warmFail.toNat * 2 ^ 48 + (if s.dev.cold then 2 ^ 47 else 0))

/-- LQSTAT (R357). -/
def lqstat (x : LaunchQueue) : Word :=
  BitVec.ofNat 64 (x.submitted.toNat * 2 ^ 32 + x.baddesc.toNat * 2 ^ 16 + x.packets.length % 128)

/-- LQCTL (R358). -/
def lqctl (x : LaunchQueue) : Word := BitVec.ofNat 64 ((if x.en then 2 ^ 63 else 0) + (if x.priv then 2 ^ 62 else 0))

/-- A CSR of a core as H reads it (R352, R370). -/
def State.coreWord (s : State) (g : CoreId) (n : Nat) : Word :=
  let c := s.core g
  if n = 0x210 then c.l1ctl
  else if n < 0x300 then c.dpart n
  else if n < 0x400 then (s.die g.die).csr n
  else if n < 0x408 then c.ev[Fin.ofNat 8 n].sel
  else if n < 0x410 then
    if c.evdom.getLsbD 8 then c.evSub (Fin.ofNat 8 n) (c.evdom.setWidth 8) s.cycle else c.evTotal (Fin.ofNat 8 n) s.cycle
  else c.evdom

/-- A word of an entry of the node table as an access reads it, its count of refused accesses among them (log 42). -/
opaque Config.nodeRead : NodeEntry → Nat → Word

/-- What the write of a word of an entry makes of it; none leaves it as it is (log 42). -/
opaque Config.nodeWritten : NodeEntry → Nat → Word → Option NodeEntry

/-- An entry of the node table takes a class, a VF, at most 16 apertures and a mask (R353); its count of refused accesses stays. -/
def State.nodePut (s : State) (n : BitVec 10) (e : NodeEntry) : State :=
  s.setNode n { e with apertures := e.apertures.take 16, refused := (s.node n).refused }

/-- A counter of a die or of one of its slices (R373). -/
def Die.counter (d : Die) (k : Fin 80) : Word :=
  if k.val < 64 then d.sliceCtr[Fin.ofNat 16 (k.val / 4)][Fin.ofNat 4 k.val] else d.dieCtr[Fin.ofNat 16 k.val]

/-- A counter takes a value, as a write of the management path gives it (log 42). -/
def Die.counterPut (d : Die) (k : Fin 80) (w : Word) : Die :=
  let h : Fin 16 := Fin.ofNat 16 (k.val / 4)
  if k.val < 64 then { d with sliceCtr := d.sliceCtr.set h (d.sliceCtr[h].set (Fin.ofNat 4 k.val) w) }
  else { d with dieCtr := d.dieCtr.set (Fin.ofNat 16 k.val) w }

/-- The value of a register. -/
def State.regRead (s : State) (o : OffsetOf) : Option Word :=
  match o with
  | .devstate => some s.devWord
  | .cycleOff v => some s.cycleOff[v]
  | .timeOff v => some s.timeOff[v]
  | .pulltab d => some (s.die d).pulltab
  | .domCsr d n => some (s.domCsr 0 d n)
  | .coreCsr g n => some (s.coreWord g n)
  | .nodeWord n k => some (Config.nodeRead (s.node n) k)
  | .counter d k => some ((s.die d).counter k)
  | .mem _ | .queue .. | .unused => none

/-- A CSR of a core is written at H (R352); one that no CSR instruction writes takes nothing. -/
def State.coreCsrPut (s : State) (g : CoreId) (n : Nat) (w : Word) : Option State :=
  if (csrWrite n).isNone || csrBroken n w then none
  else if n = 0x210 then some (s.modCore g (fun c => { c with l1ctl := (w &&& 0xFF01) ||| (c.l1ctl &&& 1) }))
  else if n = 0x363 then some ((s.modDie g.die (fun d => d.csrSet n w)).hostFit g.die)
  else if n < 0x400 then some (s.modDie g.die (fun d => d.csrSet n w))
  else if n < 0x408 then s.evselWrite g (Fin.ofNat 8 n) w
  else if n < 0x410 then some (s.evcSet g (Fin.ofNat 8 n) w)
  else some (s.modCore g (fun c => { c with evdom := w &&& 0x1FF }))

/-- A per-domain CSR is written at H (R352). -/
def State.domCsrPut (s : State) (d : Dom) (n : Nat) (w : Word) : Option State :=
  if (csrWrite n).isNone || csrBroken n w then none
  else if n = 0x108 ∨ n = 0x109 then
    match s.poolWrite 0 d none (n == 0x109) w with
    | .ok s1 => some s1
    | .trap _ _ => none
    | .waits s1 => some s1
  else some (s.modDom d (fun x => x.csrSet n w))

/-- The offset of a VF is set at every core (R363). -/
def State.vfOffset (s : State) (v : Fin 96) (time : Bool) (w : Word) : State :=
  if time then { s with timeOff := s.timeOff.set v w } else { s with cycleOff := s.cycleOff.set v w }

/-- A register is written by the management path. -/
def State.regWrite (s : State) (o : OffsetOf) (w : Word) : Option State :=
  match o with
  | .cycleOff v => some (s.vfOffset v false w)
  | .timeOff v => some (s.vfOffset v true w)
  | .pulltab d => some (s.modDie d (fun x => { x with pulltab := w }))
  | .domCsr d n => s.domCsrPut d n w
  | .coreCsr g n => s.coreCsrPut g n w
  | .counter d k => some (s.modDie d (fun x => x.counterPut k w))
  | .nodeWord n k => some (s.nodePut n ((Config.nodeWritten (s.node n) k w).getD (s.node n)))
  | .mem _ | .queue .. | .devstate | .unused => none

/-! ## Launch queues (R355 to R359) -/

/-- The domain's queue after a change. -/
def State.modQueue (s : State) (d : Dom) (q : Fin 4) (f : LaunchQueue → LaunchQueue) : State :=
  s.modDom d (fun x => { x with lq := x.lq.set q (f x.lq[q]) })

/-- A doorbell write in the window of a VF, of a packet if its size and alignment make one, and its answer (R356, R359). -/
def State.doorbell (s : State) (node : BitVec 10) (vf : Nat) (d : Dom) (q : Fin 4) (p : Option Packet) : State :=
  let x := (s.dom d).lq[q]
  let say := fun (s : State) r => { s with reports := Report.doorbell node r :: s.reports }
  if s.dev.phase ≠ 0x10 then say s .notReady
  else if (s.dom d).vf.toNat ≠ vf then say s .denied
  else
    match p with
    | none => say s .denied
    | some p =>
      if !x.en then say s .disabled
      else if 64 ≤ x.packets.length then say s .full
      else say (s.modQueue d q (fun x => { x with packets := x.packets ++ [p], submitted := x.submitted + 1 })) .accepted

/-- The packet of an 8-byte doorbell write: bits [63:48] are zero (R355). -/
def refPacket (w : Word) : Option Packet := if w.extractLsb' 48 16 = 0 then some (.ref (w.setWidth 48)) else none

/-- LQCTL takes a value. -/
def State.lqctlSet (s : State) (d : Dom) (q : Fin 4) (w : Word) : State :=
  s.modQueue d q (fun x => { x with en := w.getLsbD 63, priv := w.getLsbD 62 })

/-- DESCRIPTOR_PACKET: 512 bytes at offset 0x000 of a queue slot; at 0x200 a write of another size than its own (R356). -/
def execDescriptorPacket (node : BitVec 10) (off : Nat) (ws : List Word) (s : State) : Host.Outcome State Fault Refusal :=
  .next (match offsetOf off with
    | .queue vf d q o =>
      if !mayWindow (s.node node) vf then s.refuseTo node 0
      else if 0x208 ≤ o then s.errorTo node 0
      else s.doorbell node vf d q (if o = 0 ∧ ws.length = 64 then some (.desc ws) else none)
    | _ => s.refuseTo node 0)

/-- REFERENCE_PACKET: 8 bytes at offset 0x200 of a queue slot; at 0x000 a write of another size than its own (R356). -/
def execReferencePacket (node : BitVec 10) (off : Nat) (w : Word) (s : State) : Host.Outcome State Fault Refusal :=
  .next (match offsetOf off with
    | .queue vf d q o =>
      if !mayWindow (s.node node) vf then s.refuseTo node 0
      else if 0x208 ≤ o then s.errorTo node 0
      else s.doorbell node vf d q (if o = 0x200 then refPacket w else none)
    | _ => s.refuseTo node 0)

/-- LQCTL_WRITE: only the management path's is performed (R358). -/
def execLqctlWrite (node : BitVec 10) (d : Dom) (q : Fin 4) (w : Word) (s : State) : Host.Outcome State Fault Refusal :=
  .next (
    if (s.node node).cls = .mgmt then (s.lqctlSet d q w).answer node true []
    else if mayWindow (s.node node) (s.dom d).vf.toNat then s.errorTo node 0
    else s.refuseTo node 0)

/-! ## Accesses of nodes (R353, R354) -/

/-- Bytes of a request. -/
def reqLen (r : HostReq) : Nat :=
  match r with
  | .read n => n
  | .write data => data.length
  | .cached g => grainSize g
  | .add4 _ | .swap4 _ | .cas4 _ _ => 4
  | _ => 8

/-- An atomic of a request: its kind, source and expected value (R245, R354). -/
def reqAmo (r : HostReq) : Option (AmoKind × Word × Word) :=
  match r with
  | .add v => some (.add, v, 0)
  | .swap v => some (.swp, v, 0)
  | .cas x y => some (.cas, y, x)
  | .add4 v => some (.add, v.setWidth 64, 0)
  | .swap4 v => some (.swp, v.setWidth 64, 0)
  | .cas4 x y => some (.cas, y.setWidth 64, x.setWidth 64)
  | .and v => some (.and, v, 0)
  | .or v => some (.or, v, 0)
  | .xor v => some (.xor, v, 0)
  | .read _ | .write _ | .cached _ => none

/-- Bytes that the answer of a request holds. -/
def answerLen (r : HostReq) : Nat :=
  match r with
  | .write _ => 0
  | r => reqLen r

/-- A host comes to hold a clean copy of a grain: an owner supplies it as for RdS, and shares it (R186, R308, R354). -/
def State.hostShare (s : State) (q : Run) : State :=
  let s1 := s.recallGrain (dieOf q.pa) q
  let s2 := match s1.dirGet q with
    | some e =>
      match e.owner with
      | some o =>
        let t := s1.recallGrain o q
        match (t.die o).grain q with
        | some v =>
          if v.st == Moesi.m || v.st == Moesi.o then (t.visitorState o 0 [q] .o).dirPut q e.dies (some o) .o
          else (t.visitorState o 0 [q] .s).dirPut q e.dies none .s
        | none => t
      | none => s1
    | none => s1
  s2.hostHold q

/-- An access to device memory is performed at the coherence point and answered (R354); poison is answered as an error (R180). -/
def State.memAccess (s : State) (node : BitVec 10) (pa : Nat) (r : HostReq) : State :=
  let n := reqLen r
  match r with
  | .write data => (s.cohWrite pa data).answer node true []
  | .cached g =>
    let q : Run := ⟨pa / grainSize g * grainSize g, grainSize g⟩
    if s.poisonedAt q.pa q.len then s.errorTo node n
    else let s1 := s.hostShare q; s1.answer node true (s1.cohRead q.pa q.len)
  | .read _ => if s.poisonedAt pa n then s.errorTo node n else s.answer node true (s.cohRead pa n)
  | r =>
    if pa % n ≠ 0 || s.poisonedAt pa n then s.errorTo node n
    else
      let old : Word := wordOf (s.cohRead pa n)
      let s1 := match (reqAmo r).bind (fun a => amoNew a.1 n old a.2.1 a.2.2) with
        | some w => s.cohWrite pa (bytesOf n w.toNat)
        | none => s
      s1.answer node true (bytesOf n old.toNat)

/-- An access to a queue slot (R355, R357, R358). -/
def State.windowAccess (s : State) (node : BitVec 10) (vf : Nat) (d : Dom) (q : Fin 4) (o : Nat) (r : HostReq) : State :=
  let x := (s.dom d).lq[q]
  let mine := (s.dom d).vf.toNat == vf
  match r with
  | .read n =>
    if mine && n == 8 && o == 0x208 then s.answer node true (bytesOf 8 (lqstat x).toNat)
    else if mine && n == 8 && o == 0x210 then s.answer node true (bytesOf 8 (lqctl x).toNat)
    else s.errorTo node n
  | .write data =>
    if o < 0x200 then s.doorbell node vf d q (if o = 0 ∧ data.length = 512 then some (.desc (bytesWords 64 data)) else none)
    else if o < 0x208 then s.doorbell node vf d q (if o = 0x200 ∧ data.length = 8 then refPacket (wordOf data) else none)
    else if mine && o == 0x210 && data.length == 8 && (s.node node).cls == .mgmt then (s.lqctlSet d q (wordOf data)).answer node true []
    else s.errorTo node 0
  | r => s.errorTo node (answerLen r)

/-- An access of the management path to a register (R352). -/
def State.regAccess (s : State) (node : BitVec 10) (o : OffsetOf) (r : HostReq) : State :=
  match r with
  | .read n =>
    match s.regRead o with
    | some w => if n = 8 then s.answer node true (bytesOf 8 w.toNat) else s.errorTo node n
    | none => s.errorTo node n
  | .write data =>
    if data.length ≠ 8 then s.errorTo node 0
    else
      match s.regWrite o (wordOf data) with
      | some s1 => s1.answer node true []
      | none => s.errorTo node 0
  | r => s.errorTo node (answerLen r)

/-- The offset at which a request begins: a kept copy is of a whole grain. -/
def reqStart (off : Nat) (r : HostReq) : Nat :=
  match r with
  | .cached g => off / grainSize g * grainSize g
  | _ => off

/-- HOST_ACCESS: an access of a node, allowed or refused by its class (R353, R354); DEVSTATE is readable by every host too (R367). -/
def State.hostAccess (s : State) (node : BitVec 10) (off : Nat) (r : HostReq) : State :=
  let e := s.node node
  match offsetOf off with
  | .mem pa =>
    let lo := reqStart off r
    let hosts := match r with
      | .cached _ => e.cls == .host
      | _ => true
    if !reaches e lo (reqLen r) then s.refuseTo node (answerLen r)
    else if memEnd < lo + reqLen r || !hosts then s.errorTo node (answerLen r)
    else s.memAccess node pa r
  | .queue vf d q o =>
    if mayWindow e vf then s.windowAccess node vf d q o r else s.refuseTo node (answerLen r)
  | o =>
    let open_ : Bool := match r with
      | .read _ => o == .devstate && e.cls == .host
      | _ => false
    if e.cls == .mgmt || open_ then s.regAccess node o r else s.refuseTo node (answerLen r)

/-- HOST_ACCESS. -/
def execHostAccess (node : BitVec 10) (off : Nat) (r : HostReq) (s : State) : Host.Outcome State Fault Refusal :=
  .next (s.hostAccess node off r)

/-! ## Management writes (R352, R353, R363) -/

/-- VF_OFFSET_WRITE (R363). -/
def execVfOffsetWrite (vf : BitVec 7) (time : Bool) (w : Word) (s : State) : Host.Outcome State Fault Refusal :=
  .next (match finOf 96 vf.toNat with
    | some v => s.vfOffset v time w
    | none => s)

/-- NODE_TABLE_WRITE: the class, apertures and mask of a node (R353); its count of refused accesses stays. -/
def execNodeTableWrite (n : BitVec 10) (e : NodeEntry) (s : State) : Host.Outcome State Fault Refusal :=
  .next (s.nodePut n e)

/-- MANAGEMENT_REGISTER_WRITE: an offset without a register to write performs nothing (R352). -/
def execManagementRegisterWrite (off : Nat) (w : Word) (s : State) : Host.Outcome State Fault Refusal :=
  .next ((s.regWrite (offsetOf off) w).getD s)

/-! ## Host memory on the device (R360, R361) -/

/-- The grain of host memory that some die holds at an address. -/
def State.hostGrain (s : State) (pa : Nat) : Option Run :=
  s.dies.toList.findSome? (fun d => (d.visitors.find? (fun v => decide (v.pa ≤ pa) && decide (pa < v.pa + v.data.length))).map (fun v => ⟨v.pa, v.data.length⟩))

/-- HOST_SNOOP: a holder in M or O supplies the data, and the host takes or shares the grain; bytes lost to a reset are answered as
poison, anything else as not present (R308, R360). -/
def State.snoopHost (s : State) (pa : Nat) (own : Bool) : State :=
  let say := fun (s : State) (present bad : Bool) (data : List Byte) => { s with reports := Report.snoop pa present bad data :: s.reports }
  if !isFabric pa then say s false false []
  else
    match s.hostGrain pa with
    | none => say s false (s.lostGrains.any (fun x => decide (x.pa ≤ pa) && decide (pa < x.pa + x.len))) []
    | some q =>
      let owner := match s.dirGet q with
        | some e => e.owner
        | none => none
      let s1 := match owner with
        | some o => s.recallGrain o q
        | none => s
      let held := match owner with
        | some o => (s1.die o).grain q
        | none => none
      let dirty : Bool := match held with
        | some v => v.st == Moesi.m || v.st == Moesi.o
        | none => false
      let data := match held with
        | some v => if dirty then v.data else []
        | none => []
      let bad := !(s1.badIn q).isEmpty
      let s2 :=
        if own then (List.finRange 6).foldl (fun (s : State) d => if ((s.die d).grain q).isSome then s.dropHolding d q else s) s1
        else
          match owner with
          | some o => (s1.visitorState o 0 [q] (if dirty then Moesi.o else Moesi.s)).regrant q
          | none => s1
      say s2 true bad data

/-- HOST_SNOOP. -/
def execHostSnoop (pa : Nat) (own : Bool) (s : State) : Host.Outcome State Fault Refusal := .next (s.snoopHost pa own)

/-- Every byte of memory. -/
def wholeMemory : Run := ⟨0, 2 ^ 52⟩

/-- One die is flushed (R361): placement stops, every L1 is evicted, and its visitor slice gives up what it holds. -/
def State.flushDie (s : State) (d : DieId) : State :=
  let s1 := s.modDie d (fun x => { x with stopped := true })
  let mine := (List.finRange 768).filter (fun g => g.die == d && !(s1.core g).l1.isEmpty)
  let s2 := mine.foldl (fun (s : State) g =>
    let t := s.modCore g (fun c => { c with l1ctl := c.l1ctl ||| 1 })
    (t.wball g).getD t) s1
  let s3 := (s2.absorb wholeMemory).recallDie d wholeMemory
  (s3.die d).visitors.foldl (fun (s : State) v => s.dropHolding d ⟨v.pa, v.data.length⟩) s3

/-- DEVICE_FLUSH of the affected dies; a die that is to be gated also loses every remote holding of its memory (R361). -/
def State.flush (s : State) (w : FlushWhy) : State :=
  match w with
  | .gate d =>
    let s1 := (s.flushDie d).modDie d (fun x => { x with forceBusy := true })
    ((s1.force d).getD s1).modDie d (fun x => { x with forced := true })
  | _ => (List.finRange 6).foldl (fun (s : State) d => s.flushDie d) s

/-- DEVICE_FLUSH. -/
def execDeviceFlush (w : FlushWhy) (s : State) : Host.Outcome State Fault Refusal := .next (s.flush w)

/-- The whole device has been flushed, and holds no host grain in M or O since. -/
def State.isFlushed (s : State) : Bool :=
  s.dies.toList.all (fun d => d.stopped) && !s.grants.any (fun x => x.st == .m || x.st == .o)

/-- FIRMWARE_HALT: after the flush, PHASE becomes HALTED (R361, R367). -/
def execFirmwareHalt (s : State) : Host.Outcome State Fault Refusal :=
  .next (if s.isFlushed then { s with dev := { s.dev with phase := 0x20 } } else s)

/-- The die's flush for gating, SFCTL1.FORCE in it, is complete, and nothing has been taken on the die or from it since: no byte is
registered or in an L1, no grain is held, and no directory entry names a holder of its memory (R361). -/
def State.gateReady (s : State) (d : DieId) : Bool :=
  let x := s.die d
  x.stopped && x.forced && !x.forceBusy && x.owned.isEmpty && x.dir.isEmpty && x.visitors.isEmpty &&
    (List.finRange 768).all (fun (g : CoreId) => g.die != d || (s.core g).l1.isEmpty)

/-- DIE_POWER_GATING: after the flush of the die for it (R361). -/
def execDiePowerGating (d : DieId) (s : State) : Host.Outcome State Fault Refusal :=
  .next (
    if s.gateReady d then s.modDie d (fun x => { x with powered := false }) else s)

/-! ## Starts (R360, R367, R368) -/

/-- Host grains in M or O that a reset takes from the host without a flush. -/
def State.lose (s : State) : List Run :=
  (s.grants.filter (fun x => x.st == .m || x.st == .o)).map (fun x => (⟨x.pa, x.len⟩ : Run)) ++ s.lostGrains

/-- A reset, with the start that follows it: every CSR, queue and cache at its reset value, PHASE 0. HBM keeps its contents until a start
scrubs it; host memory is not the device's, and the model's own fields go on. -/
def State.restart (s : State) (x : Starting) : State :=
  { State.reset with
    mem := s.mem
    poison := s.poison
    fabric := s.fabric
    lostGrains := s.lose
    reports := s.reports
    now := s.now
    agent := s.agent
    agenda := s.agenda
    starting := some x }

/-- COLD_START: a reset, after which every step of a cold start is performed (R368). Debug access is closed (R378). -/
def State.coldStart (s : State) (failed : Option (Fin 9)) : State := s.restart ⟨true, ⟨false, false, false, failed⟩⟩

/-- COLD_START. -/
def execColdStart (failed : Option (Fin 9)) (s : State) : Host.Outcome State Fault Refusal := .next (s.coldStart failed)

/-- WARM_START: a reset, after which a warm start skips the steps whose conditions hold; the third failed one in a row makes the next
start cold (R368). Clocks go on (R98), and so do debug access (R378), the voltage plan and the delay monitors (R375). -/
def State.warmStart (s : State) (c : WarmCtx) : State :=
  if s.dev.warmFail = 3 then s.coldStart c.failedStep
  else
    let t := s.restart ⟨false, { c with eccRetained := c.eccRetained && s.isFlushed }⟩
    { t with
      cycle := s.cycle
      time := s.time
      debugOpen := s.debugOpen
      volt := s.volt
      voltPlan := s.voltPlan
      delay := s.delay
      delayBase := s.delayBase
      dev := { t.dev with warmFail := s.dev.warmFail } }

/-- WARM_START. -/
def execWarmStart (c : WarmCtx) (s : State) : Host.Outcome State Fault Refusal := .next (s.warmStart c)

/-- A start skips a step (R368): a cold one none. -/
def Starting.skips (x : Starting) (k : Nat) : Bool :=
  !x.cold && ((k == 3 && x.ctx.paramsOk) || (k == 4 && x.ctx.linksUp) || (k == 6 && x.ctx.eccRetained) || k == 8)

/-- Every path-delay monitor read (R375). -/
def delayReadings (now : Nat) : Vector (Vector Word 8) 192 :=
  Vector.ofFn (fun (q : Fin 192) => Vector.ofFn (fun (m : Fin 8) => Config.pathDelay now q.val m.val))

/-- What a step of a start does beside being done: step 6 writes zero to HBM, step 8 takes the ageing baseline; a reset has set the SRAMs of
step 7 to zero already (R368, R375). -/
def State.startEffect (s : State) (k : Nat) : State :=
  if k = 6 then { s with mem := [], poison := s.poison.filter (fun x => isFabric (32 * x)) }
  else if k = 8 then { s with delay := delayReadings s.now, delayBase := delayReadings s.now }
  else s

/-- The start goes on after step k: PHASE is the next step that it does not skip, or READY (R367, R368). -/
def State.startNext (s : State) (x : Starting) (k : Nat) : State :=
  match (List.range 9).find? (fun j => decide (k < j) && !x.skips j) with
  | some j => { s with dev := { s.dev with phase := BitVec.ofNat 8 j } }
  | none => { s with dev := ⟨0x10, 0, x.cold⟩, starting := none }

/-- One step of the start under way: the step that PHASE names is performed; one that fails ends the start at FAILED (R367, R368). -/
def State.startStep (s : State) : State :=
  match s.starting with
  | none => s
  | some x =>
    let k := s.dev.phase.toNat
    if k ≠ 0 ∧ x.ctx.failedStep.map (fun j => j.val) = some k then
      { s with dev := { s.dev with phase := 0xFF, warmFail := if x.cold then 0 else s.dev.warmFail + 1 }, starting := none }
    else (s.startEffect k).startNext x k

/-! ## Power, ageing, attestation, errors (R373 to R378) -/

/-- POWER_THROTTLE: while the measured power exceeds the limit, the clock of all dies goes down by 100 MHz (R376). -/
def execPowerThrottle (up : Bool) (s : State) : Host.Outcome State Fault Refusal :=
  .next (if up then { s with throttle := s.throttle + 1 } else s)

/-- The signed number kept for a supply domain. -/
def planOf (l : List (Nat × Int)) (v : Nat) : Int :=
  match l.find? (fun x => x.1 == v) with
  | some x => x.2
  | none => 0

/-- It is replaced. -/
def planPut (l : List (Nat × Int)) (v : Nat) (n : Int) : List (Nat × Int) := (v, n) :: l.filter (fun x => x.1 != v)

/-- VOLTAGE_REPLAN: the delay monitors are read, steps of 2.5 mV are to be applied to a supply domain, and a lifetime is estimated (R375). -/
def execVoltageReplan (vdom : Nat) (steps : Int) (s : State) : Host.Outcome State Fault Refusal :=
  .next { s with
    delay := delayReadings s.now
    voltPlan := planPut s.voltPlan vdom steps
    reports := .lifetime (Config.measurement s.now).toNat :: s.reports }

/-- VOLTAGE_STEP: one step of the plan is applied (R375). -/
def execVoltageStep (vdom : Nat) (s : State) : Host.Outcome State Fault Refusal :=
  let n := planOf s.voltPlan vdom
  let one : Int := if 0 < n then 1 else if n < 0 then -1 else 0
  .next (if one = 0 then s else
    { s with voltPlan := planPut s.voltPlan vdom (n - one), volt := planPut s.volt vdom (planOf s.volt vdom + one) })

/-- Free words of a report: n from a number on. -/
def measured (k n : Nat) : List Word := (List.range n).map (fun i => Config.measurement (k + i))

/-- A word of the SHA-384 of a VF's configuration: entries of the node table, L2WAY of each die, partition entries and LQCTL of its
domains (log 7; R377). -/
opaque Config.configHash : List (BitVec 10 × NodeEntry) → List Word → List (CoreId × PartId × Word × Word) → List (Dom × Word) → Nat → Word

/-- The hash of a VF's configuration (R377). -/
def State.configHash (s : State) (v : Fin 96) : List Word :=
  let doms := ((List.range 256).map (fun d => BitVec.ofNat 8 d)).filter (fun d => s.vfOf d == v)
  let nodes := s.nodes.map (fun x => (x.1, { x.2 with refused := 0 }))
  let ways := s.dies.toList.map (fun x => x.l2way[v])
  let parts := (List.finRange 768).flatMap (fun (g : CoreId) => (List.finRange 4).filterMap (fun (e : PartId) =>
    let p := (s.core g).part[e]
    if p.state != 0 && doms.contains p.dom then some (g, e, p.a, p.b) else none))
  let lq := doms.flatMap (fun d => (s.dom d).lq.toList.map (fun x => (d, lqctl x)))
  (List.range 6).map (Config.configHash nodes ways parts lq)

/-- ATTESTATION_REPORT (R377): the format, the nonce, the measurements of the boot stages, the hash of the VF's configuration, the
serial number and the signature (log 7 for the values that the spec does not give). -/
def execAttestationReport (vf : BitVec 7) (nonce : List Word) (s : State) : Host.Outcome State Fault Refusal :=
  let flags := (if s.debugOpen then 2 ^ 16 else 0) + (if s.dev.cold then 2 ^ 24 else 0)
  let head : Word := BitVec.ofNat 64 (1 + vf.toNat * 256 + flags)
  .next (match (if nonce.length = 6 then finOf 96 vf.toNat else none) with
    | some v => { s with reports := .attestation ([head] ++ nonce ++ measured 0 48 ++ s.configHash v ++
        [Config.serial.extractLsb' 0 64, Config.serial.extractLsb' 64 64] ++ measured (54 + 12 * s.now) 12) :: s.reports }
    | none => s)

/-- DEBUG_UNLOCK (R378). -/
def execDebugUnlock (signed : Bool) (s : State) : Host.Outcome State Fault Refusal :=
  .next (if signed then { s with debugOpen := true } else s)

/-- A soft error is reported with its die and structure (R374). -/
def State.reportError (s : State) (die structure_ : Nat) : State := { s with reports := .softError die structure_ :: s.reports }

/-- Sectors of an L1 entry are poisoned (R180). -/
def L1Entry.spoil (e : L1Entry) (bad : Nat → Bool) : L1Entry :=
  { e with poison := e.poison ||| BitVec.ofNat 128 (packFields 1 (fun k => if bad k then 1 else 0) 128) }

/-- An uncorrectable error in the L1 data of an address poisons its sector in the entry that holds it. DESIGN CHOICE: R374 has it poison data
as R180 states, which speaks of an entry that receives data (log 90). -/
def State.l1DataError (s : State) (g : CoreId) (pa : Nat) : State :=
  s.modCore g (fun c => { c with l1 := c.l1.map (fun e => if e.run.meets ⟨pa / 32 * 32, 32⟩ then e.spoil (fun k => k == pa % 4096 / 32) else e) })

/-- Tag parity finds the n-th L1 entry bad. DESIGN CHOICE: a clean or owned-clean entry leaves as an eviction drops it, and one that is
owned-dirty has every sector poisoned, since its bytes are nowhere else; no rule says it (R374; log 90). -/
def State.l1TagError (s : State) (g : CoreId) (n : Nat) : State :=
  match (s.core g).l1[n]? with
  | none => s
  | some e =>
    if e.state = .ownedDirty then
      s.modCore g (fun c => { c with l1 := c.l1.set n (e.spoil (fun k => decide (e.start / 32 ≤ k) && decide (k ≤ (e.start + e.data.length - 1) / 32))) })
    else (s.modCore g (fun c => { c with l1 := c.l1.eraseIdx n })).send (evictMsgs g e)

/-- SOFT_ERROR: counted and reported; an uncorrectable one poisons its sector (R180), one in filter tags back-invalidates its set
(R187). -/
def execSoftError (e : SoftErr) (s : State) : Host.Outcome State Fault Refusal :=
  .next (match e with
    | .coreCorrected g => (s.tally g none 0x00F0 1).reportError g.die.val g.val
    | .coreUncorrectable g pa => ((s.l1DataError g pa).tally g none 0x00F0 1).reportError g.die.val g.val
    | .coreTagParity g n => ((s.l1TagError g n).tally g none 0x00F0 1).reportError g.die.val g.val
    | .dieCorrected d k =>
      (s.modDie d (fun x => x.sliceCount k 3)).reportError d.val (0x300 + k.val)
    | .uncorrectable pa => ((s.modDie (dieOf pa) (fun x => x.sliceUp pa 3)).markPoison [pa / 32]).reportError (dieOf pa).val (0x300 + (homeSlice pa).val)
    | .filterParity d set =>
      let hit := (s.die d).dir.filter (fun e => filterSet e.pa == set % 4096 && (homeSlice e.pa).val == set / 4096)
      let s1 := s.modDie d (fun x => ({ x with perr := (x.perr + 1) &&& 0xFFFFFFFF } : Die).sliceCount (Fin.ofNat 16 (set / 4096)) 3)
      (hit.foldl (fun (s : State) e => s.backInvalid d e) s1).reportError d.val (0x300 + set / 4096))

/-! ## Pod barriers (R299) -/

/-- POD_BARRIER_ARRIVAL: what another device of the pod tells of a pod barrier. Device 0 counts an arrival; the others learn of a passed
phase; all learn which domain has the barrier and when it is free (R299, R300; log 11). -/
def execPodBarrierArrival (b : Fin 8) (x : PodNews) (s : State) : Host.Outcome State Fault Refusal :=
  .next (match x with
    | .arrival => if Config.nodeNumber = 0 ∧ s.podBar[b].owner.isSome then (s.barArrive (.pod b)).1 else s
    | .passed ph =>
      if Config.nodeNumber = 0 then s
      else (s.setBar (.pod b) { s.podBar[b] with a := 0, phase := ph }).wakePhase (.pod b)
    | .alloc d e => if s.podBar[b].owner.isSome then s else s.setBar (.pod b) ⟨some d, none, e, 0, 0⟩
    | .free => s.freeBar (.pod b))

end Sys2Proof.Machine
end

