-- ==== Sys2Proof/Machine/Dispatch.lean ====
section
/-! DEFINITION. exec: one arm per step of the opcode table, each a direct call of that step's meaning. -/

namespace Sys2Proof.Machine

def exec (i : Instr) (s : State) : Host.Outcome State Fault Refusal :=
  match i with
  | .nop => Sys2Proof.Machine.execNop s
  | .j f => Sys2Proof.Machine.execJ f s
  | .jl f => Sys2Proof.Machine.execJl f s
  | .jr f => Sys2Proof.Machine.execJr f s
  | .jlr f => Sys2Proof.Machine.execJlr f s
  | .beq f => Sys2Proof.Machine.execBeq f s
  | .bne f => Sys2Proof.Machine.execBne f s
  | .blt f => Sys2Proof.Machine.execBlt f s
  | .bge f => Sys2Proof.Machine.execBge f s
  | .bltn f => Sys2Proof.Machine.execBltn f s
  | .bgen f => Sys2Proof.Machine.execBgen f s
  | .bp f => Sys2Proof.Machine.execBp f s
  | .bnp f => Sys2Proof.Machine.execBnp f s
  | .bvany f => Sys2Proof.Machine.execBvany f s
  | .bvall f => Sys2Proof.Machine.execBvall f s
  | .loop f => Sys2Proof.Machine.execLoop f s
  | .add f => Sys2Proof.Machine.execAdd f s
  | .sub f => Sys2Proof.Machine.execSub f s
  | .mul f => Sys2Proof.Machine.execMul f s
  | .mulh f => Sys2Proof.Machine.execMulh f s
  | .mulhn f => Sys2Proof.Machine.execMulhn f s
  | .div f => Sys2Proof.Machine.execDiv f s
  | .divn f => Sys2Proof.Machine.execDivn f s
  | .rem f => Sys2Proof.Machine.execRem f s
  | .remn f => Sys2Proof.Machine.execRemn f s
  | .andR f => Sys2Proof.Machine.execAndR f s
  | .orR f => Sys2Proof.Machine.execOrR f s
  | .xorR f => Sys2Proof.Machine.execXorR f s
  | .shl f => Sys2Proof.Machine.execShl f s
  | .shr f => Sys2Proof.Machine.execShr f s
  | .sra f => Sys2Proof.Machine.execSra f s
  | .slt f => Sys2Proof.Machine.execSlt f s
  | .addi f => Sys2Proof.Machine.execAddi f s
  | .andi f => Sys2Proof.Machine.execAndi f s
  | .ori f => Sys2Proof.Machine.execOri f s
  | .xori f => Sys2Proof.Machine.execXori f s
  | .shli f => Sys2Proof.Machine.execShli f s
  | .shri f => Sys2Proof.Machine.execShri f s
  | .srai f => Sys2Proof.Machine.execSrai f s
  | .slti f => Sys2Proof.Machine.execSlti f s
  | .sltn f => Sys2Proof.Machine.execSltn f s
  | .li f => Sys2Proof.Machine.execLi f s
  | .lih f => Sys2Proof.Machine.execLih f s
  | .adpc f => Sys2Proof.Machine.execAdpc f s
  | .min f => Sys2Proof.Machine.execMin f s
  | .max f => Sys2Proof.Machine.execMax f s
  | .minn f => Sys2Proof.Machine.execMinn f s
  | .maxn f => Sys2Proof.Machine.execMaxn f s
  | .clz f => Sys2Proof.Machine.execClz f s
  | .ctz f => Sys2Proof.Machine.execCtz f s
  | .popc f => Sys2Proof.Machine.execPopc f s
  | .brev f => Sys2Proof.Machine.execBrev f s
  | .bswap f => Sys2Proof.Machine.execBswap f s
  | .extr f => Sys2Proof.Machine.execExtr f s
  | .ins f => Sys2Proof.Machine.execIns f s
  | .rol f => Sys2Proof.Machine.execRol f s
  | .ror f => Sys2Proof.Machine.execRor f s
  | .csel f => Sys2Proof.Machine.execCsel f s
  | .movp f => Sys2Proof.Machine.execMovp f s
  | .pmov f => Sys2Proof.Machine.execPmov f s
  | .pand f => Sys2Proof.Machine.execPand f s
  | .por f => Sys2Proof.Machine.execPor f s
  | .pxor f => Sys2Proof.Machine.execPxor f s
  | .pnot f => Sys2Proof.Machine.execPnot f s
  | .fadd f => Sys2Proof.Machine.execFadd f s
  | .fsub f => Sys2Proof.Machine.execFsub f s
  | .fmul f => Sys2Proof.Machine.execFmul f s
  | .ffma f => Sys2Proof.Machine.execFfma f s
  | .fdiv f => Sys2Proof.Machine.execFdiv f s
  | .fsqrt f => Sys2Proof.Machine.execFsqrt f s
  | .fmin f => Sys2Proof.Machine.execFmin f s
  | .fmax f => Sys2Proof.Machine.execFmax f s
  | .fcmp f => Sys2Proof.Machine.execFcmp f s
  | .fclass f => Sys2Proof.Machine.execFclass f s
  | .fcvti f => Sys2Proof.Machine.execFcvti f s
  | .fcvtf f => Sys2Proof.Machine.execFcvtf f s
  | .fcvtw f => Sys2Proof.Machine.execFcvtw f s
  | .fsgnj f => Sys2Proof.Machine.execFsgnj f s
  | .fsgnjn f => Sys2Proof.Machine.execFsgnjn f s
  | .fsgnjx f => Sys2Proof.Machine.execFsgnjx f s
  | .frint f => Sys2Proof.Machine.execFrint f s
  | .fscal f => Sys2Proof.Machine.execFscal f s
  | .vadd f => Sys2Proof.Machine.execVadd f s
  | .vsub f => Sys2Proof.Machine.execVsub f s
  | .vmul f => Sys2Proof.Machine.execVmul f s
  | .vmulh f => Sys2Proof.Machine.execVmulh f s
  | .vmad f => Sys2Proof.Machine.execVmad f s
  | .vmin f => Sys2Proof.Machine.execVmin f s
  | .vmax f => Sys2Proof.Machine.execVmax f s
  | .vabs f => Sys2Proof.Machine.execVabs f s
  | .vand f => Sys2Proof.Machine.execVand f s
  | .vor f => Sys2Proof.Machine.execVor f s
  | .vxor f => Sys2Proof.Machine.execVxor f s
  | .vshl f => Sys2Proof.Machine.execVshl f s
  | .vshr f => Sys2Proof.Machine.execVshr f s
  | .vsra f => Sys2Proof.Machine.execVsra f s
  | .vadds f => Sys2Proof.Machine.execVadds f s
  | .vsubs f => Sys2Proof.Machine.execVsubs f s
  | .vfadd f => Sys2Proof.Machine.execVfadd f s
  | .vfsub f => Sys2Proof.Machine.execVfsub f s
  | .vfmul f => Sys2Proof.Machine.execVfmul f s
  | .vffma f => Sys2Proof.Machine.execVffma f s
  | .vfdiv f => Sys2Proof.Machine.execVfdiv f s
  | .vfsqrt f => Sys2Proof.Machine.execVfsqrt f s
  | .vfrcp f => Sys2Proof.Machine.execVfrcp f s
  | .vfrsq f => Sys2Proof.Machine.execVfrsq f s
  | .vfexp2 f => Sys2Proof.Machine.execVfexp2 f s
  | .vflog2 f => Sys2Proof.Machine.execVflog2 f s
  | .vfmin f => Sys2Proof.Machine.execVfmin f s
  | .vfmax f => Sys2Proof.Machine.execVfmax f s
  | .vfabs f => Sys2Proof.Machine.execVfabs f s
  | .vfneg f => Sys2Proof.Machine.execVfneg f s
  | .vfrint f => Sys2Proof.Machine.execVfrint f s
  | .vfclamp f => Sys2Proof.Machine.execVfclamp f s
  | .vcmp f => Sys2Proof.Machine.execVcmp f s
  | .vfcmp f => Sys2Proof.Machine.execVfcmp f s
  | .vsel f => Sys2Proof.Machine.execVsel f s
  | .vcvt f => Sys2Proof.Machine.execVcvt f s
  | .vcvtq f => Sys2Proof.Machine.execVcvtq f s
  | .vcvtx f => Sys2Proof.Machine.execVcvtx f s
  | .vpack f => Sys2Proof.Machine.execVpack f s
  | .vunpk f => Sys2Proof.Machine.execVunpk f s
  | .vmov f => Sys2Proof.Machine.execVmov f s
  | .viota f => Sys2Proof.Machine.execViota f s
  | .vclz f => Sys2Proof.Machine.execVclz f s
  | .vpopc f => Sys2Proof.Machine.execVpopc f s
  | .vfclass f => Sys2Proof.Machine.execVfclass f s
  | .vsetp f => Sys2Proof.Machine.execVsetp f s
  | .vgetp f => Sys2Proof.Machine.execVgetp f s
  | .vscal f => Sys2Proof.Machine.execVscal f s
  | .vperm f => Sys2Proof.Machine.execVperm f s
  | .vrotl f => Sys2Proof.Machine.execVrotl f s
  | .vslideup f => Sys2Proof.Machine.execVslideup f s
  | .vslidedn f => Sys2Proof.Machine.execVslidedn f s
  | .vredsum f => Sys2Proof.Machine.execVredsum f s
  | .vfredsum f => Sys2Proof.Machine.execVfredsum f s
  | .vredmax f => Sys2Proof.Machine.execVredmax f s
  | .vredmin f => Sys2Proof.Machine.execVredmin f s
  | .vfredmax f => Sys2Proof.Machine.execVfredmax f s
  | .vfredmin f => Sys2Proof.Machine.execVfredmin f s
  | .vscan f => Sys2Proof.Machine.execVscan f s
  | .vfscan f => Sys2Proof.Machine.execVfscan f s
  | .vextr f => Sys2Proof.Machine.execVextr f s
  | .vinsr f => Sys2Proof.Machine.execVinsr f s
  | .vcompr f => Sys2Proof.Machine.execVcompr f s
  | .vexpnd f => Sys2Proof.Machine.execVexpnd f s
  | .ld f => Sys2Proof.Machine.execLd f s
  | .st f => Sys2Proof.Machine.execSt f s
  | .ldv f => Sys2Proof.Machine.execLdv f s
  | .stv f => Sys2Proof.Machine.execStv f s
  | .ldvs f => Sys2Proof.Machine.execLdvs f s
  | .stvs f => Sys2Proof.Machine.execStvs f s
  | .ldvg f => Sys2Proof.Machine.execLdvg f s
  | .stvg f => Sys2Proof.Machine.execStvg f s
  | .ldx f => Sys2Proof.Machine.execLdx f s
  | .xtest f => Sys2Proof.Machine.execXtest f s
  | .erase f => Sys2Proof.Machine.execErase f s
  | .pref f => Sys2Proof.Machine.execPref f s
  | .flush f => Sys2Proof.Machine.execFlush f s
  | .inval f => Sys2Proof.Machine.execInval f s
  | .ldk f => Sys2Proof.Machine.execLdk f s
  | .zero f => Sys2Proof.Machine.execZero f s
  | .amoadd f => Sys2Proof.Machine.execAmoadd f s
  | .amoand f => Sys2Proof.Machine.execAmoand f s
  | .amoor f => Sys2Proof.Machine.execAmoor f s
  | .amoxor f => Sys2Proof.Machine.execAmoxor f s
  | .amomin f => Sys2Proof.Machine.execAmomin f s
  | .amomax f => Sys2Proof.Machine.execAmomax f s
  | .amominn f => Sys2Proof.Machine.execAmominn f s
  | .amomaxn f => Sys2Proof.Machine.execAmomaxn f s
  | .amoswp f => Sys2Proof.Machine.execAmoswp f s
  | .amocas f => Sys2Proof.Machine.execAmocas f s
  | .amofadd f => Sys2Proof.Machine.execAmofadd f s
  | .lr f => Sys2Proof.Machine.execLr f s
  | .sc f => Sys2Proof.Machine.execSc f s
  | .vamoadd f => Sys2Proof.Machine.execVamoadd f s
  | .vamofadd f => Sys2Proof.Machine.execVamofadd f s
  | .fence f => Sys2Proof.Machine.execFence f s
  | .spawn f => Sys2Proof.Machine.execSpawn f s
  | .send f => Sys2Proof.Machine.execSend f s
  | .sendr f => Sys2Proof.Machine.execSendr f s
  | .sendrGate f => Sys2Proof.Machine.execSendrGate f s
  | .gate f => Sys2Proof.Machine.execGate f s
  | .endTask => Sys2Proof.Machine.execEndTask s
  | .yield f => Sys2Proof.Machine.execYield f s
  | .yieldCycles f => Sys2Proof.Machine.execYieldCycles f s
  | .yieldWatch f => Sys2Proof.Machine.execYieldWatch f s
  | .yieldPhase f => Sys2Proof.Machine.execYieldPhase f s
  | .waitc f => Sys2Proof.Machine.execWaitc f s
  | .bara f => Sys2Proof.Machine.execBara f s
  | .baraAlloc f => Sys2Proof.Machine.execBaraAlloc f s
  | .baraFree f => Sys2Proof.Machine.execBaraFree f s
  | .barw f => Sys2Proof.Machine.execBarw f s
  | .bart f => Sys2Proof.Machine.execBart f s
  | .enq f => Sys2Proof.Machine.execEnq f s
  | .enqt f => Sys2Proof.Machine.execEnqt f s
  | .qseq f => Sys2Proof.Machine.execQseq f s
  | .qseqErr f => Sys2Proof.Machine.execQseqErr f s
  | .ident f => Sys2Proof.Machine.execIdent f s
  | .clock f => Sys2Proof.Machine.execClock f s
  | .rng f => Sys2Proof.Machine.execRng f s
  | .trap f => Sys2Proof.Machine.execTrap f s
  | .csrr f => Sys2Proof.Machine.execCsrr f s
  | .csrw f => Sys2Proof.Machine.execCsrw f s
  | .csrs f => Sys2Proof.Machine.execCsrs f s
  | .csrc f => Sys2Proof.Machine.execCsrc f s
  | .tlbinv f => Sys2Proof.Machine.execTlbinv f s
  | .fencei f => Sys2Proof.Machine.execFencei f s
  | .resumeTask f => Sys2Proof.Machine.execResumeTask f s
  | .resumeCmd f => Sys2Proof.Machine.execResumeCmd f s
  | .abortTask f => Sys2Proof.Machine.execAbortTask f s
  | .abortCmd f => Sys2Proof.Machine.execAbortCmd f s
  | .pooladd f => Sys2Proof.Machine.execPooladd f s
  | .tidw f => Sys2Proof.Machine.execTidw f s
  | .tidr f => Sys2Proof.Machine.execTidr f s
  | .tidamx f => Sys2Proof.Machine.execTidamx f s
  | .scrub f => Sys2Proof.Machine.execScrub f s
  | .domset f => Sys2Proof.Machine.execDomset f s
  | .bkpt f => Sys2Proof.Machine.execBkpt f s
  | .copy c => Sys2Proof.Machine.execCopy c s
  | .copy2 c => Sys2Proof.Machine.execCopy2 c s
  | .fill c => Sys2Proof.Machine.execFill c s
  | .accum c => Sys2Proof.Machine.execAccum c s
  | .accumOrdered c => Sys2Proof.Machine.execAccumOrdered c s
  | .xcopy mirror c => Sys2Proof.Machine.execXcopy mirror c s
  | .mma c => Sys2Proof.Machine.execMma c s
  | .mlda c => Sys2Proof.Machine.execMlda c s
  | .msta c => Sys2Proof.Machine.execMsta c s
  | .mzero c => Sys2Proof.Machine.execMzero c s
  | .msave c => Sys2Proof.Machine.execMsave c s
  | .mrstr c => Sys2Proof.Machine.execMrstr c s
  | .gather c => Sys2Proof.Machine.execGather c s
  | .scatter c => Sys2Proof.Machine.execScatter c s
  | .scatterAdd c => Sys2Proof.Machine.execScatterAdd c s
  | .gsum c => Sys2Proof.Machine.execGsum c s
  | .dispatch c => Sys2Proof.Machine.execDispatch c s
  | .signal h => Sys2Proof.Machine.execSignal h s
  | .commandCompletion g q pos => Sys2Proof.Machine.execCommandCompletion g q pos s
  | .accumContribution n => Sys2Proof.Machine.execAccumContribution n s
  | .accumStagingRetry n => Sys2Proof.Machine.execAccumStagingRetry n s
  | .l1FillResponse n => Sys2Proof.Machine.execL1FillResponse n s
  | .homeFillRequest n => Sys2Proof.Machine.execHomeFillRequest n s
  | .hbmRead n => Sys2Proof.Machine.execHbmRead n s
  | .registration n => Sys2Proof.Machine.execRegistration n s
  | .registrationAck n => Sys2Proof.Machine.execRegistrationAck n s
  | .recall n => Sys2Proof.Machine.execRecall n s
  | .writeBack n => Sys2Proof.Machine.execWriteBack n s
  | .deregistration n => Sys2Proof.Machine.execDeregistration n s
  | .forwardedRead n => Sys2Proof.Machine.execForwardedRead n s
  | .rds n => Sys2Proof.Machine.execRds n s
  | .rdown n => Sys2Proof.Machine.execRdown n s
  | .rdna n => Sys2Proof.Machine.execRdna n s
  | .snoopForward n => Sys2Proof.Machine.execSnoopForward n s
  | .invalidation n => Sys2Proof.Machine.execInvalidation n s
  | .visitorEviction d n => Sys2Proof.Machine.execVisitorEviction d n s
  | .pageMigration d va newPa => Sys2Proof.Machine.execPageMigration d va newPa s
  | .pullAttemptTimeout n => Sys2Proof.Machine.execPullAttemptTimeout n s
  | .pullComplete n => Sys2Proof.Machine.execPullComplete n s
  | .placementSlot d => Sys2Proof.Machine.execPlacementSlot d s
  | .teamRecordDelivery d n => Sys2Proof.Machine.execTeamRecordDelivery d n s
  | .slotStart g j => Sys2Proof.Machine.execSlotStart g j s
  | .stealRequest n => Sys2Proof.Machine.execStealRequest n s
  | .stealAnswer n => Sys2Proof.Machine.execStealAnswer n s
  | .stealRoundWait g => Sys2Proof.Machine.execStealRoundWait g s
  | .sliceRoundStart g => Sys2Proof.Machine.execSliceRoundStart g s
  | .sliceClose g e => Sys2Proof.Machine.execSliceClose g e s
  | .sliceDeferredOpen g e => Sys2Proof.Machine.execSliceDeferredOpen g e s
  | .budgetExpiry g j => Sys2Proof.Machine.execBudgetExpiry g j s
  | .egressWindow g => Sys2Proof.Machine.execEgressWindow g s
  | .wakeCycles n => Sys2Proof.Machine.execWakeCycles n s
  | .watchReread n => Sys2Proof.Machine.execWatchReread n s
  | .networkAcceptance g n => Sys2Proof.Machine.execNetworkAcceptance g n s
  | .messageArrival a => Sys2Proof.Machine.execMessageArrival a s
  | .waystationReload g d vn => Sys2Proof.Machine.execWaystationReload g d vn s
  | .waystationRetry g d vn => Sys2Proof.Machine.execWaystationRetry g d vn s
  | .fabricMessageRefusal g n => Sys2Proof.Machine.execFabricMessageRefusal g n s
  | .supervisorRecordRelease g n => Sys2Proof.Machine.execSupervisorRecordRelease g n s
  | .descriptorPacket node off ws => Sys2Proof.Machine.execDescriptorPacket node off ws s
  | .referencePacket node off w => Sys2Proof.Machine.execReferencePacket node off w s
  | .launchAcceptance a => Sys2Proof.Machine.execLaunchAcceptance a s
  | .teamRetirement l team => Sys2Proof.Machine.execTeamRetirement l team s
  | .remoteAcknowledgement n => Sys2Proof.Machine.execRemoteAcknowledgement n s
  | .launchCompletion l => Sys2Proof.Machine.execLaunchCompletion l s
  | .edgeFailure e => Sys2Proof.Machine.execEdgeFailure e s
  | .deadLetter d => Sys2Proof.Machine.execDeadLetter d s
  | .frameFreedProceed g j => Sys2Proof.Machine.execFrameFreedProceed g j s
  | .framePoolRetry g j => Sys2Proof.Machine.execFramePoolRetry g j s
  | .faultRecordWrite d => Sys2Proof.Machine.execFaultRecordWrite d s
  | .faultQueueRetry d => Sys2Proof.Machine.execFaultQueueRetry d s
  | .drain g e => Sys2Proof.Machine.execDrain g e s
  | .framepoolWrite d size w => Sys2Proof.Machine.execFramepoolWrite d size w s
  | .l1ctlWball g => Sys2Proof.Machine.execL1ctlWball g s
  | .sfctl1Force d => Sys2Proof.Machine.execSfctl1Force d s
  | .evselWrite g n w => Sys2Proof.Machine.execEvselWrite g n w s
  | .evcWrite g n w => Sys2Proof.Machine.execEvcWrite g n w s
  | .hostAccess node off r => Sys2Proof.Machine.execHostAccess node off r s
  | .hostSnoop pa own => Sys2Proof.Machine.execHostSnoop pa own s
  | .deviceFlush w => Sys2Proof.Machine.execDeviceFlush w s
  | .coldStart failed => Sys2Proof.Machine.execColdStart failed s
  | .warmStart c => Sys2Proof.Machine.execWarmStart c s
  | .lqctlWrite node d q w => Sys2Proof.Machine.execLqctlWrite node d q w s
  | .vfOffsetWrite vf time w => Sys2Proof.Machine.execVfOffsetWrite vf time w s
  | .nodeTableWrite n e => Sys2Proof.Machine.execNodeTableWrite n e s
  | .managementRegisterWrite off w => Sys2Proof.Machine.execManagementRegisterWrite off w s
  | .powerThrottle up => Sys2Proof.Machine.execPowerThrottle up s
  | .voltageReplan vdom steps => Sys2Proof.Machine.execVoltageReplan vdom steps s
  | .voltageStep vdom => Sys2Proof.Machine.execVoltageStep vdom s
  | .attestationReport vf nonce => Sys2Proof.Machine.execAttestationReport vf nonce s
  | .debugUnlock signed => Sys2Proof.Machine.execDebugUnlock signed s
  | .softError e => Sys2Proof.Machine.execSoftError e s
  | .reservationTableEviction n => Sys2Proof.Machine.execReservationTableEviction n s
  | .coherencePointResponse n => Sys2Proof.Machine.execCoherencePointResponse n s
  | .podBarrierArrival b passed => Sys2Proof.Machine.execPodBarrierArrival b passed s
  | .firmwareHalt => Sys2Proof.Machine.execFirmwareHalt s
  | .diePowerGating d => Sys2Proof.Machine.execDiePowerGating d s

end Sys2Proof.Machine
end

