-- ==== Sys2Proof/Machine/Moves.lean ====
section
/-! DEFINITION. Who moves and how: the fetch of an instruction, the issue of a slot, the work of an engine, the passing of time, and
the move taken where the agenda names none (R65, R66, R79, R143, R302, R331, R367; log 1, log 4, log 6). -/

namespace Sys2Proof.Machine

/-! ## Fetch (R79, R143) -/

/-- What comes of a fetch. -/
inductive FetchRes where
  | word (w : Word)
  | trap (t : Trap)
  /-- It waits for a pull, or for a store of its bytes (R365, R143). -/
  | waits
  deriving DecidableEq, Repr

/-- The instruction word at a place, read at its home as a load reads it; poison is a trap (R143, R180). -/
def State.wordOfPlace (s : State) (g : CoreId) (d : Dom) (va : VA) (l : Loc) : State × Except TrapCode Word :=
  match l with
  | .mem pa _ _ => (s, if s.poisonedAt pa 8 then .error .poison else .ok (s.cohWord pa))
  | .tile idx _ off =>
    match s.tileRef g d idx va.toNat with
    | (s1, .ok r) =>
      (s1, if s1.tilePresent r && s1.poisonedAt (s1.tilePa r + off) 8 then .error .poison else .ok (wordOf (s1.tileRead r off 8)))
    | (s1, .error _) => (s1, .error .access)
  | .scratch _ | .unplaced => (s, .error .access)

/-- The word that a core holds fetched at an address may be executed once more until FENCEI (R143; log 6). -/
def Core.heldWord (c : Core) (d : Dom) (pc : VA) (new : Word) (now : Nat) : Word :=
  match c.fetched.find? (fun e => e.dom == d && e.va == pc) with
  | none => new
  | some e => if e.word ≠ new && Config.useHeld now then e.word else new

/-- A core holds a word fetched. -/
def Core.putFetched (c : Core) (d : Dom) (pc : VA) (w : Word) : Core :=
  { c with fetched := ⟨d, pc, w⟩ :: c.fetched.filter (fun e => !(e.dom == d && e.va == pc)) }

/-- The activation has stored to bytes of an instruction, and the store is not performed: the fetch, which reads as a load of the slot
does, waits for it (R143, R207). -/
def Core.fetchWaits (c : Core) (act : Nat) (d : Dom) (pc : VA) (l : Loc) : Bool :=
  c.pend.any (fun p => p.act == act && p.isStore &&
    (placesMeet p.dom p.places d [(l, 8)] || p.heldExts.any (fun x => decide (x.1 < pc.toNat + 8) && decide (pc.toNat < x.1 + x.2))))

/-- The fetch of the instruction at a slot's PC (R79). -/
def State.fetch (s : State) (g : CoreId) (i : SlotId) : State × FetchRes :=
  let sl := s.slot g i
  let bad := fun (c : TrapCode) => FetchRes.trap ⟨c, sl.pc.setWidth 64, 0⟩
  if inScratch sl.pc.toNat then (s, bad .access)
  else
    match s.place g sl.dom .fetch sl.isU (some (g, i, sl.task.act)) sl.pc with
    | (s1, .pulling _) => (s1, .waits)
    | (s1, .bad c) => (s1, bad c)
    | (s1, .ok l) =>
      if (s1.core g).fetchWaits sl.task.act sl.dom sl.pc l then (s1, .waits)
      else
      match s1.wordOfPlace g sl.dom sl.pc l with
      | (s2, .error c) => (s2, bad c)
      | (s2, .ok w) =>
        let x := (s2.core g).heldWord sl.dom sl.pc w s2.now
        (s2.modCore g (fun c => c.putFetched sl.dom sl.pc x), .word x)

/-! ## Issue -/

/-- The outcome with its next state changed. -/
def andThen (o : Host.Outcome State Fault Refusal) (f : State → State) : Host.Outcome State Fault Refusal :=
  match o with
  | .next s => .next (f s)
  | .fault e => .fault e
  | .refused r => .refused r

/-- The pipe of an instruction, by its opcode row: 0 the A pipe, 1 the B pipe (R65). -/
def pipeOf (w : Word) : Fin 2 :=
  let row := (w.extractLsb' 60 4).toNat
  if 1 ≤ row ∧ row ≤ 8 then 0 else 1

/-- The event of an instruction that issues on the A pipe or the B pipe (R372). -/
def pipeEvent (w : Word) : BitVec 16 := if pipeOf w = 0 then 2 else 3

/-- The registers of a control transfer, which alone may leave its slot as it was. -/
def branchUses (e : Instr) : List RegName :=
  match e with
  | .j f | .jl f | .jr f | .jlr f | .beq f | .bne f | .blt f | .bge f | .bltn f | .bgen f | .bp f | .bnp f | .bvany f | .bvall f | .loop f =>
    bRegs f
  | _ => []

/-- The word is a control transfer whose registers are there: it issues, be it a jump to itself (R65). -/
def State.transfers (s : State) (g : CoreId) (i : SlotId) (w : Word) : Bool :=
  w.extractLsb' 60 4 == 0 && (match decode w with
    | .ok e => !(s.core g).awaits i (branchUses e)
    | .error _ => false)

/-- The slot has moved on between two states: its instruction has issued. A jump to itself has too. -/
def issued (a b : State) (g : CoreId) (i : SlotId) (w : Word) : Bool :=
  let x := a.slot g i
  let y := b.slot g i
  x.pc != y.pc || x.status != y.status || x.task.act != y.task.act || a.transfers g i w

/-- An instruction that has issued is counted (R372). -/
def State.countIssue (s0 : State) (g : CoreId) (i : SlotId) (w : Word) (s : State) : State :=
  if issued s0 s g i w then s.tally g (some (s0.slot g i).dom) (pipeEvent w) 1 else s

/-- A fetched word is decoded and executed; a word that is no instruction raises ILLEGAL (R93). -/
def State.runWord (s : State) (g : CoreId) (i : SlotId) (w : Word) : Host.Outcome State Fault Refusal :=
  match decode w with
  | .ok e => andThen (exec e s) (s.countIssue g i w)
  | .error _ => .next (s.countIssue g i w (raise s g i (trapOf .illegal)))

/-! ### The choice of a pipe (R65, R66) -/

/-- A slot has an instruction for the pipe, and it would issue now (R65). -/
def State.pipeReady (s : State) (g : CoreId) (p : Fin 2) (i : SlotId) : Bool :=
  (s.slot g i).status == .running &&
    match ({ s with agent := .slot g i } : State).fetch g i with
    | (s1, .word w) =>
      pipeOf w == p &&
        (match s1.runWord g i w with
          | .next t => issued s1 t g i w
          | _ => true)
    | _ => false

/-- The rank of a priority class in the order of R66: system, high, normal. -/
def prioRank (tr : TaskRec) : Fin 3 := if tr.prio = 2 then 0 else if tr.prio = 1 then 1 else 2

/-- The domain of a class that issues: the one at the position while it is ready and has deficit, else the next that is ready, whose
deficit grows by WEIGHT + 1; a domain found unready loses its deficit. The fuel passes over every entry twice. -/
def Pipe.seek (c : Fin 3) (ready : PartId → Bool) (weight : PartId → Nat) : Nat → Pipe → Option (Pipe × PartId)
  | 0, _ => none
  | n + 1, p =>
    let e := p.pos[c]
    if ready e && p.deficit[c][e] ≠ 0 then
      some ({ p with deficit := p.deficit.set c (p.deficit[c].set e (p.deficit[c][e] - 1)) }, e)
    else
      let f : PartId := e + 1
      let d := p.deficit[c].set e (if ready e then p.deficit[c][e] else 0)
      let d1 := d.set f (if ready f then d[f] + weight f + 1 else 0)
      Pipe.seek c ready weight n { p with deficit := p.deficit.set c d1, pos := p.pos.set c f }

/-- The slot of a domain that issues: the first ready one after the last that issued. -/
def Pipe.slot (p : Pipe) (c : Fin 3) (e : PartId) (ready : SlotId → Bool) : Option SlotId :=
  ((List.range 16).map (fun k => p.last[c][e] + 1 + Fin.ofNat 16 k)).find? ready

/-- A slot has issued for its class and entry. -/
def Pipe.noteLast (p : Pipe) (c : Fin 3) (e : PartId) (i : SlotId) : Pipe :=
  { p with last := p.last.set c (p.last[c].set e i) }

/-- The choice of a pipe among its ready slots, with the pipe as it leaves it. -/
def State.pipeChoice (s : State) (g : CoreId) (p : Fin 2) (ready : List SlotId) : Option (Pipe × SlotId) :=
  let c := s.core g
  let has := fun (k : Fin 3) (e : PartId) (i : SlotId) =>
    ready.contains i && prioRank (s.slot g i).task.tr == k && c.entryOf (s.slot g i).dom == some e
  match (List.finRange 3).find? (fun k => ready.any (fun i => prioRank (s.slot g i).task.tr == k)) with
  | none => none
  | some k =>
    match c.pipes[p].seek k (fun e => ready.any (has k e)) (fun e => c.part[e].weight) 8 with
    | none => none
    | some (q, e) => (q.slot k e (has k e)).map (fun i => (q.noteLast k e i, i))

/-- The slots ready for a pipe, one of which is known to be. -/
def State.readySlots (s : State) (g : CoreId) (p : Fin 2) (i : SlotId) : List SlotId :=
  (List.finRange 16).filter (fun j => j == i || s.pipeReady g p j)

/-- The pipe after its choice, if that falls on the slot. A slot whose domain has no entry, which no drain leaves, is not held up. -/
def State.pipeTurn (s : State) (g : CoreId) (i : SlotId) (w : Word) : Option Pipe :=
  if ((s.core g).entryOf (s.slot g i).dom).isNone then some (s.core g).pipes[pipeOf w]
  else
    match s.pipeChoice g (pipeOf w) (s.readySlots g (pipeOf w) i) with
    | some (q, j) => if j = i then some q else none
    | none => none

/-- A pipe of a core, replaced. -/
def State.setPipe (s : State) (g : CoreId) (p : Fin 2) (q : Pipe) : State :=
  s.modCore g (fun c => { c with pipes := c.pipes.set p q })

/-- The instruction of a slot issues where its pipe chooses the slot; where it chooses another, the slot waits (R66). An instruction that
does not issue yet has no part in the choice. -/
def State.pipeIssue (s : State) (g : CoreId) (i : SlotId) (w : Word) : Host.Outcome State Fault Refusal :=
  match s.runWord g i w with
  | .next t =>
    if issued s t g i w then
      match s.pipeTurn g i w with
      | some q => .next (t.setPipe g (pipeOf w) q)
      | none => .next s
    else .next t
  | .fault f => .fault f
  | .refused r => .refused r

/-- An aborted record that waits for spill room is offered to its deque again (R313). -/
def State.returnAgain (s : State) (g : CoreId) (i : SlotId) (barred : Bool) : State :=
  let tr := (s.slot g i).task.tr
  match (s.core g).entryOf tr.dom with
  | none => s.leaveSlot g i .free
  | some e =>
    match s.pushTop g e ⟨tr, barred, false⟩ with
    | (s1, true) => s1.leaveSlot g i .free
    | (s1, false) => s1

/-- The turn of a slot: its running task's next instruction, or what the slot waits for tried again. -/
def State.issueSlot (s0 : State) (g : CoreId) (i : SlotId) : Host.Outcome State Fault Refusal :=
  let s : State := { s0 with agent := .slot g i }
  if !(s.die g.die).powered then .next s
  else
    if s.overBudget g i then .next (raise s g i ⟨.budget, 0, 0⟩)
    else
    match (s.slot g i).status with
    | .running =>
        match s.fetch g i with
        | (s1, .word w) => s1.pipeIssue g i w
        | (s1, .trap t) => .next (raiseAt s1 g i t (s.slot g i).pc 0)
        | (s1, .waits) => .next s1
    | .frameWait w at_ told => .next (if at_ ≤ s.cycle || (s.dom (s.slot g i).dom).fpFree ≠ 0 then s.retryHold g i w told else s)
    | .ending => exec .endTask s
    | .barWait r ph => .next (if (s.bar r).passed ph then s.barGo g i else s)
    | .returnWait barred => .next (s.returnAgain g i barred)
    | _ => .next s

/-- The turn of a tile command at its engine. -/
def State.workCmd (s0 : State) (g : CoreId) (q : QueueId) (pos : Fin 32) : Host.Outcome State Fault Refusal :=
  let s : State := { s0 with agent := .cmd g q pos }
  match (s.core g).cmdAt q pos with
  | none => .next s
  | some m =>
    match decodeTcw m.tcw with
    | .ok c => exec c s
    | .error _ => .next s

/-- The turn of a tile command in which it moves at most n bytes at once, in whole elements (R305; log 80). -/
def State.pieceCmd (s : State) (g : CoreId) (q : QueueId) (pos : Fin 32) (n : Nat) : Host.Outcome State Fault Refusal :=
  andThen (({ s with piece := n } : State).workCmd g q pos) (fun t => { t with piece := 0 })

/-- The instruction is a device event. -/
def isEvent (e : Instr) : Bool := encode e == .event

/-- The turn of a slot in which the accesses that it issues to scratch and tiles are performed later (R211, R380; log 48). -/
def State.deferSlot (s : State) (g : CoreId) (i : SlotId) : Host.Outcome State Fault Refusal :=
  andThen (({ s with later := true } : State).issueSlot g i) (fun t => { t with later := false })

/-- A move of a device that is not READY: a step of the start under way. DESIGN CHOICE: a halted or failed device, in which nothing runs until
its next start, stops (R367, R368; log 61). -/
def State.unready (s : State) : Host.Outcome State Fault Refusal :=
  if s.starting.isSome then .next s.startStep else .fault .deviceHalted

/-- One move. Nothing but an event, or its start, happens to a device that is not READY (R367). -/
def State.doMove (s : State) (m : Move) : Host.Outcome State Fault Refusal :=
  match m with
  | .event e => if isEvent e then exec e s else .next s
  | .issue g i => if s.dev.phase = 0x10 then s.issueSlot g i else s.unready
  | .defer g i => if s.dev.phase = 0x10 then s.deferSlot g i else s.unready
  | .work g q pos => if s.dev.phase = 0x10 then s.workCmd g q pos else s.unready
  | .piece g q pos n => if s.dev.phase = 0x10 then s.pieceCmd g q pos n else s.unready

/-- A host or peer may store to a byte of its own memory by itself while no die holds a grain of it; else a snoop comes first (R206,
R224, R308; log 59). -/
def State.outsideFree (s : State) (pa : Nat) : Bool :=
  isFabric pa && !s.dies.toList.any (fun d => d.visitors.any (fun v => (⟨v.pa, v.data.length⟩ : Run).has pa))

/-- What hosts and peers store in their own memory: each byte is one store event. -/
def State.outside (s : State) (l : List (Nat × Byte)) : State :=
  l.foldl (fun s x =>
    if s.outsideFree x.1 then ({ s with fabric := cellWrite Config.fabricByte s.fabric x.1 x.2 } : State).storeEvent none 0 (.mem x.1 0 0) 1
    else s) s

/-- A slice's request queue is full (R253). -/
def queueFull (q : List (CoreId × Run × Bool)) : Bool := decide (32 ≤ (q.filter (fun x => x.2.2)).length)

/-- Slices with a full queue count the cycles that pass (R373). -/
def Die.countFull (n : Nat) (d : Die) : Die :=
  if d.sliceQ.any queueFull then
    { d with sliceCtr := Vector.ofFn (fun h =>
        if queueFull d.sliceQ[h] then d.sliceCtr[h].set 1 (d.sliceCtr[h][1] + BitVec.ofNat 64 n) else d.sliceCtr[h]) }
  else d

/-- Time passes with a step, and hosts and peers may store in their own memory, which changes that memory, reservations and watches alone
(R98, R373; log 4, log 59). -/
def State.tick (s : State) : State :=
  let o := s.outside (Config.outside s.now)
  { s with
    cycle := s.cycle + Config.cyclesOf s.now
    time := s.time + Config.nanosOf s.now
    dies := s.dies.map (Die.countFull (Config.cyclesOf s.now))
    fabric := o.fabric
    resv := o.resv
    watches := o.watches
    conts := o.conts
    now := s.now + 1 }

/-! ## The move where the agenda names none (log 1) -/

/-- What the n-th coherence message brings about, if it can be acted on now. -/
def State.msgStep (s : State) (n : Nat) : Option State :=
  match s.net[n]? with
  | none => none
  | some m =>
    match m with
    | .fillReq .. => s.homeFill n
    | .hbmRead .. => s.hbmArrive n
    | .farRead .. => s.hbmArrive n
    | .fwdRead .. => s.forwarded n
    | .fillResp .. => s.fillArrive n
    | .reg .. => s.register' n
    | .regAck .. => s.regAcked n
    | .recall .. => s.recalled n
    | .writeBack .. => s.wroteBack n
    | .dereg .. => s.deregistered n
    | .rds .. => s.serveRds n
    | .rdown .. => s.serveRdown n
    | .rdna .. => s.serveRdna n
    | .snoop .. => s.snooped n
    | .inval .. => s.invalidated n
    | .cp .. => s.pointAnswer n
    | .through .. => s.pointAnswer n
    | .posted .. => s.remoteAck n

/-- The first of n places to which an event applies. -/
def firstOf (n : Nat) (f : Nat → Option State) : Option State := (List.range n).findSome? f

/-- An event of a core: a completed command, a message that leaves, a slot that starts, an L1 that is emptied. -/
def State.coreStep (s : State) (g : CoreId) : Option State :=
  let c := s.core g
  let cmds := (List.finRange 4).findSome? (fun q => c.queues[q].findSome? (fun m => s.completeCmd g q m.pos))
  cmds.or ((firstOf c.sendBuf.length (s.accept g)).or ((firstOf c.outside.length (s.releaseOutside g)).or
    (((List.finRange 16).findSome? (s.slotStart g)).or (s.wball g))))

/-- An event of a die: a delivery, or a placement that places something. -/
def State.dieStep (s : State) (d : DieId) : Option State :=
  let x := s.die d
  (firstOf x.deliveries.length (s.deliver d)).or
    (if x.stopped || x.launches.isEmpty then none
     else
      let s1 := s.placeGo d (x.turns.take 8)
      if (s1.die d).launches = x.launches then none else some s1)

/-- A team whose tasks are all over retires. -/
def State.retireOne (s : State) : Option State :=
  firstOf s.launches.length (fun n =>
    match s.launches[n]? with
    | some l => l.ended.findSome? (fun e => s.teamRetire n e.1)
    | none => none)

/-- The front end's next source is served (R280). -/
def State.acceptNext (s : State) : Option State :=
  match ((List.range 1792).map (fun k => (s.fePtr + 1 + k) % 1792)).find? (fun n => s.sourceReady (sourceOf n)) with
  | some n => s.acceptLaunch (sourceOf n)
  | none => none

/-- A slice event of a core that is due, or a drain that can go on. -/
def State.coreDue (s : State) (g : CoreId) : Option State :=
  (s.sliceRound g).or (((List.finRange 4).findSome? (s.sliceClose g)).or (((List.finRange 4).findSome? (s.sliceOpen g)).or
    ((List.finRange 4).findSome? (fun e => s.drain g e stAborted))))

/-- An event whose time has come: a slice's, a drain's, a wake's, a launch's. -/
def State.dueEvent (s : State) : Option State :=
  ((List.finRange 768).findSome? s.coreDue).or ((firstOf s.conts.length s.wakeCycle).or
    ((firstOf s.watches.length s.reread).or (s.acceptNext.or s.refreeDue)))

/-- An event that waits to take place: under way in the networks first, then on the agent's core, then elsewhere. -/
def State.autoEvent (s : State) (g : CoreId) : Option State :=
  (firstOf s.net.length s.msgStep).or (s.migrateOn.or ((s.coreStep g).or ((firstOf s.contribs.length s.contribution).or
    ((firstOf s.transit.length s.arrive).or (((List.finRange 6).findSome? s.dieStep).or
      (s.retireOne.or (firstOf s.launches.length s.completeLaunch)))))))

/-- A command of a core's engines that is ready, or that starts. -/
def Core.readyCmd (c : Core) : Option (QueueId × Fin 32) :=
  (List.finRange 4).findSome? (fun q =>
    (c.queues[q].find? (fun m => c.cmdReady q m || (m.st == .waiting && c.cmdStarts q m))).map (fun m => (q, m.pos)))

/-- A slot has something to do in its turn. -/
def Slot.busy (sl : Slot) : Bool :=
  match sl.status with
  | .running => true
  | .ending => true
  | .barWait .. => true
  | .frameWait .. => true
  | .returnWait _ => true
  | _ => false

/-- The next busy slot of a core after a given one, the given one last. -/
def Core.nextSlot (c : Core) (i : SlotId) : Option SlotId :=
  ((List.range 16).map (fun k => (Fin.ofNat 16 (i.val + k + 1) : SlotId))).find? (fun j => c.slots[j].busy)

/-- The core and slot of the agent. -/
def Agent.place (a : Agent) : CoreId × SlotId :=
  match a with
  | .slot g i => (g, i)
  | .cmd g _ _ => (g, 0)

/-- The turn of a core's slots or engines: an engine after a slot, a slot after an engine. -/
def State.coreTurn (s : State) (g : CoreId) (i : SlotId) : Option Move :=
  let c := s.core g
  let slot := (c.nextSlot i).map (fun k => Move.issue g k)
  let eng := c.readyCmd.map (fun x => Move.work g x.1 x.2)
  match s.agent with
  | .slot .. => eng.or slot
  | .cmd .. => slot.or eng

/-- The turn of the first core with something to do. -/
def State.pick (s : State) : Option Move := (List.finRange 768).findSome? (fun h => s.coreTurn h 15)

/-- The move where the agenda is empty: an event that waits, the turn of the agent's core, an event of another core, its turn, and
where nothing has anything to do an event whose time has come. -/
def State.autoMove (s : State) : Host.Outcome State Fault Refusal :=
  let p := s.agent.place
  if s.dev.phase ≠ 0x10 then s.unready
  else
    match s.autoEvent p.1 with
    | some t => .next t
    | none =>
      match s.coreTurn p.1 p.2 with
      | some m => s.doMove m
      | none =>
        match (List.finRange 768).findSome? s.coreStep with
        | some t => .next t
        | none =>
          match s.pick with
          | some m => s.doMove m
          | none => .next (s.dueEvent.getD s)

/-! ## Placing an instruction where the next step fetches it -/

/-- The VA, and the PA, of the instruction. -/
def probeVa : VA := 0x1000

/-- A leaf of 8 GiB at PA 0: U, A, D, X, W, R and V (R192). -/
def probePte : Word := 0x203F

/-- Core 0, slot 0 runs a task of domain 0 at the probe's address, its entry RUN with every bank, slot, way and accumulator. -/
def State.probeTask (s : State) : State :=
  s.modCore 0 (fun c =>
    let e : Part := { c.part[(0 : PartId)] with a := 0xFFFFFFFFFFFFFF00, b := 0x7FFF00000000FFFF }
    let c1 : Core := { c with part := c.part.set 0 e }
    let sl := c1.slots[(0 : SlotId)]
    c1.setSlot 0 { sl with
      pc := probeVa
      dom := 0
      status := .running
      task := { sl.task with act := s.nextAct, since := s.cycle, budget := 0xFFFFF } })

/-- The domain's table maps the low 8 GiB, and the word stands at the probe's address. -/
def State.probeWord (s : State) (w : Word) : State :=
  ((({ s with nextAct := s.nextAct + 1 } : State).modDom 0 (fun x => { x with ptroot := 0 })).homeWrite 0 (bytesOf 8 probePte.toNat)).homeWrite
    probeVa.toNat (bytesOf 8 w.toNat)

/-- The queue that takes a tile command's operation (R100). -/
def probeQueue (op : BitVec 6) : QueueId := if op.toNat < 16 then 0 else if op.toNat < 32 then 1 else if op.toNat < 48 then 2 else if op.toNat < 63 then 3 else 0

/-- A tile command at the head of its queue. -/
def State.probeCmd (s : State) (t : Tcw) : State :=
  s.modCore 0 (fun c => c.setQueue (probeQueue t.op)
    [⟨0, t, 0, 0, 2, 1, 0, 0, none, 0, none, s.nextAct, 0, 0, [], [], .waiting, 0, 0, 0, [], []⟩])

/-- The device is READY, its start over. -/
def State.started (s : State) : State := { s with dev := { s.dev with phase := 0x10 }, starting := none }

/-- s with an instruction word, or a tile command's four words, placed where the next step takes it. -/
def State.placed (s : State) (nbits w : Nat) : State :=
  if nbits ≤ 64 then { (s.started.probeTask.probeWord (BitVec.ofNat 64 w)) with agenda := [.issue 0 0] }
  else
    let t : Tcw := ⟨BitVec.ofNat 64 w, BitVec.ofNat 64 (w / 2 ^ 64), BitVec.ofNat 64 (w / 2 ^ 128), BitVec.ofNat 64 (w / 2 ^ 192)⟩
    { (s.started.probeTask.probeCmd t) with agenda := [.work 0 (probeQueue t.op) 0] }

end Sys2Proof.Machine
end

