-- ==== Sys2Proof/Machine/Step.lean ====
section
/-! DEFINITION. One step of the device: the move at the head of the agenda, or the default one, and the passing of time. -/

namespace Sys2Proof.Machine

/-- One step (log 1). -/
def step (s : State) : Host.Outcome State Fault Refusal :=
  match s.agenda with
  | m :: rest => andThen (({ s with agenda := rest } : State).doMove m) State.tick
  | [] => andThen s.autoMove State.tick

/-- s with an instruction stored where step takes its next one, and all that this needs. -/
def State.withFetchWord (s : State) (nbits w : Nat) : State := s.placed nbits w

end Sys2Proof.Machine
end

