-- ==== Sys2Proof/Safety.lean ====
section
/-! DEFINITION. The terms of claims: the canonical form of every memory, when an instruction has its turn, what it may leave
changed, and when an access to memory is clear to be performed. -/

namespace Sys2Proof

open Sys2Proof.Machine

/-! ## The whole machine -/

/-- Device memory, the fabric bytes and every core's scratch are in canonical form. -/
def memoriesOk (s : State) : Prop :=
  Memory.wf zeroByte s.mem = true ∧ Memory.wf Config.fabricByte s.fabric = true ∧
    ∀ g : CoreId, Memory.wf zeroByte (s.core g).scratch = true

/-- The device is READY (R367). -/
def running (s : State) : Prop := s.dev.phase = 0x10

/-! ## An instruction's turn (R65) -/

/-- Slot i of core g executes: it runs a task, and no register that the instruction names is awaited by a load in flight. -/
def turn (s : State) (g : CoreId) (i : SlotId) (uses : List RegName) : Prop :=
  s.agent = .slot g i ∧ (s.slot g i).status = .running ∧ (s.core g).awaits i uses = false

/-- The slot's registers are those of `sl`, and its PC is that of the next instruction. -/
def after (s : State) (g : CoreId) (i : SlotId) (sl : Slot) : State := s.setSlot g i { sl with pc := (s.slot g i).pc + 8 }

/-- The slot's registers are those of `sl`, and its PC is a target. -/
def jumped (s : State) (g : CoreId) (i : SlotId) (sl : Slot) (t : VA) : State := s.setSlot g i { sl with pc := t }

/-- A slot under a guard P[0]: changed where it is 1 (R87). -/
def guarded (sl : Slot) (pn : Bool) (pred : BitVec 3) (new : Slot) : Slot := if sl.guard pn pred then new else sl

/-- A tile command has its turn at its engine: it stands in queue q of core g and is ready, and the turn is not only for its start. -/
def engineTurn (s : State) (g : CoreId) (q : QueueId) (m : Cmd) : Prop :=
  s.agent = .cmd g q m.pos ∧ (s.core g).cmdAt q m.pos = some m ∧ (s.core g).cmdReady q m = true ∧
    (m.st != .waiting || s.piece == 0) = true

/-! ## Frames -/

/-- The register that a destination specifier names (R80). -/
def dstRegs (d : Spec) : List RegName :=
  match d with
  | .x n => [.x n]
  | .v n => [.v n]
  | .c n => [.p (n.setWidth 3)]
  | .lit _ => []

/-- Every register but the listed ones reads as before; FFLAGS only gains bits, and none unless `flags`; what the slot holds beside its
registers and its PC is the same. -/
def keepsRegs (a b : Slot) (writes : List RegName) (flags : Bool) : Prop :=
  (∀ n, RegName.x n ∉ writes → b.readX n = a.readX n) ∧ (∀ n, RegName.v n ∉ writes → b.readV n = a.readV n) ∧
  (∀ n, RegName.k n ∉ writes → b.readK n = a.readK n) ∧ (∀ n, RegName.p n ∉ writes → b.readP n = a.readP n) ∧
  a.fflags &&& b.fflags = a.fflags ∧ (flags = false → b.fflags = a.fflags) ∧
  b.cnt = a.cnt ∧ b.frm = a.frm ∧ b.dom = a.dom ∧ b.status = a.status ∧ b.task = a.task ∧ b.q = a.q ∧ b.eng = a.eng ∧
  b.acq = a.acq ∧ b.tile = a.tile

/-- Nothing outside slot i of core g has changed: no other slot, no CSR, no accumulator, no queue, and no byte of memory or scratch. -/
def onlySlot (s t : State) (g : CoreId) (i : SlotId) : Prop :=
  t.setSlot g i (s.slot g i) = s ∧ (∀ pa, t.homeByte pa = s.homeByte pa) ∧ (∀ pa, t.cohByte pa = s.cohByte pa) ∧
  ∀ h, (t.core h).scratch = (s.core h).scratch ∧ (t.core h).acc = (s.core h).acc

/-- Every byte of memory, every scratch byte of the other cores, and those of core g that `out` names, read as before. -/
def onlyScratch (s t : State) (g : CoreId) (out : Nat → Prop) : Prop :=
  (∀ pa, t.homeByte pa = s.homeByte pa) ∧ (∀ h, h ≠ g → (t.core h).scratch = (s.core h).scratch) ∧
  ∀ off, out off → cellRead zeroByte (t.core g).scratch off = cellRead zeroByte (s.core g).scratch off

/-! ## Accesses to memory (R94, R213, R226, R262) -/

/-- Nothing holds an access back: the slot is at its beginning; no recorded range, no earlier acquire, no full counter, no unperformed
earlier access of a release. -/
def unheld (s : State) (g : CoreId) (i : SlotId) (m : MemOp) : Prop :=
  (s.slot g i).tile = none ∧
  (s.core g).sbHolds (s.slot g i).dom (m.isStore || m.acc.writes) m.exts = false ∧
  (s.core g).acquiring (s.slot g i).task.act = false ∧
  (if m.isStore then (s.slot g i).cnt.st == 63 else (s.slot g i).cnt.ld == 63) = false ∧
  (m.ord.isRel && m.scope.wide && !(s.core g).released (s.slot g i).task.act (s.slot g i).acq (m.scope == .pod)) = false

/-- What an acquire wider than its slot leaves in the slot: what other slots of the core have issued may happen before what it does next
(R215). -/
def marked (s : State) (g : CoreId) (i : SlotId) (ord : MOrd) (sc : Scope) : State :=
  if ord.isAcq && sc != .slot then s.modSlot g i (fun x => { x with acq := s.nextPend }) else s

/-- The failures of an access that are found before translation: its own, reserved PTEs, misaligned elements, and scratch banks of
others (R94). -/
def earlyBad (s : State) (g : CoreId) (i : SlotId) (m : MemOp) : List BadSpot :=
  m.bad ++ s.reservedPtes g (s.slot g i).dom m.spots ++ misaligned m.size m.spots ++ (s.core g).badBanks (s.slot g i).dom m.spots

/-- Every check passes: translation ends in state t with the places es of the elements (R94, R190). -/
def placed (s : State) (g : CoreId) (i : SlotId) (m : MemOp) (t : State) (es : List Elem) : Prop :=
  worst (earlyBad s g i m) = none ∧
  s.placeAll g (s.slot g i).dom m.acc (s.slot g i).isU (some (g, i, (s.slot g i).task.act)) m.spots = (t, es, [], false)

/-- No earlier access that waits for its pages has a byte in common with an access whose elements lie at es, found in state t (R207, R208);
`late` says whether it is performed later than it issues, at its scratch and tile places (R211, R380). -/
def unmet (s t : State) (g : CoreId) (i : SlotId) (m : MemOp) (es : List Elem) (late : Bool) : Prop :=
  (es = [] ∨ (s.core g).heldMeets (s.slot g i).dom m.whole m.exts (m.places es) = false) ∧
  t.lateness g (s.slot g i).dom m es = some late

/-- An access may be performed, by its instruction or later. -/
def clearAs (s : State) (g : CoreId) (i : SlotId) (m : MemOp) (t : State) (es : List Elem) (late : Bool) : Prop :=
  unheld s g i m ∧ placed s g i m t es ∧ unmet s t g i m es late

/-- An access may be performed by its instruction. -/
def clear (s : State) (g : CoreId) (i : SlotId) (m : MemOp) (t : State) (es : List Elem) : Prop := clearAs s g i m t es false

/-- An access may be performed in flight: it is put off, or all of its elements lie in memory. -/
def flying (s : State) (g : CoreId) (i : SlotId) (m : MemOp) (t : State) (es : List Elem) : Prop :=
  clearAs s g i m t es true ∨ (clear s g i m t es ∧ ∀ e ∈ es, ∃ pa mt gr, e.loc = .mem pa mt gr)

/-- Every element of an access lies in a scratch bank of the slot's domain. -/
def inBanks (s : State) (g : CoreId) (i : SlotId) (l : List Spot) : Prop :=
  ∀ x ∈ l, inScratch x.va.toNat = true ∧ (s.core g).bankOk (s.slot g i).dom x.va.toNat = true

/-- The elements of a list of spots in scratch. -/
def scratchElems (l : List Spot) : List Elem := l.map (fun x => ⟨x.j, x.va, .scratch (x.va.toNat - scratchBase)⟩)

/-- An access to scratch may be performed by its instruction: every check passes, and its elements all lie in banks of the domain. -/
def clearHere (s : State) (g : CoreId) (i : SlotId) (m : MemOp) : Prop :=
  unheld s g i m ∧ worst (earlyBad s g i m) = none ∧ inBanks s g i m.spots ∧ unmet s s g i m (scratchElems m.spots) false

/-! ## Instructions of one shape -/

/-- Scalar integer arithmetic (R129), bits (R131) and MOVP (R132): format R, guarded by P[0]. -/
def integerForms : List (FmtR → Instr) :=
  [.add, .sub, .mul, .mulh, .mulhn, .div, .divn, .rem, .remn, .andR, .orR, .xorR, .shl, .shr, .sra, .slt, .sltn, .min, .max, .minn,
    .maxn, .clz, .ctz, .popc, .brev, .bswap, .extr, .ins, .rol, .ror, .csel, .movp]

/-- The format-I members of row 0x2 (R130), guarded by P[0]. -/
def immediateForms : List (FmtI → Instr) := [.addi, .andi, .ori, .xori, .shli, .shri, .srai, .slti, .li, .lih, .adpc]

/-- Scalar floating point (R133, R134), guarded by P[0]. -/
def floatForms : List (FmtR → Instr) :=
  [.fadd, .fsub, .fmul, .ffma, .fdiv, .fsqrt, .fmin, .fmax, .fcmp, .fclass, .fcvti, .fcvtf, .fcvtw, .fsgnj, .fsgnjn, .fsgnjx, .frint,
    .fscal]

/-- The predicate instructions that read every bit of the mask (R132). -/
def predicateForms : List (FmtR → Instr) := [.pmov, .pand, .por, .pxor, .pnot]

/-- Vector instructions without a float operation (R146, R149 to R151, R153, R157 to R161): they touch no flag. -/
def vectorForms : List (FmtR → Instr) :=
  [.vadd, .vsub, .vmul, .vmulh, .vmad, .vmin, .vmax, .vabs, .vand, .vor, .vxor, .vshl, .vshr, .vsra, .vadds, .vsubs, .vfabs, .vfneg,
    .vcmp, .vsel, .vpack, .vunpk, .vmov, .viota, .vclz, .vpopc, .vfclass, .vsetp, .vgetp, .vperm, .vrotl, .vslideup, .vslidedn,
    .vredsum, .vredmax, .vredmin, .vscan, .vextr, .vinsr, .vcompr, .vexpnd]

/-- Vector instructions with a float operation (R147 to R149, R152, R158, R159): they may set flags. -/
def vectorFloatForms : List (FmtR → Instr) :=
  [.vfadd, .vfsub, .vfmul, .vffma, .vfdiv, .vfsqrt, .vfrcp, .vfrsq, .vfexp2, .vflog2, .vfmin, .vfmax, .vfrint, .vfclamp, .vfcmp, .vcvt,
    .vscal, .vfredsum, .vfredmax, .vfredmin, .vfscan]

/-- Guarded transfers of control (R128) that may write no register but the one in SA or SB. -/
def branchForms : List (FmtB → Instr) :=
  [.j, .jl, .jr, .jlr, .beq, .bne, .blt, .bge, .bltn, .bgen, .loop]

/-- Transfers that read every bit of the mask and have no guard (R128). -/
def maskBranchForms : List (FmtB → Instr) := [.bp, .bnp, .bvany, .bvall]

/-- Memory instructions guarded by P[0] (R229). -/
def guardedMemoryForms : List (FmtM → Instr) :=
  [.ld, .st, .xtest, .erase, .pref, .flush, .inval, .zero, .amoadd, .amoand, .amoor, .amoxor, .amomin, .amomax, .amominn, .amomaxn,
    .amoswp, .amocas, .amofadd, .lr, .sc]

end Sys2Proof
end

