-- ==== Sys2Proof/Certificates/Slice0/Obligations.lean ====
section
/-! DEFINITION. The statements for the provers: what the decoder, the step and every instruction, tile command and device event do. -/

open Sys2Proof Sys2Proof.Machine

/-! ## Encodings -/

/-- Decode after encode: every well-formed instruction that has a word is what its word decodes to, every operand at every value
(R79 to R86, R91, R93).
The same of every tile command and its four words (R99, R100, R267 to R281). -/
def Obligations.EncodingsDecode : Prop :=
  (∀ (e : Instr) (w : Word), e.WellFormed → encode e = .word w → decode w = .ok e) ∧
  (∀ (e : Instr) (t : Tcw), e.WellFormed → encode e = .tile t → decodeTcw t = .ok e)

/-- Encode after decode: a word that decodes is the word of a well-formed instruction, so no bit of it is dropped, and two words never
decode to one instruction (R93).
A word with an operation code above the last one, or with a specifier whose kind is 01 and whose index bit 5 is set, is no instruction
(R80, R91, R93). -/
def Obligations.WordsReadWhole : Prop :=
  (∀ (w : Word) (e : Instr), decode w = .ok e → e.WellFormed ∧ encode e = .word w) ∧
  ((∀ w : Word, 0xD0 ≤ (opOf w).toNat → decode w = .error .reservedOpcode) ∧
  (∀ w : Word, 0x10 ≤ (opOf w).toNat → (opOf w).toNat < 0x90 → w.extractLsb' 53 3 = 3 → ∀ e, decode w ≠ .ok e))

/-- Words that the spec writes out decode to what it says they are (R92, R128 to R131, R141, R143, R227, R246, R254, R333). -/
def Obligations.SpecWordsDecode : Prop :=
  decode 0 = .ok .nop ∧
  decode 0x0545C00000000004 = .ok (.beq ⟨.x 5, .lit 0, false, 0, 4⟩) ∧
  decode 0x0F470000FFFFFFFB = .ok (.loop ⟨.x 7, .none, false, 0, 0xFFFFFFFB⟩) ∧
  decode 0x1543444500020000 = .ok (.div ⟨.x 3, .x 4, .x 5, .none, false, 0, .s32, .rne, false, 0⟩) ∧
  decode 0x354849CC00070007 = .ok (.extr ⟨.x 8, .x 9, .lit 12, .none, false, 0, .n64, .rne, false, 7⟩) ∧
  decode 0x3C82000000060023 = .ok (.pand ⟨.c 2, .none, .none, .none, false, 0, .n32, .rne, false, 0x23⟩) ∧
  decode 0x9048450000300000 = .ok (.ld ⟨.x 8, .x 5, .none, false, 0, .plain, .slot, 3, 0, 0⟩) ∧
  decode 0xAB47450006300000 = .ok (.lr ⟨.x 7, .x 5, .none, false, 0, .acq, .pkg, 3, 0, 0⟩) ∧
  decode 0xAC4845490A300000 = .ok (.sc ⟨.x 8, .x 5, .x 9, false, 0, .rel, .pkg, 3, 0, 0⟩) ∧
  decode 0xB000435000000005 = .ok (.spawn ⟨.none, .x 3, .x 16, .none, 5⟩) ∧
  decode 0xB400000000000000 = .ok .endTask ∧
  decode 0xBF4A4B8C00000000 = .ok (.rng ⟨.x 10, .x 11, .c 12, .none, 0⟩)

/-! ## The step -/

/-- A step at a slot whose fetched word decodes runs the decoded instruction, counts its issue where it has issued, and lets time pass;
a word that does not decode raises ILLEGAL (R66, R79, R93). An instruction that issues takes its turn at its pipe; where the pipe chooses
another slot, the slot waits (R66). The turn may be one in which accesses to scratch and tiles are put off (the agenda's choice, logs 1 and 48).
A step that a tile command or a device event is due for runs it: the command that its words decode to, as its engine; the event on the
state as it stands (R254, R367). A command may have a turn that moves only the next n bytes, in whole elements (R305; the number is the agenda's, logs
1 and 80). -/
def Obligations.StepRunsInstructions : Prop :=
  (∀ (late : Bool) (s s1 : State) (g : CoreId) (i : SlotId) (rest : List Move) (w : Word),
    s.agenda = (if late then .defer g i else .issue g i) :: rest → running s → (s.die g.die).powered = true → (s.slot g i).status = .running →
    let base : State := { s with agenda := rest, later := late || s.later, agent := .slot g i }
    base.overBudget g i = false → base.fetch g i = (s1, .word w) →
    let ends := fun (t : State) => ({ t with later := t.later && !late } : State).tick
    let goes := fun (t : State) =>
      (issued s1 t g i w = false → step s = .next (ends t)) ∧
      (issued s1 t g i w = true →
        (∀ q, s1.pipeTurn g i w = some q → step s = .next (ends (t.setPipe g (pipeOf w) q))) ∧
        (s1.pipeTurn g i w = none → step s = .next (ends s1)))
    (∀ e, decode w = .ok e → (∀ t, exec e s1 = .next t → goes (s1.countIssue g i w t)) ∧
      (∀ x, exec e s1 = .fault x → step s = .fault x) ∧ (∀ x, exec e s1 = .refused x → step s = .refused x)) ∧
    (∀ r, decode w = .error r → goes (s1.countIssue g i w (raise s1 g i (trapOf .illegal))))) ∧
  ((∀ (s : State) (g : CoreId) (q : QueueId) (pos : Fin 32) (rest : List Move) (m : Cmd) (e : Instr),
    s.agenda = .work g q pos :: rest → running s → (s.core g).cmdAt q pos = some m → decodeTcw m.tcw = .ok e →
    step s = andThen (exec e { s with agenda := rest, agent := .cmd g q pos }) State.tick) ∧
  (∀ (s : State) (g : CoreId) (q : QueueId) (pos : Fin 32) (n : Nat) (rest : List Move) (m : Cmd) (e : Instr),
    s.agenda = .piece g q pos n :: rest → running s → (s.core g).cmdAt q pos = some m → decodeTcw m.tcw = .ok e →
    step s = andThen (exec e { s with agenda := rest, piece := n, agent := .cmd g q pos }) (fun t => ({ t with piece := 0 } : State).tick)) ∧
  (∀ (s : State) (rest : List Move) (e : Instr), s.agenda = .event e :: rest → encode e = .event →
    step s = andThen (exec e { s with agenda := rest }) State.tick))

/-- The choice of a pipe among its ready slots, whose domains have entries (R66): a slot of the highest class that has one; of the domain
at the pipe's position while it is ready and has deficit left, which falls by one; else of the next ready domain in entry order, whose deficit
grows by WEIGHT + 1, and falls by one for this issue; a domain found with no ready slot has its deficit set to 0; and in the domain and class
the first ready slot after the last that issued, which it then is.
Where any slot is ready, one is chosen. -/
def Obligations.PipeSelection : Prop :=
  ∀ (s : State) (g : CoreId) (p : Fin 2) (ready : List SlotId),
    let c := s.core g
    let class_ := fun (i : SlotId) => prioRank (s.slot g i).task.tr
    (∀ i ∈ ready, (c.entryOf (s.slot g i).dom).isSome = true) →
    (ready ≠ [] → ∃ q i, s.pipeChoice g p ready = some (q, i)) ∧
    ∀ q i, s.pipeChoice g p ready = some (q, i) → i ∈ ready ∧ (∀ j ∈ ready, class_ i ≤ class_ j) ∧
      ∀ e, c.entryOf (s.slot g i).dom = some e →
        let k := class_ i
        let mine := fun (j : SlotId) (f : PartId) => j ∈ ready ∧ class_ j = k ∧ c.entryOf (s.slot g j).dom = some f
        let at_ := c.pipes[p].pos[k]
        q.pos[k] = e ∧ q.last[k][e] = i ∧
        ((∃ j, mine j at_) → c.pipes[p].deficit[k][at_] ≠ 0 →
          e = at_ ∧ q.deficit[k][e] + 1 = c.pipes[p].deficit[k][e]) ∧
        ((∀ j, ¬ mine j at_) ∨ c.pipes[p].deficit[k][at_] = 0 →
          q.deficit[k][e] + 1 = (if e = at_ then 0 else c.pipes[p].deficit[k][e]) + (c.part[e].weight + 1) ∧
          (∀ f j, mine j f → (e - (at_ + 1)).val ≤ (f - (at_ + 1)).val) ∧
          (∀ f, (f - (at_ + 1)).val < (e - (at_ + 1)).val → q.deficit[k][f] = 0) ∧ ((∀ j, ¬ mine j at_) → q.deficit[k][at_] = 0)) ∧
        ∀ j, mine j e → (i - (c.pipes[p].last[k][e] + 1)).val ≤ (j - (c.pipes[p].last[k][e] + 1)).val

/-- The word fetched at a PC in memory is the doubleword at its place at the coherence point, unless the core still holds another word
fetched there before; that word is then used or not, as a free value says (R79, R143; that a fetch reads at the coherence point is the model's
reading, log 43, and the free choice the model's, log 6).
A fetch of bytes that the slot itself has stored to waits until that store is performed: R143 speaks of FENCEI and of a load of the slot alone, and
that a fetch waits as such a load does is the model's reading (log 43). -/
def Obligations.FetchReadsMemory : Prop :=
  ∀ (s s1 : State) (g : CoreId) (i : SlotId) (pa : Nat) (mt : BitVec 2) (gr : Nat),
    inScratch (s.slot g i).pc.toNat = false →
    s.place g (s.slot g i).dom .fetch (s.slot g i).isU (some (g, i, (s.slot g i).task.act)) (s.slot g i).pc = (s1, .ok (.mem pa mt gr)) →
    let waits := (s1.core g).fetchWaits (s.slot g i).task.act (s.slot g i).dom (s.slot g i).pc (.mem pa mt gr)
    (waits = true → s.fetch g i = (s1, .waits)) ∧
    (waits = false → s1.poisonedAt pa 8 = false → ∃ w, s.fetch g i = (s1.modCore g (fun c => c.putFetched (s.slot g i).dom (s.slot g i).pc w), .word w) ∧
      (w = s1.cohWord pa ∨ ∃ e ∈ (s1.core g).fetched, e.dom = (s.slot g i).dom ∧ e.va = (s.slot g i).pc ∧ w = e.word))

/-- In a device that is not READY no slot issues, no engine works, and nothing moves by itself but the start under way, one step of it at a
time (R367, R368). Where no start is under way, in a halted or failed device, the machine stops with the fault deviceHalted: that it stops so is
the model's choice (log 61), no rule of the spec.
An instruction one of whose registers is awaited by a load in flight does not issue, and nothing changes (R65). -/
def Obligations.IssueHeldBack : Prop :=
  (∀ s : State, s.dev.phase ≠ 0x10 →
    (∀ (m : Move) (rest : List Move), (∀ e, m ≠ .event e) → s.agenda = m :: rest →
      (s.starting = none → step s = .fault .deviceHalted) ∧
      (s.starting ≠ none → step s = .next ({ s with agenda := rest } : State).startStep.tick)) ∧
    (s.agenda = [] → (s.starting = none → step s = .fault .deviceHalted) ∧ (s.starting ≠ none → step s = .next s.startStep.tick))) ∧
  (∀ (s : State) (g : CoreId) (i : SlotId), s.agent = .slot g i →
    (∀ c ∈ integerForms ++ floatForms ++ predicateForms ++ vectorForms ++ vectorFloatForms, ∀ f : FmtR,
      (s.core g).awaits i (rRegs f) = true → exec (c f) s = .next s) ∧
    (∀ c ∈ immediateForms, ∀ f : FmtI, (s.core g).awaits i (.p f.pred :: specRegs [f.dst, f.sa]) = true → exec (c f) s = .next s) ∧
    (∀ c ∈ branchForms ++ maskBranchForms, ∀ f : FmtB, (s.core g).awaits i (bRegs f) = true → exec (c f) s = .next s) ∧
    (∀ c ∈ guardedMemoryForms, ∀ f : FmtM, (s.core g).awaits i (mRegs f) = true → exec (c f) s = .next s))

/-! ## Guards and frames -/

/-- The effective mask, and what an instruction whose guard P[0] is 0 does: its PC moves on, and nothing else (R87). -/
def Obligations.GuardedOffDoesNothing : Prop :=
  (∀ (sl : Slot) (p : BitVec 3), sl.mask false p = sl.readP p ∧ sl.mask true p = ~~~ sl.readP p) ∧
  ∀ (s : State) (g : CoreId) (i : SlotId),
    (∀ c ∈ integerForms ++ floatForms, ∀ f : FmtR, turn s g i (rRegs f) → (s.slot g i).guard f.pn f.pred = false →
      exec (c f) s = .next (after s g i (s.slot g i))) ∧
    (∀ c ∈ immediateForms, ∀ f : FmtI, turn s g i (.p f.pred :: specRegs [f.dst, f.sa]) → (s.slot g i).guard f.pn f.pred = false →
      exec (c f) s = .next (after s g i (s.slot g i))) ∧
    (∀ c ∈ branchForms, ∀ f : FmtB, turn s g i (bRegs f) → (s.slot g i).guard f.pn f.pred = false →
      exec (c f) s = .next (after s g i (s.slot g i))) ∧
    (∀ c ∈ guardedMemoryForms, ∀ f : FmtM, turn s g i (mRegs f) → (s.slot g i).guard f.pn f.pred = false →
      exec (c f) s = .next (after s g i (s.slot g i))) ∧
    (∀ f : FmtM, turn s g i (ldkRegs f ++ mRegs f) → (s.slot g i).guard f.pn f.pred = false →
      exec (.ldk f) s = .next (after s g i (s.slot g i)))

/-- The frame of the register instructions: where one answers a next state that is not its trap, every register but its destination reads as
before, no flag changes but by a float operation, which only sets bits, and nothing outside the slot changes, no byte of memory included
(R73, R75, R128 to R134, R144).
The frame of the guarded transfers, where the target of JR and JLR is aligned: only the link of JL and JLR and the count of LOOP are
written (R128). -/
def Obligations.RegisterFrame : Prop :=
  (∀ (s t : State) (g : CoreId) (i : SlotId),
    (∀ c ∈ integerForms ++ predicateForms ++ vectorForms, ∀ f : FmtR, turn s g i (rRegs f) → exec (c f) s = .next t →
      keepsRegs (s.slot g i) (t.slot g i) (dstRegs f.dst) false ∧ onlySlot s t g i) ∧
    (∀ c ∈ floatForms ++ vectorFloatForms, ∀ f : FmtR, turn s g i (rRegs f) → exec (c f) s = .next t →
      keepsRegs (s.slot g i) (t.slot g i) (dstRegs f.dst) true ∧ onlySlot s t g i) ∧
    (∀ c ∈ immediateForms, ∀ f : FmtI, turn s g i (.p f.pred :: specRegs [f.dst, f.sa]) → exec (c f) s = .next t →
      keepsRegs (s.slot g i) (t.slot g i) (dstRegs f.dst) false ∧ onlySlot s t g i) ∧
    (∀ c ∈ maskBranchForms, ∀ f : FmtB, turn s g i (bRegs f) → exec (c f) s = .next t →
      keepsRegs (s.slot g i) (t.slot g i) [] false ∧ onlySlot s t g i)) ∧
  (∀ (s t : State) (g : CoreId) (i : SlotId) (f : FmtB), turn s g i (bRegs f) →
    (∀ c ∈ ([.j, .beq, .bne, .blt, .bge, .bltn, .bgen] : List (FmtB → Instr)), exec (c f) s = .next t →
      keepsRegs (s.slot g i) (t.slot g i) [] false ∧ onlySlot s t g i) ∧
    (∀ c ∈ ([.jl, .loop] : List (FmtB → Instr)), exec (c f) s = .next t →
      keepsRegs (s.slot g i) (t.slot g i) (dstRegs f.sa) false ∧ onlySlot s t g i) ∧
    ((regTarget (s.slot g i) f).toNat % 8 = 0 →
      (exec (.jr f) s = .next t → keepsRegs (s.slot g i) (t.slot g i) [] false ∧ onlySlot s t g i) ∧
      (exec (.jlr f) s = .next t → keepsRegs (s.slot g i) (t.slot g i) (dstRegs f.sb) false ∧ onlySlot s t g i)))

/-! ## Scalar instructions -/

/-- What a scalar instruction reads and writes of an x register narrower than 64 bits: the result is sign-extended for s types and
zero-extended for the others, a scalar source is the low bits, and a vector instruction broadcasts them to every element (R77).
In every state x0 reads 0 as a source of every type and width, and a write to it is discarded: the slot is as it was (R73). -/
def Obligations.NarrowRegisters : Prop :=
  (∀ (sl : Slot) (t : Ty) (w : Word) (j : Nat), sl.readX 0 = 0 ∧ sl.srcW (.x 0) = 0 ∧ sl.src (.x 0) t = 0 ∧ sl.vsrc (.x 0) t j = 0 ∧
    sl.writeX 0 w = sl ∧ sl.wr (.x 0) t w = sl ∧ sl.wrW (.x 0) w = sl) ∧
  ∀ (sl : Slot) (n : BitVec 5) (w : Word), n ≠ 0 →
    (((sl.wr (.x n) .s8 w).readX n = (w.setWidth 8).signExtend 64 ∧ (sl.wr (.x n) .s16 w).readX n = (w.setWidth 16).signExtend 64 ∧
      (sl.wr (.x n) .s32 w).readX n = (w.setWidth 32).signExtend 64 ∧ (sl.wr (.x n) .s64 w).readX n = w) ∧
    ((sl.wr (.x n) .n8 w).readX n = (w.setWidth 8).setWidth 64 ∧ (sl.wr (.x n) .n16 w).readX n = (w.setWidth 16).setWidth 64 ∧
      (sl.wr (.x n) .n32 w).readX n = (w.setWidth 32).setWidth 64 ∧ (sl.wr (.x n) .n64 w).readX n = w) ∧
    ((sl.wr (.x n) .f16 w).readX n = (w.setWidth 16).setWidth 64 ∧ (sl.wr (.x n) .bf16 w).readX n = (w.setWidth 16).setWidth 64 ∧
      (sl.wr (.x n) .f32 w).readX n = (w.setWidth 32).setWidth 64 ∧ (sl.wr (.x n) .f64 w).readX n = w)) ∧
    (∀ t : Ty, (sl.src (.x n) t).toNat = (sl.readX n).toNat % 2 ^ t.width) ∧
    (∀ (t : Ty) (k : BitVec 6), (sl.src (.c k) t).toNat = (sl.readK k).toNat % 2 ^ t.width) ∧
    (∀ (t : Ty) (j : Nat), sl.vsrc (.x n) t j = sl.src (.x n) t) ∧ (∀ (t : Ty) (k : BitVec 6) (j : Nat), sl.vsrc (.c k) t j = sl.src (.c k) t)

/-- An exact result reduced modulo 2^w without SAT, and clamped to the type's range with it (R104, R129). -/
def Obligations.WrapAndClamp : Prop :=
  ∀ (t : Ty) (z : Int), t.isInt = true →
    ((wrapInt t false z).toNat : Int) = z % ((2 ^ t.width : Nat) : Int) ∧
    intOf t (wrapInt t true z) = Max.max (minInt t) (Min.min (maxInt t) z) ∧
    minInt t = (if t.isS then -((2 ^ (t.width - 1) : Nat) : Int) else 0) ∧
    maxInt t = (if t.isS then ((2 ^ (t.width - 1) : Nat) : Int) - 1 else ((2 ^ t.width : Nat) : Int) - 1)

/-- The results of the integer arithmetic of row 0x1 and of MIN, MAX, MINN, MAXN, from the exact result of each (R129). -/
def Obligations.IntegerResults : Prop :=
  ∀ (s : State) (g : CoreId) (i : SlotId) (f : FmtR), turn s g i (rRegs f) →
    let sl := s.slot g i
    let a := intOf f.ty (sl.src f.sa f.ty)
    let b := intOf f.ty (sl.src f.sb f.ty)
    let w : Int := ((2 ^ f.ty.width : Nat) : Int)
    let ovf := f.ty.isS = true ∧ a = -((2 ^ (f.ty.width - 1) : Nat) : Int) ∧ b = -1
    let gives := fun (e : Instr) (z : Int) =>
      exec e s = .next (after s g i (guarded sl f.pn f.pred (sl.wr f.dst f.ty (wrapInt f.ty f.sat z))))
    gives (.add f) (a + b) ∧ gives (.sub f) (a - b) ∧ gives (.mul f) (a * b) ∧ gives (.mulh f) (a * b / w) ∧ gives (.mulhn f) (a * b / w) ∧
    (∀ e ∈ [Instr.div f, Instr.divn f], (b = 0 → gives e (w - 1)) ∧
      (ovf → gives e a) ∧ (b ≠ 0 → ¬ ovf → gives e (a.tdiv b))) ∧
    (∀ e ∈ [Instr.rem f, Instr.remn f], (b = 0 → gives e a) ∧
      (ovf → gives e 0) ∧ (b ≠ 0 → ¬ ovf → gives e (a - b * a.tdiv b))) ∧
    (∀ e ∈ [Instr.min f, Instr.minn f], gives e (Min.min a b)) ∧ (∀ e ∈ [Instr.max f, Instr.maxn f], gives e (Max.max a b))

/-- The results of the bitwise, shift and compare instructions of row 0x1, at every width: the shift count is SB modulo w, a literal count read
as a signed integer; SLT and SLTN write the whole register (R81, R129). -/
def Obligations.BitwiseAndShiftResults : Prop :=
  ∀ (s : State) (g : CoreId) (i : SlotId) (f : FmtR), turn s g i (rRegs f) →
    let sl := s.slot g i
    let a := sl.src f.sa f.ty
    let b := sl.src f.sb f.ty
    let n := (sl.srcCount f.sb f.ty % (f.ty.width : Int)).toNat
    let gives := fun (e : Instr) (r : Word) => exec e s = .next (after s g i (guarded sl f.pn f.pred (sl.wr f.dst f.ty r)))
    gives (.andR f) (lowBits f.ty (a &&& b)) ∧ gives (.orR f) (lowBits f.ty (a ||| b)) ∧ gives (.xorR f) (lowBits f.ty (a ^^^ b)) ∧
    gives (.shl f) (BitVec.ofNat 64 (a.toNat * 2 ^ n % 2 ^ 64 % 2 ^ f.ty.width)) ∧ gives (.shr f) (BitVec.ofNat 64 (a.toNat / 2 ^ n)) ∧
    gives (.sra f) (sraPat f.ty a n) ∧
    (∀ e ∈ [Instr.slt f, Instr.sltn f], exec e s = .next (after s g i (guarded sl f.pn f.pred
      (sl.wrW f.dst (if intOf f.ty a < intOf f.ty b then 1 else 0)))))

/-- The results of the format-I members of row 0x2 on 64 bits (R130). -/
def Obligations.ImmediateResults : Prop :=
  ∀ (s : State) (g : CoreId) (i : SlotId) (f : FmtI), turn s g i (.p f.pred :: specRegs [f.dst, f.sa]) →
    let sl := s.slot g i
    let a := sl.srcW f.sa
    let k : Word := f.imm.signExtend 64
    let gives := fun (e : Instr) (r : Word) => exec e s = .next (after s g i (guarded sl f.pn f.pred (sl.wrW f.dst r)))
    gives (.addi f) (a + k) ∧ gives (.andi f) (a &&& k) ∧ gives (.ori f) (a ||| k) ∧ gives (.xori f) (a ^^^ k) ∧
    gives (.shli f) (a <<< f.imm.toNat) ∧ gives (.shri f) (a >>> f.imm.toNat) ∧ gives (.srai f) (a.sshiftRight f.imm.toNat) ∧
    gives (.slti f) (if a.slt k then 1 else 0) ∧ gives (.li f) k ∧ gives (.lih f) (f.imm ++ (sl.srcW f.dst).setWidth 32) ∧
    gives (.adpc f) ((sl.pc + f.imm.signExtend 48).setWidth 64)

/-- The results of the instructions of row 0x3 that work on the w-bit pattern a of their first source, each told by the bits of its result,
with no reference to how the machine computes it (R131).
CLZ and CTZ write n where n zeros stand above or below the first set bit, w for a pattern of zeros; POPC writes how many bits are set.
BREV, BSWAP, ROL and ROR move each bit of a to one place; EXTR moves a field down and extends it by its sign or by zeros; INS puts the low
bits of a into the destination's own pattern; CSEL chooses by its third source.
MOVP writes the lanes of a predicate to the whole register (R132).
An instruction that is governed off writes nothing, and each completes with the PC at the next instruction. -/
def Obligations.BitResults : Prop :=
  ∀ (s : State) (g : CoreId) (i : SlotId) (f : FmtR), turn s g i (rRegs f) →
    let sl := s.slot g i
    let a := sl.src f.sa f.ty
    let old := sl.src f.dst f.ty
    let w := f.ty.width
    let pos := (sl.srcCount f.sb f.ty % (w : Int)).toNat
    let len := f.imm.toNat % 64 + 1
    let writes := fun (e : Instr) (r : Word) => exec e s = .next (after s g i (guarded sl f.pn f.pred (sl.wr f.dst f.ty r)))
    let bits := fun (e : Instr) (bit : Nat → Bool) => ∃ r : Word, writes e r ∧ ∀ k, k < w → r.getLsbD k = bit k
    (∃ n, n ≤ w ∧ writes (.clz f) (BitVec.ofNat 64 n) ∧
      (∀ k, k < w → w - n ≤ k → a.getLsbD k = false) ∧ (n < w → a.getLsbD (w - 1 - n) = true)) ∧
    (∃ n, n ≤ w ∧ writes (.ctz f) (BitVec.ofNat 64 n) ∧ (∀ k, k < n → a.getLsbD k = false) ∧ (n < w → a.getLsbD n = true)) ∧
    writes (.popc f) (BitVec.ofNat 64 ((List.range w).filter (fun k => a.getLsbD k)).length) ∧
    bits (.brev f) (fun k => a.getLsbD (w - 1 - k)) ∧
    bits (.bswap f) (fun k => a.getLsbD (8 * (w / 8 - 1 - k / 8) + k % 8)) ∧
    bits (.extr f) (fun k => let at_ := if k < len then pos + k else pos + len - 1
      decide (at_ < w) && a.getLsbD at_ && (decide (k < len) || f.ty.isS)) ∧
    bits (.ins f) (fun k => if pos ≤ k ∧ k < pos + len then a.getLsbD (k - pos) else old.getLsbD k) ∧
    bits (.rol f) (fun k => a.getLsbD ((k + w - pos) % w)) ∧ bits (.ror f) (fun k => a.getLsbD ((k + pos) % w)) ∧
    writes (.csel f) (if sl.src f.sc f.ty = 0 then sl.src f.sb f.ty else a) ∧
    exec (.movp f) s = .next (after s g i (guarded sl f.pn f.pred (sl.wrW f.dst ((sl.readP (f.imm.extractLsb' 0 3)).setWidth 64))))

/-- The results of the predicate instructions: all 32 bits, 0 in the lanes of which the mask is 0 (R132). -/
def Obligations.PredicateResults : Prop :=
  ∀ (s : State) (g : CoreId) (i : SlotId) (f : FmtR), turn s g i (rRegs f) →
    let sl := s.slot g i
    let m := sl.mask f.pn f.pred
    let p := sl.readP (f.imm.extractLsb' 0 3)
    let q := sl.readP (f.imm.extractLsb' 3 3)
    let gives := fun (e : Instr) (r : BitVec 32) => exec e s = .next (after s g i (sl.wrP f.dst r))
    gives (.pmov f) (m &&& (sl.src f.sa .n32).setWidth 32) ∧ gives (.pand f) (m &&& (p &&& q)) ∧ gives (.por f) (m &&& (p ||| q)) ∧
    gives (.pxor f) (m &&& (p ^^^ q)) ∧ gives (.pnot f) (m &&& ~~~ p)

/-- RNG writes the function of its two sources and keeps no state: nothing but xD and the PC changes; the spec's worked word is
`rng x10, x11, k12` (R141). -/
def Obligations.RngResult : Prop :=
  (∀ (s : State) (g : CoreId) (i : SlotId) (f : FmtS), turn s g i (specRegs [f.dst, f.sa, f.sb]) →
    let c := (s.slot g i).srcW f.sa
    let key := (s.slot g i).srcW f.sb
    let z0 := (c ^^^ key) + 0x6A09E667F3BCC909
    let z1 := (z0 ^^^ (z0 >>> 31)) * 0xD6E8FEB86659FD93
    let z2 := (z1 ^^^ (z1 >>> 29)) * 0x9FB21C651E98DF25
    exec (.rng f) s = .next (after s g i ((s.slot g i).wr f.dst .n64 (z2 ^^^ (z2 >>> 32))))) ∧
  (∀ (sl : Slot) (n : BitVec 6), sl.srcW (.lit n) = n.signExtend 64) ∧
  decode 0xBF4A4B8C00000000 = .ok (.rng ⟨.x 10, .x 11, .c 12, .none, 0⟩)

/-- NOP, IDENT and CLOCK: the PC moves on; IDENT writes the value of its selector, selector 11 below H traps PRIV; CLOCK writes CYCLE or
TIME as the domain's VF sees it (R128, R139, R140). -/
def Obligations.IdentityAndClock : Prop :=
  ∀ (s : State) (g : CoreId) (i : SlotId),
    (turn s g i [] → exec .nop s = .next (after s g i (s.slot g i))) ∧
    ∀ f : FmtS, turn s g i (specRegs [f.dst]) →
      let sl := s.slot g i
      (f.imm.toNat ≠ 11 ∨ sl.level = 2 → exec (.ident f) s = .next (after s g i (sl.wrW f.dst (s.identity g i sl f.imm.toNat)))) ∧
      (f.imm.toNat = 11 → sl.level ≠ 2 → exec (.ident f) s = .next (raise s g i (trapOf .priv))) ∧
      (f.imm = 0 → exec (.clock f) s = .next (after s g i (sl.wrW f.dst (s.cycleOf sl.dom)))) ∧
      (f.imm ≠ 0 → exec (.clock f) s = .next (after s g i (sl.wrW f.dst (s.timeOf sl.dom))))

/-! ## Control transfer -/

/-- Where the transfers of row 0x0 go and when, and the links and counts they write (R85, R128).
JR and JLR go to the register's low 48 bits plus the byte offset, JLR with its link written after the target is computed; a target that
is not a multiple of 8 raises ALIGN and nothing is written (R128). -/
def Obligations.TransferResults : Prop :=
  (∀ (s : State) (g : CoreId) (i : SlotId) (f : FmtB), turn s g i (bRegs f) →
    let sl := s.slot g i
    let a := sl.srcW f.sa
    let b := sl.srcW f.sb
    let m := sl.mask f.pn f.pred
    let to_ : VA := sl.pc + f.disp.signExtend 48 * 8#48
    let link : Word := (sl.pc + 8).setWidth 64
    let lane := fun (k : Nat) => elemOf (match f.sa with
      | .v n => sl.readV n
      | _ => 0) 4 k
    let goes := fun (e : Instr) (yes : Prop) (sl' : Slot) => (yes → exec e s = .next (jumped s g i sl' to_)) ∧
      (¬ yes → exec e s = .next (after s g i sl))
    let on := m.getLsbD 0 = true
    goes (.j f) on sl ∧ goes (.jl f) on (sl.wrW f.sa link) ∧
    goes (.beq f) (on ∧ a = b) sl ∧ goes (.bne f) (on ∧ a ≠ b) sl ∧
    goes (.blt f) (on ∧ a.toInt < b.toInt) sl ∧ goes (.bge f) (on ∧ b.toInt ≤ a.toInt) sl ∧
    goes (.bltn f) (on ∧ a.toNat < b.toNat) sl ∧ goes (.bgen f) (on ∧ b.toNat ≤ a.toNat) sl ∧
    goes (.bp f) (m ≠ 0) sl ∧ goes (.bnp f) (m = 0) sl ∧
    ((∃ n, f.sa = .v n) → goes (.bvany f) (∃ k, k < 32 ∧ m.getLsbD k = true ∧ lane k ≠ 0) sl ∧
      goes (.bvall f) (∀ k, k < 32 → m.getLsbD k = true → lane k ≠ 0) sl) ∧
    (on → a ≠ 1 → exec (.loop f) s = .next (jumped s g i (sl.wrW f.sa (a - 1)) to_)) ∧
    (on → a = 1 → exec (.loop f) s = .next (after s g i (sl.wrW f.sa 0))) ∧
    (¬ on → exec (.loop f) s = .next (after s g i sl))) ∧
  (∀ (s : State) (g : CoreId) (i : SlotId) (f : FmtB), turn s g i (bRegs f) →
    let sl := s.slot g i
    let to_ : VA := (sl.srcW f.sa).setWidth 48 + f.disp.signExtend 48 * 8#48
    (sl.guard f.pn f.pred = true → to_.toNat % 8 = 0 →
      exec (.jr f) s = .next (jumped s g i sl to_) ∧ exec (.jlr f) s = .next (jumped s g i (sl.wrW f.sb ((sl.pc + 8).setWidth 64)) to_)) ∧
    (sl.guard f.pn f.pred = true → to_.toNat % 8 ≠ 0 → ∀ e ∈ [Instr.jr f, Instr.jlr f],
      exec e s = .next (raise s g i ⟨.align, to_.setWidth 64, 0⟩)) ∧
    (sl.guard f.pn f.pred = false → ∀ e ∈ [Instr.jr f, Instr.jlr f], exec e s = .next (after s g i sl)))

/-! ## Floating point -/

/-- Rounding into a standard type: of the two neighbours of an exact magnitude on the type's grid, the result is the nearer, or the one that the
mode names; a tie goes to the even one; NX tells that the result differs, UF that it differs below the smallest normal (R112, R114, R120).
A pattern that is not a NaN is its own rounding in every mode, with no flag: conversions to the same type are exact (R112, R116).
A result overflows under RNE from half-way between the largest finite value and the next grid value on, under another mode where its neighbour
lies beyond the largest finite value; it then sets OF and NX, and gives the largest finite value of its sign under SAT or a mode that
rounds toward zero for this sign, and infinity otherwise; where it does not overflow OF stays clear (R113). -/
def Obligations.RoundsToNeighbour : Prop :=
  (∀ (t : Ty) (mode : RMode) (neg : Bool) (m : Nat) (e : Int) (r : Nat) (fl : BitVec 5), t.isFloat = true →
    roundMag (stdGrid t) mode false neg m e false = (.idx r, fl) → fl &&& fOF = 0 →
    let y : ℚ := (m : ℚ) * (2 : ℚ) ^ e
    let v := fun k : Nat => (((stdGrid t).val k).1 : ℚ) * (2 : ℚ) ^ ((stdGrid t).val k).2
    let down := v r ≤ y ∧ y < v (r + 1)
    let up := y ≤ v r ∧ ∀ k, k + 1 = r → v k < y
    (mode = .rtz → down) ∧ (mode = .rdn → if neg then up else down) ∧ (mode = .rup → if neg then down else up) ∧
    (mode = .rne → ∀ k, k + 1 = r ∨ k = r + 1 → |y - v r| ≤ |y - v k| ∧ (|y - v r| = |y - v k| → r % 2 = 0)) ∧
    (fl &&& fNX ≠ 0 ↔ v r ≠ y) ∧ (fl &&& fUF ≠ 0 ↔ v r ≠ y ∧ y < (2 : ℚ) ^ (stdGrid t).emin)) ∧
  (∀ (t : Ty) (mode : RMode) (sat : Bool) (b : Word), t.isFloat = true → b.toNat < 2 ^ t.width → (decodeStd t b).isNan = false →
    roundStd t mode sat (decodeStd t b) = (b, 0) ∧ convert t t mode sat b = (b, 0)) ∧
  (∀ (t : Ty) (mode : RMode) (sat neg : Bool) (m : Nat) (e : Int), t.isFloat = true → mode ≠ .frm →
    let y : ℚ := (m : ℚ) * (2 : ℚ) ^ e
    let v := fun k : Nat => (((stdGrid t).val k).1 : ℚ) * (2 : ℚ) ^ ((stdGrid t).val k).2
    let top := (stdGrid t).maxK
    let inward := mode = .rtz ∨ (mode = .rdn ∧ neg = false) ∨ (mode = .rup ∧ neg = true)
    let exceeds := if mode = .rne then (v top + v (top + 1)) / 2 ≤ y else if inward then v (top + 1) ≤ y else v top < y
    (exceeds → roundStd t mode sat (.fin neg m e false) =
      (BitVec.ofNat 64 ((if neg then 2 ^ (t.width - 1) else 0) + if sat = true ∨ inward then top else top + 1), fOF ||| fNX)) ∧
    (¬ exceeds → (roundStd t mode sat (.fin neg m e false)).2 &&& fOF = 0))

/-- The result of scalar float arithmetic is one rounding of the exact value, in the instruction's mode, with the flags of both (R89, R133).
The other results of row 0x4: minimum and maximum number, compares and classes, the conversions, the sign moves and FRINT (R90, R116,
R134). -/
def Obligations.FloatResults : Prop :=
  (∀ (s : State) (g : CoreId) (i : SlotId) (f : FmtR), turn s g i (rRegs f) →
    let sl := s.slot g i
    let mode := sl.modeOf f.mode
    let v := fun (p : Spec) => decodeStd f.ty (sl.src p f.ty)
    let gives := fun (e : Instr) (x : FVal × BitVec 5) =>
      exec e s = .next (after s g i (guarded sl f.pn f.pred ((sl.wr f.dst f.ty (roundStd f.ty mode f.sat x.1).1).orFlags
        ((roundStd f.ty mode f.sat x.1).2 ||| x.2))))
    gives (.fadd f) (addNum mode (v f.sa) (v f.sb)) ∧ gives (.fsub f) (addNum mode (v f.sa) (v f.sb).negate) ∧
    gives (.fmul f) (mulNum (v f.sa) (v f.sb)) ∧ gives (.ffma f) (fmaNum mode (v f.sa) (v f.sb) (v f.sc)) ∧
    gives (.fdiv f) (divNum (v f.sa) (v f.sb)) ∧ gives (.fsqrt f) (sqrtNum (v f.sa)) ∧
    gives (.fscal f) (scalNum (v f.sa) (sl.srcW f.sb).toInt)) ∧
  (∀ (s : State) (g : CoreId) (i : SlotId) (f : FmtR), turn s g i (rRegs f) →
    let sl := s.slot g i
    let mode := sl.modeOf f.mode
    let a := sl.src f.sa f.ty
    let b := sl.src f.sb f.ty
    let x := decodeStd f.ty a
    let y := decodeStd f.ty b
    let top := 2 ^ (f.ty.width - 1)
    let signed := fun (neg : Bool) => BitVec.ofNat 64 (a.toNat % top + if neg then top else 0)
    let c := f.imm.toNat
    let nv := if 2 ≤ c ∧ c ≤ 5 then x.isNan || y.isNan else x.isSig || y.isSig
    let gives := fun (e : Instr) (res : Ty) (r : Word × BitVec 5) =>
      exec e s = .next (after s g i (guarded sl f.pn f.pred ((sl.wr f.dst res r.1).orFlags r.2)))
    gives (.fmin f) f.ty (minNum f.ty false a b) ∧ gives (.fmax f) f.ty (minNum f.ty true a b) ∧
    gives (.fcmp f) .n64 (if floatCond c (cmpNum x y) then 1 else 0, if nv then fNV else 0) ∧ gives (.fclass f) .n64 (classOf f.ty a, 0) ∧
    (∀ e ∈ [Instr.fcvti f, Instr.fcvtf f, Instr.fcvtw f], gives e (resultTy f) (convert f.ty (resultTy f) mode f.sat a)) ∧
    gives (.fsgnj f) f.ty (signed (signBit f.ty b), 0) ∧ gives (.fsgnjn f) f.ty (signed (!signBit f.ty b), 0) ∧
    gives (.fsgnjx f) f.ty (signed (signBit f.ty a != signBit f.ty b), 0) ∧ gives (.frint f) f.ty (frintOf f.ty mode a))

/-- A NaN operand gives the canonical NaN, and NV just where an operand is a signalling NaN; a NaN is signalling where its most significant
trailing bit is 0; minimum and maximum number ignore one NaN (R103, R120, R134).
The special cases of float arithmetic: the sign of an exact zero sum, infinities, zero times infinity, and division by zero
(R120, R133). -/
def Obligations.NanResults : Prop :=
  (∀ (t : Ty) (mode : RMode) (sat : Bool) (a b : Word), t.isFloat = true →
    let x := decodeStd t a
    let y := decodeStd t b
    let nan := fun (r : FVal × BitVec 5) (sig : Bool) => rounded t mode sat r = (canonNan t, if sig then fNV else 0)
    (x.isNan = true → x.isSig = !a.getLsbD ((stdGrid t).prec - 2)) ∧
    (x.isNan = true ∨ y.isNan = true →
      nan (addNum mode x y) (x.isSig || y.isSig) ∧ nan (addNum mode x y.negate) (x.isSig || y.isSig) ∧
      nan (mulNum x y) (x.isSig || y.isSig) ∧ nan (divNum x y) (x.isSig || y.isSig) ∧
      (∀ c, c ≤ 9 → c ≠ 1 → floatCond c (cmpNum x y) = false)) ∧
    (x.isNan = true → nan (sqrtNum x) x.isSig ∧ nan (exp2Num x) x.isSig ∧ nan (log2Num x) x.isSig ∧ nan (rsqNum x) x.isSig ∧
      convert t t mode sat a = (canonNan t, if x.isSig then fNV else 0) ∧ frintOf t mode a = (canonNan t, if x.isSig then fNV else 0) ∧
      (y.isNan = false → minNum t false a b = (b, if x.isSig then fNV else 0) ∧ minNum t true b a = (b, if x.isSig then fNV else 0)) ∧
      ∀ r : Ty, r.isInt = true → convert t r mode sat a = (0, fNV))) ∧
  ((∀ (mode : RMode) (e : Int) (m : Nat) (p q : Bool),
    addNum mode (.fin p 0 e false) (.fin q 0 e false) = (.fin (if p = q then p else mode == .rdn) 0 0 false, 0) ∧
    (m ≠ 0 → addNum mode (.fin p m e false) (.fin (!p) m e false) = (.fin (mode == .rdn) 0 0 false, 0)) ∧
    addNum mode (.inf p) (.inf q) = (if p = q then (.inf p, 0) else (.nan false, fNV)) ∧
    mulNum (.inf p) (.fin q m e false) = (if m = 0 then (.nan false, fNV) else (.inf (p != q), 0)) ∧
    fmaNum mode (.inf p) (.fin q 0 e false) (.nan false) = (.nan false, fNV) ∧
    divNum (.fin p m e false) (.fin q 0 e false) = (if m = 0 then (.nan false, fNV) else (.inf (p != q), fDZ)) ∧
    divNum (.inf p) (.inf q) = (.nan false, fNV) ∧ sqrtNum (.fin true 0 e false) = (.fin true 0 0 false, 0) ∧
    (m ≠ 0 → sqrtNum (.fin true m e false) = (.nan false, fNV)) ∧ log2Num (.fin p 0 e false) = (.inf true, fDZ)))

/-! ## Vectors -/

/-- Elements of a vector that is merged under a mask: a governed-on one is the low bits of its new value, a governed-off one keeps its old bits,
and the elements of a register make up all of it (R74, R75). -/
def Obligations.VectorElements : Prop :=
  ∀ (m : BitVec 32) (sz : Nat) (old : VReg) (f : Nat → Word), sz ∈ [1, 2, 4, 8] →
    (∀ j, j < 128 / sz → (elemOf (vmerge m sz old f) sz j).toNat = if gov m sz j then (f j).toNat % 2 ^ (8 * sz) else (elemOf old sz j).toNat) ∧
    vbuild sz (128 / sz) (elemOf old sz) = old ∧
    (∀ j, j < 128 / sz → gov m sz j = m.getLsbD (if sz = 8 then 2 * j else j * sz / 4))

/-- The results of the integer members of row 0x5, element by element, no flag touched (R144, R146).
The single-element transforms, which touch no flag: sign moves, selection, moves, counts, classes and the spread of a predicate
(R147, R150). -/
def Obligations.VectorIntegerResults : Prop :=
  (∀ (s : State) (g : CoreId) (i : SlotId) (f : FmtR), turn s g i (rRegs f) →
    let sl := s.slot g i
    let t := f.ty
    let bits := fun (p : Spec) (j : Nat) => sl.vsrc p t j
    let int := fun (p : Spec) (j : Nat) => intOf t (sl.vsrc p t j)
    let n := fun (j : Nat) => (sl.vcount f.sb t j % (t.width : Int)).toNat
    let gives := fun (e : Instr) (r : Nat → Word) =>
      exec e s = .next (after s g i (sl.wrV f.dst (vmerge (sl.mask f.pn f.pred) t.size (sl.oldV f.dst) r)))
    let exact := fun (e : Instr) (sat : Bool) (z : Nat → Int) => gives e (fun j => wrapInt t sat (z j))
    exact (.vadd f) false (fun j => int f.sa j + int f.sb j) ∧ exact (.vsub f) false (fun j => int f.sa j - int f.sb j) ∧
    exact (.vmul f) false (fun j => int f.sa j * int f.sb j) ∧
    exact (.vmulh f) false (fun j => int f.sa j * int f.sb j / ((2 ^ t.width : Nat) : Int)) ∧
    exact (.vmad f) false (fun j => int f.sa j * int f.sb j + int f.sc j) ∧
    exact (.vmin f) false (fun j => Min.min (int f.sa j) (int f.sb j)) ∧ exact (.vmax f) false (fun j => Max.max (int f.sa j) (int f.sb j)) ∧
    exact (.vabs f) false (fun j => |int f.sa j|) ∧
    exact (.vadds f) true (fun j => int f.sa j + int f.sb j) ∧ exact (.vsubs f) true (fun j => int f.sa j - int f.sb j) ∧
    exact (.viota f) false (fun j => int f.sa j + (j : Int) * int f.sb j) ∧
    gives (.vand f) (fun j => bits f.sa j &&& bits f.sb j) ∧ gives (.vor f) (fun j => bits f.sa j ||| bits f.sb j) ∧
    gives (.vxor f) (fun j => bits f.sa j ^^^ bits f.sb j) ∧
    gives (.vshl f) (fun j => BitVec.ofNat 64 ((bits f.sa j).toNat * 2 ^ n j % 2 ^ 64 % 2 ^ t.width)) ∧
    gives (.vshr f) (fun j => BitVec.ofNat 64 ((bits f.sa j).toNat / 2 ^ n j)) ∧ gives (.vsra f) (fun j => sraPat t (bits f.sa j) (n j))) ∧
  (∀ (s : State) (g : CoreId) (i : SlotId) (f : FmtR), turn s g i (rRegs f) →
    let sl := s.slot g i
    let t := f.ty
    let a := fun (j : Nat) => sl.vsrc f.sa t j
    let chosen := fun (j : Nat) => gov (sl.readP (f.imm.extractLsb' 0 3)) t.size j
    let gives := fun (e : Instr) (r : Nat → Word) =>
      exec e s = .next (after s g i (sl.wrV f.dst (vmerge (sl.mask f.pn f.pred) t.size (sl.oldV f.dst) r)))
    gives (.vfabs f) (fun j => BitVec.ofNat 64 ((a j).toNat % 2 ^ (t.width - 1))) ∧
    gives (.vfneg f) (fun j => withSign t (a j) (!signBit t (a j))) ∧
    gives (.vsel f) (fun j => if chosen j then a j else sl.vsrc f.sb t j) ∧ gives (.vmov f) a ∧
    gives (.vclz f) (fun j => clzOf t (a j)) ∧ gives (.vpopc f) (fun j => BitVec.ofNat 64 (popCount (a j).toNat t.width)) ∧
    gives (.vfclass f) (fun j => classOf t (a j)) ∧
    gives (.vgetp f) (fun j => if chosen j then BitVec.ofNat 64 (2 ^ t.width - 1) else 0))

/-- The results of the float members of rows 0x6 and 0x7, element by element, with the flags of the governed-on elements (R144, R147,
R148, R150). -/
def Obligations.VectorFloatResults : Prop :=
  ∀ (s : State) (g : CoreId) (i : SlotId) (f : FmtR), turn s g i (rRegs f) →
    let sl := s.slot g i
    let t := f.ty
    let m := sl.mask f.pn f.pred
    let mode := sl.modeOf f.mode
    let bits := fun (p : Spec) (j : Nat) => sl.vsrc p t j
    let v := fun (p : Spec) (j : Nat) => decodeStd t (sl.vsrc p t j)
    let gives := fun (e : Instr) (r : Nat → Word × BitVec 5) =>
      exec e s = .next (after s g i ((sl.wrV f.dst (vmerge m t.size (sl.oldV f.dst) (fun j => (r j).1))).orFlags
        (govFlags m t.size (128 / t.size) (fun j => (r j).2))))
    let rounds := fun (e : Instr) (x : Nat → FVal × BitVec 5) =>
      gives e (fun j => ((roundStd t mode f.sat (x j).1).1, (roundStd t mode f.sat (x j).1).2 ||| (x j).2))
    rounds (.vfadd f) (fun j => addNum mode (v f.sa j) (v f.sb j)) ∧ rounds (.vfsub f) (fun j => addNum mode (v f.sa j) (v f.sb j).negate) ∧
    rounds (.vfmul f) (fun j => mulNum (v f.sa j) (v f.sb j)) ∧ rounds (.vffma f) (fun j => fmaNum mode (v f.sa j) (v f.sb j) (v f.sc j)) ∧
    rounds (.vfdiv f) (fun j => divNum (v f.sa j) (v f.sb j)) ∧ rounds (.vfsqrt f) (fun j => sqrtNum (v f.sa j)) ∧
    rounds (.vfrcp f) (fun j => divNum (.fin false 1 0 false) (v f.sa j)) ∧ rounds (.vfrsq f) (fun j => rsqNum (v f.sa j)) ∧
    rounds (.vfexp2 f) (fun j => exp2Num (v f.sa j)) ∧ rounds (.vflog2 f) (fun j => log2Num (v f.sa j)) ∧
    rounds (.vscal f) (fun j => scalNum (v f.sa j) (scaleCount sl f j)) ∧
    gives (.vfmin f) (fun j => minNum t false (bits f.sa j) (bits f.sb j)) ∧ gives (.vfmax f) (fun j => minNum t true (bits f.sa j) (bits f.sb j)) ∧
    gives (.vfrint f) (fun j => frintOf t mode (bits f.sa j)) ∧
    gives (.vfclamp f) (fun j => ((minNum t false (minNum t true (bits f.sa j) (bits f.sb j)).1 (bits f.sc j)).1,
      (minNum t false (minNum t true (bits f.sa j) (bits f.sb j)).1 (bits f.sc j)).2 ||| (minNum t true (bits f.sa j) (bits f.sb j)).2))

/-- Vector compares write one predicate: lane k holds where its mask bit is 1 and the condition holds in every element of the lane; an
8-byte element writes the bits of both its lanes, governed by the first (R90, R149). -/
def Obligations.VectorCompares : Prop :=
  ∀ (s : State) (g : CoreId) (i : SlotId) (f : FmtR), turn s g i (rRegs f) →
    let sl := s.slot g i
    let m := sl.mask f.pn f.pred
    let sz := f.ty.size
    let a := fun (j : Nat) => sl.vsrc f.sa f.ty j
    let b := fun (j : Nat) => sl.vsrc f.sb f.ty j
    let lanes := fun (p : BitVec 32) (c : Nat → Bool) => ∀ k, k < 32 → (p.getLsbD k = true ↔
      if sz = 8 then m.getLsbD (2 * (k / 2)) = true ∧ c (k / 2) = true else m.getLsbD k = true ∧ ∀ j, j < 4 / sz → c (4 / sz * k + j) = true)
    (∃ p, exec (.vcmp f) s = .next (after s g i (sl.wrP f.dst p)) ∧
      lanes p (fun j => intCond f.imm.toNat (intOf f.ty (a j)) (intOf f.ty (b j)) (a j).toNat (b j).toNat)) ∧
    (∃ p, exec (.vfcmp f) s = .next (after s g i ((sl.wrP f.dst p).orFlags
        (govFlags m sz (128 / sz) (fun j => (floatCompare f.ty f.imm.toNat (a j) (b j)).2)))) ∧
      lanes p (fun j => (floatCompare f.ty f.imm.toNat (a j) (b j)).1)) ∧
    (∃ p, exec (.vsetp f) s = .next (after s g i (sl.wrP f.dst p)) ∧
      ∀ k, k < 32 → (p.getLsbD k = true ↔ m.getLsbD k = true ∧ 4 * k / sz < (sl.srcW f.sa).toNat))

/-- The conversion and packing of vectors: element j of the result from element j of the source, numbered across the two widths, zero beyond
the last; narrow codes packed without gaps and spread one to a byte (R152, R153).
A narrow code packed at position j of a register reads back, and the codes lie without gaps from bit 0 (R34, R153). -/
def Obligations.VectorConversions : Prop :=
  (∀ (s : State) (g : CoreId) (i : SlotId) (f : FmtR), turn s g i (rRegs f) →
    let sl := s.slot g i
    let m := sl.mask f.pn f.pred
    let res := resultTy f
    let big := Nat.max f.ty.size res.size
    let r := fun (j : Nat) => convert f.ty res (sl.modeOf f.mode) f.sat (sl.vsrc f.sa f.ty j)
    let k := descWidth f
    exec (.vcvt f) s = .next (after s g i ((sl.wrV f.dst (vbuild res.size (128 / big)
      (fun j => if gov m big j then (r j).1 else elemOf (sl.oldV f.dst) res.size j))).orFlags (govFlags m big (128 / big) (fun j => (r j).2)))) ∧
    exec (.vpack f) s = .next (after s g i (sl.wrV f.dst (packCodes k 128
      (fun j => if gov m 1 j then (sl.vsrc f.sa .n8 j).toNat else packedCode k (sl.oldV f.dst) j)))) ∧
    exec (.vunpk f) s = .next (after s g i (sl.wrV f.dst (vmerge m 1 (sl.oldV f.dst)
      (fun j => BitVec.ofNat 64 (packedCode k (sl.vwhole f.sa) j)))))) ∧
  (∀ (k : Nat) (c : Nat → Nat), k ∈ [4, 6, 8] →
    (∀ j, j < 128 → packedCode k (packCodes k 128 c) j = c j % 2 ^ k) ∧ (packCodes k 128 c).toNat < 2 ^ (128 * k) ∧
    ∀ (r : VReg), r.toNat < 2 ^ (128 * k) → packCodes k 128 (packedCode k r) = r)

/-- Moves across lanes: permutation, whose literal index is a signed integer whatever the type, rotation, the slides with the third source
behind the vacated places, extraction, insertion, compression and expansion (R81, R157, R160, R161). -/
def Obligations.LaneMoves : Prop :=
  ∀ (s : State) (g : CoreId) (i : SlotId) (f : FmtR), turn s g i (rRegs f) →
    let sl := s.slot g i
    let t := f.ty
    let n := 128 / t.size
    let m := sl.mask f.pn f.pred
    let a := fun (j : Nat) => sl.vsrc f.sa t j
    let c := fun (j : Nat) => sl.vsrc f.sc t j
    let r := Nat.min (sl.srcW f.sb).toNat n
    let at_ := ((sl.srcW f.sb).toInt % (n : Int)).toNat
    let on := (List.range n).filter (gov m t.size)
    let gives := fun (e : Instr) (x : Nat → Word) => exec e s = .next (after s g i (sl.wrV f.dst (vmerge m t.size (sl.oldV f.dst) x)))
    gives (.vperm f) (fun j => a ((match f.sb with
      | .lit k => k.toInt
      | x => ((sl.vsrc x t j).toNat : Int)) % (n : Int)).toNat) ∧
    gives (.vrotl f) (fun j => a (((j : Int) - (sl.srcW f.sb).toInt) % (n : Int)).toNat) ∧
    gives (.vslideup f) (fun j => if r ≤ j then a (j - r) else c (n - r + j)) ∧
    gives (.vslidedn f) (fun j => if j + r < n then a (j + r) else c (j + r - n)) ∧
    (gov m t.size at_ = true → exec (.vextr f) s = .next (after s g i (sl.wr f.dst t (a at_)))) ∧
    (gov m t.size at_ = false → exec (.vextr f) s = .next (after s g i sl)) ∧
    exec (.vinsr f) s = .next (after s g i (sl.wrV f.dst (vbuild t.size n
      (fun j => if j = at_ ∧ gov m t.size at_ = true then sl.src f.sa t else elemOf (sl.oldV f.dst) t.size j)))) ∧
    exec (.vcompr f) s = .next (after s g i (sl.wrV f.dst (vbuild t.size n (fun j => ((on[j]?).map a).getD 0)))) ∧
    gives (.vexpnd f) (fun j => a (on.filter (fun k => k < j)).length)

/-- Reductions and scans: integer ones over the governed-on elements; float ones along the fixed tree and in the fixed order of the scan, the
governed-off elements entering as the identity (R121, R122, R158, R159). -/
def Obligations.ReductionResults : Prop :=
  ∀ (s : State) (g : CoreId) (i : SlotId) (f : FmtR), turn s g i (rRegs f) →
    let sl := s.slot g i
    let t := f.ty
    let n := 128 / t.size
    let m := sl.mask f.pn f.pred
    let mode := sl.modeOf f.mode
    let add := fun (x y : Word) => rounded t mode f.sat (addNum mode (decodeStd t x) (decodeStd t y))
    let zero : Word := if mode = .rdn then 0 else BitVec.ofNat 64 (2 ^ (t.width - 1))
    let filled := fun (z : Word) => (List.range n).map (fun j => if gov m t.size j then sl.vsrc f.sa t j else z)
    let on := fun (k : Nat) => ((List.range k).filter (gov m t.size)).map (fun j => intOf t (sl.vsrc f.sa t j))
    let into := fun (e : Instr) (z : Int) => exec e s = .next (after s g i (sl.wr f.dst t (patOf t z)))
    let tree := fun (e : Instr) (op : Word → Word → Word × BitVec 5) (z : Word) =>
      exec e s = .next (after s g i ((sl.wr f.dst t (reduceTree op 7 (filled z) 0).1).orFlags (reduceTree op 7 (filled z) 0).2))
    into (.vredsum f) (on n).sum ∧ into (.vredmax f) ((on n).foldl Max.max (minInt t)) ∧ into (.vredmin f) ((on n).foldl Min.min (maxInt t)) ∧
    exec (.vscan f) s = .next (after s g i (sl.wrV f.dst (vmerge m t.size (sl.oldV f.dst) (fun j => wrapInt t false (on (j + 1)).sum)))) ∧
    tree (.vfredsum f) add zero ∧ tree (.vfredmax f) (minNum t true) (canonNan t) ∧ tree (.vfredmin f) (minNum t false) (canonNan t) ∧
    (let y := scanSteps add 7 1 ((filled zero).map (fun w => (w, 0)))
     exec (.vfscan f) s = .next (after s g i ((sl.wrV f.dst (vmerge m t.size (sl.oldV f.dst) (fun j => (y.getD j (0, 0)).1))).orFlags
       (govFlags m t.size n (fun j => (y.getD j (0, 0)).2)))))

/-! ## Loads and stores -/

/-- What a load writes: the value extended by its form, the listed elements of a vector, consecutive k registers; every other register is
as before (R226, R233 to R235, R240). A load to x0 writes nothing (R73, R233). -/
def Obligations.LoadDestinations : Prop :=
  (∀ (sl : Slot) (sz : Nat) (sext : Bool) (vals : List (Nat × Word)),
    sl.putLoad sz (xDest (.x 0) sext) vals = sl ∧ sl.putLoad sz (.x 0 sext) vals = sl) ∧
  ∀ (sl : Slot) (sz : Nat), sz ∈ [1, 2, 4, 8] →
    (∀ (r : BitVec 5) (j : Nat) (w : Word), r ≠ 0 →
      (sl.putLoad sz (.x r true) [(j, w)]).readX r = (w.setWidth (8 * sz)).signExtend 64 ∧
      (sl.putLoad sz (.x r false) [(j, w)]).readX r = (w.setWidth (8 * sz)).setWidth 64) ∧
    (∀ (r : BitVec 6) (vals : List (Nat × Word)) (j : Nat), j < 128 / sz →
      elemOf ((sl.putLoad sz (.v r) vals).readV r) sz j =
        match vals.find? (fun x => x.1 == j) with
        | some x => (x.2.setWidth (8 * sz)).setWidth 64
        | none => elemOf (sl.readV r) sz j) ∧
    (∀ (r : BitVec 6) (n : Nat) (f : Nat → Word) (j : Nat), j < n → n ≤ 64 →
      (sl.putLoad 8 (.k r n) ((List.range n).map (fun j => (j, f j)))).readK (r + BitVec.ofNat 6 j) = f j) ∧
    (∀ (r : BitVec 6) (pd : BitVec 3) (m : BitVec 32) (vals : List (Nat × Word)), pd ≠ 0 →
      (sl.putLoad sz (.vx r pd m) vals).readP pd = m ∧ (sl.putLoad sz (.vx r pd m) vals).readV r = (sl.putLoad sz (.v r) vals).readV r) ∧
    (∀ (d : LoadDest) (vals : List (Nat × Word)), (∀ r n, d = .k r n → ∀ x ∈ vals, x.1 < n) → (∀ r, d = .xs r → ∀ x ∈ vals, x.1 < 8) →
      keepsRegs sl (sl.putLoad sz d vals) d.regs false)

/-- Loads whose elements all lie in the core's scratch, where they are performed by their instruction, complete at once: their registers take the
bytes there, an acquire at quad scope or wider drops the clean bytes of the L1, one wider than its slot is noted in the slot, and nothing else
happens (R163, R213, R215, R230, R233 to R235, R240). That such an access may complete within its own step and is never counted then is the
model's reading (log 48), and so is that a vector load of no element does nothing (log 84). -/
def Obligations.ScratchLoads : Prop :=
  ∀ (s : State) (g : CoreId) (i : SlotId) (f : FmtM),
    let sl := s.slot g i
    let gives := fun (e : Instr) (m : MemOp) (d : LoadDest) => clearHere s g i m →
      let vals := m.spots.map (fun x => (x.j, wordOf ((s.core g).scratchRead (x.va.toNat - scratchBase) m.size)))
      let t := marked (after s g i (sl.putLoad m.size d vals)) g i m.ord m.scope
      exec e s = .next (if m.ord.isAcq && m.scope.wide then t.acquireDrop g else t)
    let vec := fun (e : Instr) (m : MemOp) => (m.spots ≠ [] → gives e m (.v (vIndex f.data))) ∧
      (m.spots = [] → unheld s g i m → worst (earlyBad s g i m) = none → exec e s = .next (after s g i sl))
    (turn s g i (mRegs f) → sl.guard f.pn f.pred = true →
      gives (.ld f) (contigOp f sl false [⟨0, sl.memVa f 0⟩]) (xDest f.data (f.len == 1))) ∧
    (turn s g i (ldkRegs f ++ mRegs f) → sl.guard f.pn f.pred = true →
      gives (.ldk f) (contigOp f sl false (allSpots (f.len.toNat + 1) (fun j => sl.memVa f (BitVec.ofNat 64 (8 * j)))))
        (.k (kIndex f.data) (f.len.toNat + 1))) ∧
    (turn s g i (mRegs f) → vec (.ldv f) (vecContig f sl false) ∧ vec (.ldvs f) (vecScatter f sl false (stridedVa f sl)) ∧
      vec (.ldvg f) (vecScatter f sl false (gatherVa f sl))) ∧
    (turn s g i (.p (pIndex f.aux) :: mRegs f) →
      let m := { contigOp f sl false (sl.spots f (f.len.toNat + 1) (fun j => sl.memVa f (BitVec.ofNat 64 (mSize f * j)))) with whole := true }
      gives (.ldx f) m (.vx (vIndex f.data) (pIndex f.aux) (ldxPresent m.size (m.spots.map (fun x => x.j)) [])))

/-- Stores whose elements all lie in the core's scratch, where they are performed by their instruction, complete at once: the PC moves on and no
register changes; the bytes stored read back, where no two elements meet; every other byte of scratch and all of memory is as before (R163,
R206, R230, R233, R234, R236). That such a store may complete within its own step and is never counted then is the model's reading (log 48). -/
def Obligations.ScratchStores : Prop :=
  ∀ (s : State) (g : CoreId) (i : SlotId) (f : FmtM), Memory.wf zeroByte (s.core g).scratch = true →
    let sl := s.slot g i
    let off := fun (x : Spot) => x.va.toNat - scratchBase
    let apart := fun (n : Nat) (x y : Spot) => off x + n ≤ off y ∨ off y + n ≤ off x
    let gives := fun (e : Instr) (m : MemOp) (w : Nat → Word) => clearHere s g i m →
      ∃ t, exec e s = .next t ∧ (t.slot g i).pc = sl.pc + 8 ∧ keepsRegs sl (t.slot g i) [] false ∧
        onlyScratch s t g (fun a => ∀ x ∈ m.spots, a < off x ∨ off x + m.size ≤ a) ∧
        (m.spots.Pairwise (apart m.size) → ∀ x ∈ m.spots, (t.core g).scratchRead (off x) m.size = bytesOf m.size (w x.j).toNat)
    (turn s g i (mRegs f) → sl.guard f.pn f.pred = true →
      gives (.st f) (contigOp f sl true [⟨0, sl.memVa f 0⟩]) (fun _ => sl.srcW f.data) ∧ gives (.zero f) (longOp f sl true) (fun _ => 0)) ∧
    (turn s g i (mRegs f) →
      let w := fun (j : Nat) => elemOf (sl.readV (vIndex f.data)) (mSize f) j
      gives (.stv f) (vecContig f sl true) w ∧ gives (.stvs f) (vecScatter f sl true (stridedVa f sl)) w ∧
      gives (.stvg f) (vecScatter f sl true (gatherVa f sl)) w)

/-- The address of every element: BASE plus OFF12, plus j times the element's size, plus j times the stride, or plus the sign-extended index;
the low 48 bits are the address; the elements of a vector form are the governed-on ones (R162, R226, R227, R229), of a contiguous form those
that lie below 2^48, since one beyond is no address and traps.
Loads and stores that every check lets pass, and whose elements all lie in memory or that are put off, join the accesses in flight: their counter
goes up, the PC moves on, and each element goes to the L1, or to its coherence point or target where its memory is not cached or the load
acquires at quad scope or wider (R76, R170, R210, R230). Of elements of both kinds those of coherence points and targets go first, which is the
model's choice (log 28), and which accesses to scratch and tiles are put off is the agenda's (log 48). -/
def Obligations.AccessesInFlight : Prop :=
  (∀ (sl : Slot) (f : FmtM) (st : Bool),
    let base := sl.srcW f.base + f.off.signExtend 64
    let at_ := fun (x : Word) => (base + x).setWidth 48
    let on := fun (n : Nat) => (List.range n).filter (gov (sl.mask f.pn f.pred) (mSize f))
    let idx := fun (j : Nat) => elemOf (sl.readV (vIndex f.aux)) (mSize f) j
    let below := fun (j : Nat) => decide ((at_ 0).toNat + mSize f * j < 2 ^ 48)
    (contigOp f sl st [⟨0, sl.memVa f 0⟩]).spots = [⟨0, at_ 0⟩] ∧
    (∀ n, (((∀ r, f.aux ≠ .x r) ∨ f.len ≠ 0xFF) ∧ n = f.len.toNat + 1) ∨ (∃ r, f.aux = .x r ∧ f.len = 0xFF ∧ n = (sl.readX r).toNat) →
      n * mSize f ≤ 128 → (vecContig f sl st).spots = ((on n).filter below).map (fun j => ⟨j, at_ (BitVec.ofNat 64 (mSize f * j))⟩)) ∧
    (vecScatter f sl st (stridedVa f sl)).spots = (on (f.len.toNat + 1)).map (fun j => ⟨j, at_ (sl.srcW f.aux * BitVec.ofNat 64 j)⟩) ∧
    (vecScatter f sl st (gatherVa f sl)).spots =
      (on (f.len.toNat + 1)).map (fun j => ⟨j, at_ (if f.sz = 2 then ((idx j).setWidth 32).signExtend 64 else idx j)⟩)) ∧
  (∀ (s t : State) (g : CoreId) (i : SlotId) (f : FmtM) (es : List Elem), t.poison = [] → es ≠ [] → turn s g i (mRegs f) →
    let sl := s.slot g i
    let onward := fun (k : PendKind) (l : List Elem) (d : LoadDest) (m : MemOp) (u : State) => (u.pushPend g i k l [] d m).pcNext g i
    let loads := fun (e : Instr) (m : MemOp) (d : LoadDest) => flying s g i m t es →
      let far := es.filter (fun e => !e.cached || (m.ord.isAcq && m.scope.wide))
      let near := es.filter (fun e => e.cached && !(m.ord.isAcq && m.scope.wide))
      exec e s = .next (if far = [] then (onward .waitLoad near d m t).tryPend g t.nextPend
        else ((onward (.cp .read) far d m t).withRest g t.nextPend (near.map (fun e => (e, 0)))).toPoint g t.nextPend)
    let stores := fun (e : Instr) (m : MemOp) (w : Nat → Word) => flying s g i m t es →
      let far := es.filter (fun e => !e.cached)
      let near := es.filter Elem.cached
      (far = [] → ∃ data, exec e s = .next ((onward (.waitStore data) near .discard m t).tryPend g t.nextPend) ∧
        data = es.flatMap (fun e => match e.loc with
          | .mem pa _ _ => (bytesOf m.size (w e.j).toNat).zipIdx.map (fun b => (pa + b.2, b.1))
          | _ => [])) ∧
      (far ≠ [] → exec e s = .next (((onward (.cp (.write (far.map (fun e => w e.j)))) far .discard m
        (if far.any (fun e => e.loc.remote) then t.remoteUp sl.task.tr else t)).withRest g t.nextPend (near.map (fun e => (e, w e.j)))).toPoint
          g t.nextPend))
    let v := fun (j : Nat) => elemOf (sl.readV (vIndex f.data)) (mSize f) j
    (sl.guard f.pn f.pred = true →
      loads (.ld f) (contigOp f sl false [⟨0, sl.memVa f 0⟩]) (xDest f.data (f.len == 1)) ∧
      stores (.st f) (contigOp f sl true [⟨0, sl.memVa f 0⟩]) (fun _ => sl.srcW f.data) ∧ stores (.zero f) (longOp f sl true) (fun _ => 0)) ∧
    loads (.ldv f) (vecContig f sl false) (.v (vIndex f.data)) ∧
    loads (.ldvs f) (vecScatter f sl false (stridedVa f sl)) (.v (vIndex f.data)) ∧
    loads (.ldvg f) (vecScatter f sl false (gatherVa f sl)) (.v (vIndex f.data)) ∧
    stores (.stv f) (vecContig f sl true) v ∧ stores (.stvs f) (vecScatter f sl true (stridedVa f sl)) v ∧
    stores (.stvg f) (vecScatter f sl true (gatherVa f sl)) v)

/-- The trap of an access that must not be performed: the first failure in the order of the checks, of two of one rank the one at the lower
address; an LD or ST whose page has a reserved entry raises ILLEGAL before all else, a misaligned one ALIGN at its address, and one that would
lie in a scratch bank of another domain DOMAIN (R94, R163, R192, R228, R231). That a translation held from before does not hide a reserved entry
is the model's choice (log 6). -/
def Obligations.AccessTraps : Prop :=
  (∀ (l : List BadSpot) (b : BadSpot), worst l = some b → b ∈ l ∧ ∀ x ∈ l, b.rank < x.rank ∨ (b.rank = x.rank ∧ b.va.toNat ≤ x.va.toNat)) ∧
  ∀ (s : State) (g : CoreId) (i : SlotId) (f : FmtM), turn s g i (mRegs f) → (s.slot g i).guard f.pn f.pred = true →
    let sl := s.slot g i
    let va := sl.memVa f 0
    ∀ c ∈ ([(.ld f, contigOp f sl false [⟨0, va⟩]), (.st f, contigOp f sl true [⟨0, va⟩])] : List (Instr × MemOp)), unheld s g i c.2 →
      (inScratch va.toNat = false → s.walk g.die sl.dom va = .error .illegal → exec c.1 s = .next (raise s g i ⟨.illegal, va.setWidth 64, 0⟩)) ∧
      (inScratch va.toNat = true ∨ s.walk g.die sl.dom va ≠ .error .illegal → va.toNat % mSize f ≠ 0 → exec c.1 s = .next (raise s g i ⟨.align, va.setWidth 64, 0⟩)) ∧
      (va.toNat % mSize f = 0 → inScratch va.toNat = true → (s.core g).bankOk sl.dom va.toNat = false →
        exec c.1 s = .next (raise s g i ⟨.domain, va.setWidth 64, 0⟩))

/-- Cache control and existence where nothing holds them back: PREF asks the L1 for what it lacks and moves on, INVAL moves on, FLUSH with no byte
of cached memory too, and with some it joins the accesses in flight (R237 to R239); what FLUSH and INVAL do with a byte that an entry holds and how
FLUSH is counted rest on the model's reading (log 29). Each waits behind what has issued before it to a common byte (R251).
XTEST and ERASE act on one tile after another in ascending order: an instruction on one tile moves on, XTEST with one bit for each tile; one on
several stays with what remains of it, for a turn of its own for each; or it is put off and joins the accesses in flight (R201, R241, R242,
R351). That it may hold its slot for a turn of each tile, with no counter, and which one is put off is the model's reading (log 48).
POOLADD counts the tiles it has pushed (R243).
FENCE holds its slot until the accesses and commands it names before are performed, and then moves on, dropping the clean bytes of the L1
where loads follow at quad scope or wider (R213, R215, R216, R250). -/
def Obligations.CacheAndFence : Prop :=
  (∀ (s t : State) (g : CoreId) (i : SlotId) (f : FmtM), turn s g i (mRegs f) → (s.slot g i).guard f.pn f.pred = true →
    let sl := s.slot g i
    let a := (sl.memVa f 0).toNat
    (let m := longOp f sl false
     (1024 < sl.memLen f * mSize f → exec (.pref f) s = .next (raise s g i (trapOf .illegal))) ∧
     (∀ rs, sl.memLen f * mSize f ≤ 1024 → (s.core g).sbHolds sl.dom false m.exts = false →
       s.prefRuns g sl.dom sl.isU (pageParts a (m.spots.length * m.size)) = (t, rs) →
       let waits := (s.core g).l1Queued (rs.map (fun x => x.1)) ||
         (s.core g).heldMeets sl.dom false [] (runPlaces (rs.map (fun x => x.1)))
       (waits = true → exec (.pref f) s = .next t) ∧
       (waits = false → exec (.pref f) s = .next ((rs.foldl (fun u x => u.prefetch g sl.dom x) t).pcNext g i)))) ∧
    (∀ es, let m := longOp f sl true
     (s.core g).sbHolds sl.dom true m.exts = false → (s.core g).acquiring sl.task.act = false → sl.cnt.st ≠ 63 →
     worst (m.bad ++ s.reservedPtes g sl.dom m.spots ++ misaligned m.size m.spots) = none →
     s.lookPages g sl.dom (some (g, i, sl.task.act)) (if m.spots.isEmpty then [] else pageParts a (m.spots.length * m.size)) =
       (t, es, [], false) → (s.core g).heldMeets sl.dom false m.exts (runPlaces (memRuns 1 es)) = false →
     (t.l1Waits g (memRuns 1 es) = false →
       ∃ l msgs, exec (.inval f) s = .next (((t.setCore g { t.core g with l1 := l }).send msgs).pcNext g i)) ∧
     (es = [] → exec (.flush f) s = .next (t.pcNext g i)) ∧
     (es ≠ [] → exec (.flush f) s = .next (((t.pushPend g i .waitFlush es [] .discard flushOp).pcNext g i).tryPend g t.nextPend)))) ∧
  (∀ (s t : State) (g : CoreId) (i : SlotId) (f : FmtM) (e : Elem) (l : List Elem), turn s g i (mRegs f) →
    (s.slot g i).guard f.pn f.pred = true →
    let sl := s.slot g i
    let who := some (g, i, sl.task.act)
    let a := (sl.memVa f 0).toNat
    let found := fun (u : State) => match e.loc with
      | .tile idx _ _ => u.tileAt g sl.dom idx e.va
      | _ => (u, none)
    let bit := fun (u : State) => if ((found u).2.map (fun x => (found u).1.tilePresent x)).getD false then (1 : Word) else 0
    let erased := fun (u : State) => match (found u).2 with
      | some x => (found u).1.tileErase sl.dom x
      | none => (found u).1
    let ended := fun (u : State) => if sl.tile.isSome then u.modSlot g i (fun x => { x with tile := none }) else u
    let tested := fun (u : State) (vals : List (Nat × Word)) =>
      (l = [] → ∃ w : Word, (∀ k, k < 64 → (w.getLsbD k = true ↔ valOf (vals ++ [(e.j, bit u)]) k = some 1)) ∧
        (let r := marked (((ended (found u).1).modSlot g i (fun x => x.putLoad 8 (xDest f.data false) [(0, w)])).pcNext g i) g i f.ord f.scope
         exec (.xtest f) s = .next (if f.ord.isAcq && f.scope.wide then r.acquireDrop g else r))) ∧
      (l ≠ [] → exec (.xtest f) s = .next ((found u).1.setTile g i ⟨l, vals ++ [(e.j, bit u)], []⟩))
    let gone := fun (u : State) =>
      (l = [] → exec (.erase f) s = .next ((ended (erased u)).pcNext g i)) ∧
      (l ≠ [] → exec (.erase f) s = .next ((erased u).setTile g i ⟨l, [], []⟩))
    (∀ x, sl.tile = some x → x.elems = e :: l → tested s x.vals ∧ gone s) ∧
    let fly := fun (c : Instr) (op : CpOp) (d : LoadDest) (m : MemOp) =>
      exec c s = .next (((t.pushPend g i (.cp op) (e :: l) [] d m).pcNext g i).toPoint g t.nextPend)
    (∀ t0 t1 t2 r ts, let n := sl.memLen f
     let m : MemOp := ⟨false, .read, 8, [], lenBad n 64, [], f.ord, f.scope, true⟩
     unheld s g i m → 0 < n → n ≤ 64 →
     s.tileOf g sl.dom .read sl.isU who a = (t1, .ok t0) → worst (t1.reservedPtes g sl.dom (pageSpots a (n * t0.region.tile))) = none →
     a % t0.region.tile = 0 → (t1.core g).sbHolds sl.dom false [(a, n * t0.region.tile)] = false →
     t1.regionPages g sl.dom .read sl.isU who (some t0.region.idx) (pageSteps a (n * t0.region.tile)) = (t2, .ok r) →
     t2.tilesFrom g sl.dom .read sl.isU who t0.region.tile n a = (t, .ok ts) → tileElems ts a t0.region.tile = e :: l →
     (t.core g).heldMeets sl.dom true [(a, n * t0.region.tile)] (m.places (e :: l)) = false →
     (t.tilesLate g sl.dom m (e :: l) = false → tested t []) ∧
     (t.tilesLate g sl.dom m (e :: l) = true → fly (.xtest f) .xtest (xDest f.data false) m)) ∧
    (let len := (sl.srcW f.aux).toNat
     let m : MemOp := ⟨true, .write, 1, [], [], [(a, len)], f.ord, f.scope, true⟩
     unheld s g i m → len ≤ 2 ^ 22 →
     (len = 0 → exec (.erase f) s = .next (after s g i sl)) ∧
     (∀ t0 t1 r ts, len ≠ 0 → worst (s.reservedPtes g sl.dom (pageSpots a len)) = none →
       s.regionPages g sl.dom .write sl.isU who none (pageSteps a len) = (t1, .ok (t0 :: r)) →
       a % t0.region.tile = 0 → len % t0.region.tile = 0 →
       t1.tilesFrom g sl.dom .write sl.isU who t0.region.tile (len / t0.region.tile) a = (t, .ok ts) →
       tileElems ts a t0.region.tile = e :: l → (t.core g).heldMeets sl.dom true [(a, len)] (m.places (e :: l)) = false →
       (t.tilesLate g sl.dom m (e :: l) = true → fly (.erase f) .erase .discard m) ∧
       (t.tilesLate g sl.dom m (e :: l) = false →
         (l = [] ∨ (t.core g).released sl.task.act sl.acq false = true → gone (t.dropOwnResv g i a len)) ∧
         (l ≠ [] → (t.core g).released sl.task.act sl.acq false = false → exec (.erase f) s = .next t))))) ∧
  (∀ (s t : State) (g : CoreId) (i : SlotId) (h : FmtS), turn s g i (sRegs h) → (s.slot g i).isU = false →
     let sl := s.slot g i
     (sl.srcW h.sb).toNat ≤ 4096 →
     let n := (sl.srcW h.sb).toNat
     let tsz := (h.imm.extractLsb' 0 3).toNat
     let v := ((sl.srcW h.sa).setWidth 48).toNat
     (n = 0 → exec (.pooladd h) s = .next ((s.putX g i h.dst 0).pcNext g i)) ∧
     (∀ l, n ≠ 0 → v % 2 ^ (9 + tsz) = 0 → s.poolTiles g sl.dom (2 ^ (9 + tsz)) n v = (t, .ok l) →
       (t.core g).released sl.task.act sl.acq true = true →
       let p := t.poolPushAll sl.dom tsz (h.imm.extractLsb' 3 4) l.reverse 0
       exec (.pooladd h) s = .next ((p.1.putX g i h.dst (BitVec.ofNat 64 p.2)).pcNext g i))) ∧
  (∀ (s : State) (g : CoreId) (i : SlotId) (f : FmtF), turn s g i [] →
    let c := s.core g
    let act := (s.slot g i).task.act
    let mark := (s.slot g i).acq
    let engines := f.sm.extractLsb' 0 6 ≠ 0
    let undone := fun (q : QueueId) (k : Nat) => c.engineDone act q (f.pm.getLsbD (k + 1)) (f.pm.getLsbD k) = false
    let waits := (f.pm.getLsbD 7 = true ∧ (f.scope ≠ .slot ∨ engines) ∧ c.loadsDone act mark = false) ∨
      (f.pm.getLsbD 6 = true ∧ (f.scope.wide = true ∨ engines) ∧ c.released act mark (f.scope == .pod) = false) ∨
      undone 0 4 ∨ undone 1 2 ∨ undone 2 0
    let u := if f.scope = .slot then s else s.modSlot g i (fun x => { x with acq := s.nextPend })
    (waits → exec (.fence f) s = .next s) ∧
    (¬ waits → exec (.fence f) s = .next ((if f.sm.getLsbD 7 && f.scope.wide then u.acquireDrop g else u).pcNext g i)))

/-! ## Atomics -/

/-- The scalar atomics on scratch, where they are performed by their instruction: the old value goes to the destination, extended by the form, and
the new one to memory; CAS stores only where the old value is the one expected; one at quad scope or wider drops the clean bytes of the L1 (R210,
R215, R244, R245). That one may complete within its own step and is never counted then is the model's reading (log 48). -/
def Obligations.AtomicResults : Prop :=
  ∀ (s : State) (g : CoreId) (i : SlotId) (f : FmtM), turn s g i (mRegs f) → (s.slot g i).guard f.pn f.pred = true →
    let sl := s.slot g i
    let sz := mSize f
    let va := sl.memVa f 0
    let m := atomOp f sl (f.data == .x 0) .both
    sz ∈ [4, 8] → clearHere s g i m →
    let off := va.toNat - scratchBase
    let old := wordOf ((s.core g).scratchRead off sz)
    let b := sl.src f.aux (plainTy sz)
    let low := fun (w : Word) => BitVec.ofNat 64 (w.toNat % 2 ^ (8 * sz))
    let int := fun (w : Word) => intOf (signedTy sz) w
    let gives := fun (e : Instr) (new : Option Word) =>
      let t0 := match new with
        | some w => s.scratchWrite g sl.dom off (bytesOf sz w.toNat)
        | none => s
      let t := marked (t0.putX g i f.data (extLoad sz (f.len == 1) old)) g i f.ord f.scope
      exec e s = .next ((if f.scope.wide then t.acquireDrop g else t).pcNext g i)
    gives (.amoadd f) (some (low (old + b))) ∧ gives (.amoand f) (some (low (old &&& b))) ∧ gives (.amoor f) (some (low (old ||| b))) ∧
    gives (.amoxor f) (some (low (old ^^^ b))) ∧ gives (.amomin f) (some (if int old < int b then old else b)) ∧
    gives (.amomax f) (some (if int old < int b then b else old)) ∧ gives (.amominn f) (some (if old.toNat < b.toNat then old else b)) ∧
    gives (.amomaxn f) (some (if old.toNat < b.toNat then b else old)) ∧ gives (.amoswp f) (some b) ∧
    gives (.amocas f) (if old = sl.src f.data (plainTy sz) then some b else none) ∧
    gives (.amofadd f) (some (addStd (floatTy sz) .rne false old (sl.src f.aux (floatTy sz))).1)

/-- Atomics on memory, and those on scratch and tiles that are put off (log 48), join the accesses in flight and are one event at the coherence point,
which answers the old bytes there and stores the new value; what a place beyond the device does not carry raises ATOMUNSUP, and nothing is
performed (R210, R232, R244, R245).
LR and SC on memory are in flight until their coherence point: there LR reserves, the slot's earlier reservation being gone, and SC tests and
stores as one event (R246). Beyond the device they raise ATOMUNSUP (R247). -/
def Obligations.AtomicsInFlight : Prop :=
  (∀ (s t : State) (g : CoreId) (i : SlotId) (f : FmtM) (x : Elem),
    turn s g i (mRegs f) → (s.slot g i).guard f.pn f.pred = true → t.poison = [] →
    let sl := s.slot g i
    let sz := mSize f
    let m := atomOp f sl (f.data == .x 0) .both
    flying s g i m t [x] →
    let gives := fun (e : Instr) (k : AmoKind) (ty : Ty) =>
      let u := if f.data == .x 0 && x.loc.remote then t.remoteUp sl.task.tr else t
      ((x.loc.remote && !fabricCarries k sz) = false → exec e s =
        .next (((u.pushPend g i (.cp (.amo k (sl.src f.aux ty) (sl.src f.data (plainTy sz)))) [x] [] (xDest f.data (f.len == 1)) m).pcNext g i).toPoint g t.nextPend)) ∧
      ((x.loc.remote && !fabricCarries k sz) = true → exec e s = .next (raise t g i ⟨.atomunsup, 0, 0⟩))
    gives (.amoadd f) .add (plainTy sz) ∧ gives (.amoand f) .and (plainTy sz) ∧ gives (.amoor f) .or (plainTy sz) ∧
    gives (.amoxor f) .xor (plainTy sz) ∧ gives (.amomin f) .min (plainTy sz) ∧ gives (.amomax f) .max (plainTy sz) ∧
    gives (.amominn f) .minn (plainTy sz) ∧ gives (.amomaxn f) .maxn (plainTy sz) ∧ gives (.amoswp f) .swp (plainTy sz) ∧
    gives (.amocas f) .cas (plainTy sz) ∧ gives (.amofadd f) .fadd (floatTy sz)) ∧
  (∀ (s t : State) (g : CoreId) (i : SlotId) (f : FmtM) (x : Elem),
    turn s g i (mRegs f) → (s.slot g i).guard f.pn f.pred = true → t.poison = [] →
    let sl := s.slot g i
    let gives := fun (e : Instr) (op : CpOp) (d : LoadDest) (m : MemOp) => flying s g i m t [x] →
      (x.loc.remote = false → exec e s = .next (((t.pushPend g i (.cp op) [x] [] d m).pcNext g i).toPoint g t.nextPend)) ∧
      (x.loc.remote = true → exec e s = .next (raise t g i ⟨.atomunsup, 0, 0⟩))
    (s.core g).resvBusy sl.task.act = false →
    gives (.lr f) .lr (xDest f.data (f.len == 1)) (atomOp f sl false .read) ∧
    gives (.sc f) (.sc (sl.src f.aux (plainTy (mSize f)))) (xDest f.data false) (atomOp f sl false .write)) ∧
  (∀ (s : State) (g : CoreId) (p : Pend) (x : Elem) (pa : Nat) (mt : BitVec 2) (gr : Nat),
    s.poison = [] → s.pointReady g p = true → p.elems = [x] → x.loc = .mem pa mt gr → mt ≠ 1 →
    let old : Word := wordOf (s.cohRead pa p.size)
    let home := some (if isFabric pa then g.die else dieOf pa, homeSlice pa)
    let mine := (s.core g).slotOf p.act = some p.slot
    let stores := fun (u : State) (w : Word) => u.cohWrite pa (bytesOf p.size w.toNat)
    let after_ := fun (u : State) => (u.dropOwnClean g p.dom ⟨pa, p.size⟩).hideFills g ⟨pa, p.size⟩
    let with_ := fun (w : Word) => ({ p with vals := [(0, w)] } : Pend)
    (∀ k src expected, s.performPoint g p (.amo k src expected) false = some ((after_ (match amoNew k p.size old src expected with
      | some w => stores s w
      | none => s)).posted g (with_ old))) ∧
    (mine → (s.dropReservation g p.slot).resvFull home = false →
      s.performPoint g p .lr false = some (((after_ (s.dropReservation g p.slot)).reserve g p.slot p.dom p.size x home).finishPoint g (with_ old))) ∧
    (∀ val, mine →
      (s.reserved g p.slot p.dom p.size x = true →
        s.performPoint g p (.sc val) false = some ((after_ (stores (s.dropReservation g p.slot) val)).finishPoint g (with_ 0))) ∧
      (s.reserved g p.slot p.dom p.size x = false →
        s.performPoint g p (.sc val) false = some ((after_ (s.dropReservation g p.slot)).finishPoint g (with_ 1)))))

/-- LR and SC on scratch, where they are performed by their instruction: LR reads and reserves; SC stores and gives 0 where the slot's reservation is
on exactly these bytes, gives 1 and stores nothing otherwise, and the reservation ends either way; a store of any agent that meets the reserved
bytes ends it, one that does not leaves it (R246, R247). That each may complete within its own step and is never counted then is the model's
reading (log 48). -/
def Obligations.LoadReserveStoreConditional : Prop :=
  (∀ (s : State) (g : CoreId) (i : SlotId) (f : FmtM), turn s g i (mRegs f) → (s.slot g i).guard f.pn f.pred = true →
    let sl := s.slot g i
    let sz := mSize f
    let x : Elem := ⟨0, sl.memVa f 0, .scratch ((sl.memVa f 0).toNat - scratchBase)⟩
    let ends := fun (u : State) (w : Word) =>
      let r := marked (u.putX g i f.data w) g i f.ord f.scope
      exec (.sc f) s = .next ((if f.scope.wide then r.acquireDrop g else r).pcNext g i)
    (s.core g).resvBusy sl.task.act = false →
    (let m := atomOp f sl false .read
     clearHere s g i m →
     let u := marked ((s.reserve g i sl.dom sz x none).putX g i f.data
       (extLoad sz (f.len == 1) (wordOf ((s.core g).scratchRead ((sl.memVa f 0).toNat - scratchBase) sz)))) g i f.ord f.scope
     exec (.lr f) s = .next ((if f.ord.isAcq && f.scope.wide then u.acquireDrop g else u).pcNext g i)) ∧
    (let m := atomOp f sl false .write
     clearHere s g i m →
     (s.reserved g i sl.dom sz x = true → ends ((s.dropReservation g i).scratchWrite g sl.dom ((sl.memVa f 0).toNat - scratchBase)
       (bytesOf sz (sl.src f.aux (plainTy sz)).toNat)) 0) ∧
     (s.reserved g i sl.dom sz x = false → ends (s.dropReservation g i) 1))) ∧
  (∀ (s : State) (g h : CoreId) (i : SlotId) (d d' : Dom) (sz : Nat) (j : Nat) (va : VA) (off a : Nat) (bytes : List Byte)
     (home : Option (DieId × Fin 16)),
    let x : Elem := ⟨j, va, .scratch off⟩
    (s.reserve g i d sz x home).reserved g i d sz x = true ∧ (s.dropReservation g i).reserved g i d sz x = false ∧
    (s.scratchWrite h d' a bytes).reserved g i d sz x =
      (s.reserved g i d sz x && !(g == h && decide (off < a + bytes.length) && decide (a < off + sz))))

/-- Vector atomics: on scratch, where they are performed by their instruction, each governed-on element takes its old value plus its source, in
ascending order; on memory, or put off, they join the accesses in flight, and raise ATOMUNSUP where an element lies beyond the device, which does
not carry them (R245, R249). That one on scratch may complete within its own step and is never counted then is the model's reading (log 48). -/
def Obligations.VectorAtomics : Prop :=
  ∀ (s t : State) (g : CoreId) (i : SlotId) (f : FmtM), turn s g i (mRegs f) →
    let sl := s.slot g i
    let sz := mSize f
    let m := { vecScatter f sl true (gatherVa f sl) with acc := .both }
    let src := fun (j : Nat) => elemOf (sl.readV (vIndex f.data)) sz j
    let gives := fun (e : Instr) (k : AmoKind) (new : Word → Word → Word) =>
      (clearHere s g i m → exec e s = .next ((m.spots.foldl (fun u x => u.scratchWrite g sl.dom (x.va.toNat - scratchBase)
          (bytesOf sz (new (wordOf ((u.core g).scratchRead (x.va.toNat - scratchBase) sz)) (src x.j)).toNat)) s).pcNext g i)) ∧
      (∀ es, flying s g i m t es → t.poison = [] → es ≠ [] →
        ((es.any (fun x => x.loc.remote) && !fabricCarries k sz) = false →
          exec e s = .next ((((if es.any (fun x => x.loc.remote) then t.remoteUp sl.task.tr else t).pushPend g i
            (.cp (.vamo (k == .fadd) (es.map (fun x => src x.j)))) es [] .discard m).pcNext g i).toPoint g t.nextPend)) ∧
        ((es.any (fun x => x.loc.remote) && !fabricCarries k sz) = true → exec e s = .next (raise t g i ⟨.atomunsup, 0, 0⟩)))
    gives (.vamoadd f) .add (fun a b => BitVec.ofNat 64 ((a + b).toNat % 2 ^ (if sz = 4 then 32 else 64))) ∧
    gives (.vamofadd f) .fadd (fun a b => (addStd (floatTy sz) .rne false a b).1)

/-! ## Tasks, messages and barriers -/

/-- SPAWN, SEND, SENDR and the two gate instructions, where no check stops them: the record goes to the bottom of the core's deque, or into the
domain's share of the send buffer as uncommitted, and the PC moves on (R135, R289, R293, R297, R298).
The fields of a new record: a spawned task has its handler, its payload, its domain and the launch of its parent, with REPLAY 0; a message the
network of its form and its sender's number; another REPLAY leaves every other field (R21, R135, R289, R313). That the launch of the parent is 0
for records that a cross-domain task makes is the model's reading (log 12). -/
def Obligations.SpawnAndSends : Prop :=
  (∀ (s s1 : State) (g : CoreId) (i : SlotId) (f : FmtS),
    let sl := s.slot g i
    let plain := sl.isU = false ∨ (f.imm.getLsbD 3 = false ∧ f.imm.extractLsb' 1 2 ≠ 3)
    (turn s g i (specRegs [f.sa] ++ payRegs f.sb) → plain → (sl.srcW f.sa).toNat % 8 = 0 → (s.core g).released sl.task.act sl.acq false = true →
      ∀ e, (s.core g).entryOf sl.dom = some e → s.pushBottom g e ⟨s.spawnRec g sl f, false, false⟩ = (s1, true) →
      exec (.spawn f) s = .next (s1.pcNext g i)) ∧
    (turn s g i (specRegs [f.sa, f.sb] ++ payRegs f.sc) → s.eightHeld g i = false → plain → (s.core g).acquiring sl.task.act = false →
      (s.core g).sendFull sl.dom = false →
      (sl.srcW f.sb).toNat % 8 = 0 → ∀ to_, s.mapTarget sl.dom (sl.srcW f.sa) = some to_ →
      exec (.send f) s = .next ((s.putMessage g i to_ (s.sendRec g sl f false)).pcNext g i) ∧
      exec (.sendr f) s = .next ((s.putMessage g i to_ (s.sendRec g sl f true)).pcNext g i)) ∧
    (let x := sl.task.grant
     let idx := sl.task.tr.lid.extractLsb' 8 8
     turn s g i (payRegs f.sc) → s.eightHeld g i = false → x.valid = true → x.consumed = false →
      (s.core g).acquiring sl.task.act = false → (s.core g).sendFull sl.dom = false →
      ∀ to_, s.mapTarget x.dom (x.vcore.setWidth 64) = some (.local_ to_) →
      let u := s.setSlot g i { sl with task := { sl.task with grant := { x with consumed := true } } }
      exec (.sendrGate f) s = .next ((u.putMessage g i (.local_ to_) ⟨mkDw0 false false 0 true x.dom x.handler, sl.payload f.sc,
        mkDw7 3 (s.ownNumber sl.dom g) (BitVec.ofNat 16 (idx.toNat * 256 + sl.dom.toNat)) 0, true⟩).pcNext g i)) ∧
    (let d : Dom := f.imm.extractLsb' 8 8
     let idx : BitVec 8 := f.imm.extractLsb' 0 8
     turn s g i (specRegs [f.sa, f.sb] ++ payRegs f.sc) → s.eightHeld g i = false → idx.toNat < (s.dom d).gateLen.toNat → sl.cnt.ld ≠ 63 →
      (s.core g).acquiring sl.task.act = false →
      ∀ ws to_, s.devRead g d ((s.dom d).gateBase.setWidth 48 + BitVec.ofNat 48 (32 * idx.toNat)) 4 = (s1, .ok ws) →
      gateOk ws d sl.dom (sl.srcW f.sa) (f.sb != Spec.none) = true → s1.mapTarget d (sl.srcW f.sa) = some (.local_ to_) →
      (s1.core g).sendFull sl.dom = false → (s1.gateRec g sl f ws d idx).handler.toNat % 8 = 0 →
      exec (.gate f) s = .next ((s1.putMessage g i (.local_ to_) (s1.gateRec g sl f ws d idx)).pcNext g i))) ∧
  (∀ (s : State) (g : CoreId) (sl : Slot) (f : FmtS) (tr : TaskRec) (r : BitVec 2),
    (let t := s.spawnRec g sl f
     t.handler = (sl.srcW f.sa).setWidth 48 ∧ t.dom = sl.dom ∧ t.replay = 0 ∧ t.stl = f.imm.getLsbD 0 ∧ t.vn = false ∧
       t.prio = sl.classOf (f.imm.extractLsb' 1 2) ∧ t.dw0.getLsbD 63 = f.imm.getLsbD 3 ∧ t.origin = 1 ∧ t.svc = s.ownNumber sl.dom g ∧
       t.lid = sl.task.tr.ownLid ∧ t.tidx = sl.task.tr.tidx ∧ ∀ k : Fin 6, t.pay[k] = sl.readX (xIndex f.sb + BitVec.ofNat 5 k.val)) ∧
    (∀ reply, let t := s.sendRec g sl f reply
     t.handler = (sl.srcW f.sb).setWidth 48 ∧ t.dom = sl.dom ∧ t.replay = 0 ∧ t.vn = reply ∧ t.prio = sl.classOf (f.imm.extractLsb' 1 2) ∧
       t.origin = (if reply then 3 else 2) ∧ t.svc = s.ownNumber sl.dom g) ∧
    (let t := tr.withReplay r
     t.replay = r ∧ t.handler = tr.handler ∧ t.dom = tr.dom ∧ t.vn = tr.vn ∧ t.prio = tr.prio ∧ t.stl = tr.stl ∧ t.pay = tr.pay ∧ t.dw7 = tr.dw7 ∧
       ∀ d, levelOf d t.dw0 = levelOf d tr.dw0))

/-- END, YIELD in its four forms and WAITC: END commits, retires the task and frees its slot once nothing is in flight, and waits as ending until then;
a YIELD commits, waits for the loads, and parks with its condition in a frame; WAITC moves on once every counter it names is low enough, and
drops the clean bytes of the L1 if a command has completed that released beyond the core (R68, R136 to R138, R213, R218). -/
def Obligations.EndYieldWait : Prop :=
  ∀ (s : State) (g : CoreId) (i : SlotId) (f : FmtS),
    let sl := s.slot g i
    let u := s.commit g i
    let parks := fun (s0 : State) (e : Instr) (w : Wake) => ((s0.commit g i).slot g i).cnt.ld = 0 → ∀ v fr,
      let p := (s0.commit g i).pcNext g i
      p.trySave g i (.park w none) (p.slot g i).pc 0 w = (v, .saved fr) → exec e s = .next (v.finishPark g i fr w)
    (s.agent = .slot g i → sl.status = .running ∨ sl.status = .ending →
      (((u.slot g i).cnt.ld = 0 ∧ (u.slot g i).cnt.sd = 0) → ∃ t, exec .endTask s = .next t ∧ (t.slot g i).status = .free ∧ (t.slot g i).task.act = 0) ∧
      (¬ ((u.slot g i).cnt.ld = 0 ∧ (u.slot g i).cnt.sd = 0) → exec .endTask s = .next (u.modSlot g i (fun x => { x with status := .ending })))) ∧
    (turn s g i (specRegs [f.sa, f.sb]) → parks s (.yield f) .now) ∧
    (turn s g i (specRegs [f.sa]) → parks s (.yieldCycles f) (if sl.srcW f.sa = 0 then .now else .cycles (sl.srcW f.sa).toNat)) ∧
    (let va : VA := (sl.srcW f.sa).setWidth 48
     ∀ s1 loc, turn s g i (specRegs [f.sa, f.sb]) → va.toNat % 8 = 0 → inScratch va.toNat = false → s.reservedPtes g sl.dom [⟨0, va⟩] = [] →
      s.place g sl.dom .read sl.isU (some (g, i, sl.task.act)) va = (s1, .ok loc) → (∀ pa mt gr, loc = .mem pa mt gr → mt = 0) →
      parks s1 (.yieldWatch f) (.watch va loc (sl.srcW f.sb) (f.imm.extractLsb' 4 3))) ∧
    (∀ r, turn s g i (specRegs [f.sa, f.sb]) → barOf g sl.task.teamBar (sl.srcW f.sa) = some r → (s.bar r).owner = some sl.dom →
      parks s (.yieldPhase f) (.phase (sl.srcW f.sa) r ((sl.srcW f.sb).setWidth 32))) ∧
    (turn s g i [] →
      let fld := fun (k : Nat) => (f.imm.extractLsb' (20 - 4 * k) 4).toNat
      let ok := fun (n : BitVec 6) (k : Nat) => fld k = 15 ∨ n.toNat ≤ fld k
      let all := ok sl.cnt.ld 0 ∧ ok sl.cnt.st 1 ∧ ok sl.cnt.cp 2 ∧ ok sl.cnt.mx 3 ∧ ok sl.cnt.gx 4 ∧ ok sl.cnt.sd 5
      let acq := sl.eng.getLsbD 0 = true ∨ sl.eng.getLsbD 1 = true ∨ sl.eng.getLsbD 2 = true
      (¬ all → exec (.waitc f) s = .next s) ∧ (all → acq → exec (.waitc f) s = .next ((s.acquireDrop g).pcNext g i)) ∧
      (all → ¬ acq → exec (.waitc f) s = .next (s.pcNext g i)))

/-- The barrier instructions on a barrier of the domain: BARA arrives and writes the phase it arrived in, BARW then waits for that phase in its slot or
parked, BART writes whether a phase has passed; an allocation takes the lowest free barrier or writes all ones, a free one returns it (R221,
R299 to R303). What befalls a pod barrier is told to the pod: the reports of it, the barrier that a device other than the pod's first takes and
the phase it arrives in, which are free values there, are the model's choice (log 11).
An arrival at a barrier that this device counts, one that is not a pod's or is on the pod's first device, counts; the one that makes the count complete starts the next phase, and the phase before has then
passed: Passed(ph) holds of the phases less than 2^31 behind (R300, R301). -/
def Obligations.BarrierInstructions : Prop :=
  (∀ (s s2 : State) (g : CoreId) (i : SlotId) (f : FmtS) (r : BarRef) (ph : BitVec 32),
    let sl := s.slot g i
    let name := sl.srcW f.sa
    let u := s.commit g i
    let t := s2.putX g i f.dst (ph.setWidth 64)
    (turn s g i (specRegs [f.dst, f.sa]) → barOf g sl.task.teamBar name = some r → (s.bar r).owner = some sl.dom →
      (u.core g).released sl.task.act sl.acq r.isPod = true → (u.core g).heldOf sl.task.act = false → u.barArrive r = (s2, ph) →
      exec (.bara f) s = .next (t.pcNext g i) ∧
      (r.isQuad = true → (t.bar r).passed ph = true → exec (.barw f) s = .next (t.barGo g i)) ∧
      (r.isQuad = true → (t.bar r).passed ph = false → exec (.barw f) s = .next (t.modSlot g i (fun x => { x with status := .barWait r ph }))) ∧
      (r.isQuad = false → exec (.barw f) s = .next ((t.pcNext g i).parkTask g i (.phase name r ph)))) ∧
    (turn s g i (specRegs [f.dst, f.sa, f.sb]) → barOf g sl.task.teamBar name = some r → (s.bar r).owner = some sl.dom →
      exec (.bart f) s = .next (if (s.bar r).passed ((sl.srcW f.sb).setWidth 32) then ((s.putX g i f.dst 1).acquireDrop g).pcNext g i
        else (s.putX g i f.dst 0).pcNext g i)) ∧
    (let e := (sl.srcW f.sb).toNat
     let scope := (name.extractLsb' 8 3).toNat
     turn s g i (specRegs [f.dst, f.sa, f.sb]) → name.extractLsb' 11 53 = 0 → 2 ≤ scope → scope ≤ 5 → 0 < e → e < 2 ^ 20 → sl.level ≠ 0 →
      (scope = 5 → sl.level = 2) →
      (s.freeBarOf g scope = none → exec (.baraAlloc f) s = .next ((s.putX g i f.dst 0xFFFFFFFFFFFFFFFF).pcNext g i)) ∧
      (∀ n, s.freeBarOf g scope = some (r, n) →
        let told := match r with
          | .pod b => { s with reports := .pod b (.alloc sl.dom e) :: s.reports }
          | _ => s
        exec (.baraAlloc f) s =
          .next (((told.setBar r ⟨some sl.dom, none, e, 0, 0⟩).putX g i f.dst (BitVec.ofNat 64 (scope * 256 + n))).pcNext g i))) ∧
    (turn s g i (specRegs [f.sa]) → name.extractLsb' 8 3 ≠ 6 → barOf g none name = some r → (s.bar r).owner = some sl.dom →
      (s.bar r).team = none → s.barUsed r = false → sl.level ≠ 0 →
      let told := match r with
        | .pod b => { s with reports := .pod b .free :: s.reports }
        | _ => s
      exec (.baraFree f) s = .next ((told.setBar r Bar.free).pcNext g i))) ∧
  ((∀ (s : State) (r : BarRef), r.isPod = false ∨ Config.nodeNumber = 0 →
    let b := s.bar r
    (s.barArrive r).2 = b.phase ∧
    (b.a + 1 = b.e → (s.barArrive r).1.bar r = { b with a := 0, phase := b.phase + 1 } ∧ ((s.barArrive r).1.bar r).passed b.phase = true) ∧
    (b.a + 1 ≠ b.e → (s.barArrive r).1.bar r = { b with a := b.a + 1 } ∧ ((s.barArrive r).1.bar r).passed b.phase = false) ∧
    ∀ r', r' ≠ r → (s.barArrive r).1.bar r' = s.bar r') ∧
  (∀ (b : Bar) (n : Nat), n < 2 ^ 32 → (b.passed (b.phase - BitVec.ofNat 32 n) = true ↔ 1 ≤ n ∧ n < 2 ^ 31)))

/-- ENQ and ENQT, where every check passes: the command joins its queue, the counter goes up, and the number of the command, or 0, is written; where there
is no room ENQT writes 1 and ENQ waits; QSEQ writes the retirement count, and its err form the failures (R254, R256). -/
def Obligations.EnqueueAndQseq : Prop :=
  ∀ (s s1 : State) (g : CoreId) (i : SlotId) (f : FmtS),
    let sl := s.slot g i
    let q : QueueId := Fin.ofNat 4 (f.imm.extractLsb' 0 2).toNat
    let t := sl.tcw f.sa
    (∀ tids c, turn s g i (specRegs [f.dst] ++ quadRegs f.sa) → tcwQueue t.op q = true → t.w0.extractLsb' 48 6 = 0 → t.hdr.ok = true →
      s.tidFetchAll g i (tcwTids t) = (s1, .ok tids) → decodeTcw t = .ok c → tensorsOk c tids = true →
      (t.hdr.ntfy && !(s1.dom sl.dom).notify[q].getLsbD 63) = false → s1.domainFail g sl.dom t (cmdRanges c tids) = none →
      let u := s1.enqueue g i q t (cmdRanges c tids) tids
      ((s1.core g).enqFull q sl.cnt (cmdRanges c tids).length = false →
        exec (.enq f) s = .next ((u.putX g i f.dst (sl.q[q].seq + 1)).pcNext g i) ∧ exec (.enqt f) s = .next ((u.putX g i f.dst 0).pcNext g i)) ∧
      ((s1.core g).enqFull q sl.cnt (cmdRanges c tids).length = true →
        exec (.enq f) s = .next s1 ∧ exec (.enqt f) s = .next ((s1.putX g i f.dst 1).pcNext g i))) ∧
    (turn s g i (specRegs [f.dst]) →
      exec (.qseq f) s = .next ((if sl.eng.getLsbD q.val then (s.putX g i f.dst sl.q[q].ret).acquireDrop g else s.putX g i f.dst sl.q[q].ret).pcNext g i) ∧
      exec (.qseqErr f) s = .next ((s.putX g i f.dst (sl.q[q].err.setWidth 64)).pcNext g i))

/-! ## System instructions -/

/-- The CSR instructions: the old value is read, and the operand, its bits set, or its bits cleared is written as one step; below the level that may
read, a PRIV trap, and ILLEGAL for an index that is none (R95, R142).
Registers read back what was written, in the bits that they have, and a write leaves every other register of the domain as it was: FFLAGS,
FRM, the fault queue's, SPILL's, DEADQ, the gate table's, the tensor and region tables', the supervisor's and the core map
(R33, R37, R55, R96, R97, R194, R288, R297, R324, R327, R329). -/
def Obligations.CsrInstructions : Prop :=
  (∀ (s : State) (g : CoreId) (i : SlotId) (f : FmtS),
    let sl := s.slot g i
    let n := csrIndex f
    let old := s.csrGet g i n
    let a := sl.srcW f.sa
    (turn s g i (specRegs [f.dst]) →
      (Machine.csrDefined n = false → exec (.csrr f) s = .next (raise s g i ⟨.illegal, 0, 0⟩)) ∧
      (Machine.csrDefined n = true → sl.level.toNat < (csrRead n).toNat → exec (.csrr f) s = .next (raise s g i ⟨.priv, 0, 0⟩)) ∧
      (Machine.csrDefined n = true → (csrRead n).toNat ≤ sl.level.toNat → exec (.csrr f) s = .next ((s.putX g i f.dst old).pcNext g i))) ∧
    (turn s g i (specRegs [f.dst, f.sa]) → ∀ c ∈ ([(.csrw f, a), (.csrs f, old ||| a), (.csrc f, old &&& ~~~a)] : List (Instr × Word)),
      (∀ x, csrDenied n sl.level = some x → exec c.1 s = .next (raise s g i ⟨x, 0, 0⟩)) ∧
      (csrDenied n sl.level = none → csrRefused n a c.2 = true → exec c.1 s = .next (raise s g i ⟨.illegal, 0, 0⟩)) ∧
      (∀ t, csrDenied n sl.level = none → csrRefused n a c.2 = false → (0x100 ≤ n → n < 0x400 → (s.core g).released sl.task.act sl.acq false = true) →
        s.csrSet g i n c.2 = .ok t → exec c.1 s = .next ((t.putX g i f.dst old).pcNext g i)))) ∧
  (∀ (s t : State) (g : CoreId) (i : SlotId) (w : Word),
    (∀ c ∈ ([(1, 0x1F), (2, 7), (0x100, 0xFFFFFFFFFFFFFFFF), (0x101, 0xFFFFFFFFFFC0), (0x102, 0xFFFF), (0x103, 0xFFFFFFFF), (0x104, 0xFFFFFFFF),
        (0x10C, 0xFFFFFFFFF000), (0x10D, 0xFFF), (0x110, 0xFFFFFFFFFFFF), (0x114, 0xFFFFFFFFFFE0), (0x115, 0x1FF), (0x118, 0xFFFFFFFFFFC0),
        (0x11C, 0xFFFFFFFFFFC0), (0x120, 0xFFFFFFFFFFFFFFFF), (0x121, 0xFFFFFFFFFFFFFFFF), (0x130, 0xFFFFFFFFFFFFFFFF)] : List (Nat × Word)),
      s.csrSet g i c.1 w = .ok t → t.csrGet g i c.1 = w &&& c.2 ∧
        ∀ n, 0x100 ≤ n → n < 0x134 → n ≠ c.1 → t.csrGet g i n = s.csrGet g i n))

/-- The privileged instructions at level U raise PRIV, and so does DOMSET below H; nothing else happens before the trap (R19, R43, R142, R243, R333 to
R338). ILLEGAL for what the operands are at run time comes before it (R94): RESUME and ABORT of a handle that names no stopped command, or of an
address that is no frame of a task they may act on, raise ILLEGAL at level U too. -/
def Obligations.PrivilegeTraps : Prop :=
  ∀ (s : State) (g : CoreId) (i : SlotId) (f : FmtS),
    let sl := s.slot g i
    let priv := raise s g i ⟨.priv, 0, 0⟩
    (sl.level = 0 →
      let illegal := raise s g i ⟨.illegal, 0, 0⟩
      let va : VA := (sl.srcW f.sa).setWidth 48
      let given := if f.sb = Spec.none then none else some (sl.srcW f.sb)
      (turn s g i (specRegs [f.sa, f.sb]) →
        (s.frameTask g sl.dom va = .bad → exec (.resumeTask f) s = .next illegal) ∧
        ∀ c x, s.frameTask g sl.dom va = .task c x → exec (.resumeTask f) s = .next
          (if x.legal = true ∧ (given.getD x.s17 = x.s17 ∨ x.busy = false) then priv else illegal)) ∧
      (turn s g i (specRegs [f.sa]) →
        (∀ e ∈ [Instr.resumeCmd f, Instr.abortCmd f],
          exec e s = .next (if (s.stoppedCmd sl.dom (sl.srcW f.sa)).isSome = true then priv else illegal)) ∧
        (s.frameTask g sl.dom va = .bad → exec (.abortTask f) s = .next illegal) ∧
        ∀ c x, s.frameTask g sl.dom va = .task c x → exec (.abortTask f) s = .next priv) ∧
      (turn s g i (specRegs [f.sa, f.sb]) → (sl.srcW f.sa).toNat + (sl.srcW f.sb).toNat ≤ 2 ^ 48 → exec (.tlbinv f) s = .next priv) ∧
      (turn s g i (sRegs f) → (sl.srcW f.sb).toNat ≤ 4096 → exec (.pooladd f) s = .next priv)) ∧
    (sl.level ≠ 2 →
      (turn s g i (specRegs [f.dst, f.sa]) → s.scrubRefused ((sl.srcW f.sa).setWidth 8) = false → exec (.scrub f) s = .next priv) ∧
      (∀ q, turn s g i (specRegs [f.dst] ++ quadRegs f.sa) → domAsk g sl f = some q → (s.core q.t).domRefused q = false ∨ (q.wa = false ∧ q.wb = false) →
        exec (.domset f) s = .next priv))

/-- TLBINV, FENCEI, RESUME and ABORT where their level, their operands and the accesses before them let them act; a TLBINV holds its slot while
accesses that used what it drops are under way, and a RESUME or ABORT while a page that it looks at is awaited (R143, R286, R333, R334, R336, R337,
R365). A RESUME takes the task's frame as it finds it (R319).
No held translation that a TLBINV names is left on the cores of its scope: of its domain, its sizes and its range, global ones only where it
says so; those of other domains and of cores outside the scope stay (R336, R337). -/
def Obligations.SystemResults : Prop :=
  (∀ (s : State) (g : CoreId) (i : SlotId) (f : FmtS),
    let sl := s.slot g i
    let d := if sl.level = 2 then resumeDom f else sl.dom
    let mayAct := sl.level ≠ 0 ∧ (sl.level = 2 ∨ resumeDom f = 0) ∧ (s.core g).storesDone sl.task.act = true ∧
      (s.core g).released sl.task.act sl.acq false = true
    (turn s g i [] → (s.core g).storesDone sl.task.act = true → exec (.fencei f) s =
      .next ((s.modCore g (fun c => { c with fetched := c.fetched.filter (fun e => e.dom != sl.dom) })).pcNext g i)) ∧
    (turn s g i (specRegs [f.sa, f.sb]) → sl.level ≠ 0 → (s.core g).storesDone sl.task.act = true →
      let field : BitVec 8 := f.imm.extractLsb' 16 8
      let all := f.imm.getLsbD 13
      let lo := if all then 0 else (sl.srcW f.sa).toNat
      let len := if all then 2 ^ 48 else (sl.srcW f.sb).toNat
      let scope := (f.imm.extractLsb' 0 3).toNat
      let r : InvRange := ⟨if sl.level = 2 then field else sl.dom, lo, lo + len, f.imm.extractLsb' 8 4, f.imm.getLsbD 14⟩
      (sl.level = 2 ∨ field = 0) → lo + len ≤ 2 ^ 48 → len ≠ 0 →
      let uses := s.inFlight g scope r || s.tilesBusy r
      (uses = false → exec (.tlbinv f) s = .next ((s.tlbInv g scope r).pcNext g i)) ∧
      (uses = true → exec (.tlbinv f) s = .next (s.tlbInvFirst g scope r))) ∧
    (∀ h q m, turn s g i (specRegs [f.sa]) → mayAct → s.stoppedCmd d (sl.srcW f.sa) = some (h, q, m) →
      exec (.resumeCmd f) s = .next ((s.resumeStopped h q m).pcNext g i) ∧ exec (.abortCmd f) s = .next ((s.abortStoppedCmd h q m).pcNext g i)) ∧
    (let va : VA := (sl.srcW f.sa).setWidth 48
     mayAct →
      (∀ s1, s.frameTask g d va = .waits s1 → (turn s g i (specRegs [f.sa]) → exec (.abortTask f) s = .next s1) ∧
        (turn s g i (specRegs [f.sa, f.sb]) → exec (.resumeTask f) s = .next s1)) ∧
      ∀ c x, s.frameTask g d va = .task c x →
      (turn s g i (specRegs [f.sa]) → exec (.abortTask f) s = .next ((s.abortCont c).pcNext g i)) ∧
      (∀ h v image, turn s g i (specRegs [f.sa, f.sb]) → x.legal = true →
        s.resumeTarget d c x.s17 (if f.sb = Spec.none then none else some (sl.srcW f.sb)) = some (h, v) →
        (v = x.s17 ∨ x.busy = false) → s.resumeImage g c = .got image →
        exec (.resumeTask f) s = .next ((s.resumeCont g c h v image).pcNext g i)))) ∧
  (∀ (s : State) (g h : CoreId) (scope : Nat) (r : InvRange),
    (inScope scope g h = true → ((s.tlbInv g scope r).core h).tlb = (s.core h).tlb.filter (fun e => !r.drops e)) ∧
    (inScope scope g h = false → ((s.tlbInv g scope r).core h).tlb = (s.core h).tlb) ∧
    ∀ e, (r.drops e = true ↔ e.dom = r.d ∧ r.sizes.getLsbD e.level.val = true ∧ e.va < r.hi ∧ r.lo < e.va + 2 ^ levelShift e.level.val ∧
      (r.global = true ∨ pteBit e.pte 6 = false)))

/-- The instructions on tensor entries, where nothing holds them back and no earlier access that waits for its page has a byte of the entry in
common (R208): TIDW, TIDR and TIDAMX go to the entry's home in memory, and the core's cached copy goes with TIDW; VCVTQ writes the packed codes
and its statistics go there too, VCVTX the values (R35, R36, R154, R155, R263 to R265). -/
def Obligations.TensorInstructions : Prop :=
  ∀ (s t : State) (g : CoreId) (i : SlotId) (f : FmtS) (h : FmtR) (l : Loc),
    let sl := s.slot g i
    let who := some (g, i, sl.task.act)
    let flies := fun (k : PendKind) (es : List Elem) (d : LoadDest) (m : MemOp) => ((t.pushPend g i k es [] d m).pcNext g i).toPoint g t.nextPend
    let free := fun (d : Dom) (m : MemOp) (es : List Elem) => (t.core g).heldMeets d false [] (m.places es) = false
    let tid := tidNum f
    let va := s.tidVa sl.dom tid
    (turn s g i (eightRegs f.sa) → unheld s g i (tidOp true 64) → s.tidPlace g sl.dom tid false true who = (t, .ok l) →
      free sl.dom (tidOp true 64) [tidElem 0 va l 0] →
      let u := flies (.cp (.tidw ((List.range 8).map (fun k => sl.readX (xIndex f.sa + BitVec.ofNat 5 k))))) [tidElem 0 va l 0] .discard (tidOp true 64)
      exec (.tidw f) s = .next (u.modCore g (fun c =>
        { c with tidCache := c.tidCache.filter (fun e => !(e.dom == sl.dom && u.tidVa sl.dom e.tid == u.tidVa sl.dom tid)) }))) ∧
    (turn s g i (eightRegs f.dst) → unheld s g i (tidOp false 8) → s.tidPlace g sl.dom tid true false who = (t, .ok l) →
      let es := (List.range 8).map (fun k => tidElem k va l (8 * k))
      free sl.dom (tidOp false 8) es →
      exec (.tidr f) s = .next (flies (.cp .read) es (.xs (xIndex f.dst)) (tidOp false 8))) ∧
    (turn s g i (specRegs [f.dst]) → unheld s g i (tidOp false 8) → s.tidPlace g sl.dom tid false true who = (t, .ok l) →
      free sl.dom (tidOp false 8) [tidElem 0 va l 32] →
      exec (.tidamx f) s = .next (flies (.cp .tidamx) [tidElem 0 va l 32] (xDest f.dst false) (tidOp false 8))) ∧
    (turn s g i (rRegs h) →
      let m := sl.mask h.pn h.pred
      let n := 128 / h.ty.size
      let any := (List.range n).any (gov m h.ty.size)
      ∀ s1 ws e nf, s.tidFetch g sl.dom (tidImm h) sl.task.act who = (s1, .ok ws) → tidOf ws = some e → e.fmt = .narrow nf →
      (∃ v fl, exec (.vcvtx h) s = .next (s1.setSlot g i { (sl.wrV h.dst v).orFlags fl with pc := sl.pc + 8 }) ∧
        v = vmerge m h.ty.size (sl.oldV h.dst) (fun j =>
          (roundStd h.ty (sl.modeOf h.mode) h.sat (nf.value e.scale (packedCode nf.k (sl.vwhole h.sa) j))).1)) ∧
      (let r := vcvtqSlot h sl e nf
       (any = false → exec (.vcvtq h) s = .next (s1.setSlot g i { r.1 with pc := sl.pc + 8 })) ∧
       (any = true → sl.cnt.st ≠ 63 → unheld s1 g i (tidOp true 8) →
         let d := (s1.slot g i).dom
         let es := [tidElem 0 (s1.tidVa d (tidImm h)) l 32]
         s1.tidPlace g d (tidImm h) false true (some (g, i, (s1.slot g i).task.act)) = (t, .ok l) → free d (tidOp true 8) es →
         exec (.vcvtq h) s = .next ((flies (.cp (.stats r.2.1 r.2.2)) es .discard (tidOp true 8)).modSlot g i
           (fun x => { r.1 with cnt := x.cnt, pc := sl.pc + 8 })))))

/-- SCRUB and DOMSET at H: SCRUB ends all that a domain holds and writes the number of its tiles; DOMSET that writes nothing reads word B, and one that
neither saves nor restores writes its entry at once (R338, R339, R341). -/
def Obligations.ScrubAndDomset : Prop :=
  ∀ (s : State) (g : CoreId) (i : SlotId) (f : FmtS), (s.slot g i).level = 2 →
    let sl := s.slot g i
    (let d : Dom := (sl.srcW f.sa).setWidth 8
     turn s g i (specRegs [f.dst, f.sa]) → s.scrubRefused d = false → (s.core g).released sl.task.act sl.acq false = true →
      exec (.scrub f) s = .next (((s.scrubAll d).putX g i f.dst (BitVec.ofNat 64 (s.tilesOfDom d))).pcNext g i) ∧
      (s.scrubAll d).tilesOfDom d = 0 ∧ (∀ c ∈ (s.scrubAll d).conts, c.dom ≠ d) ∧ ∀ r, ((s.scrubAll d).bar r).owner ≠ some d) ∧
    (∀ q, turn s g i (specRegs [f.dst] ++ quadRegs f.sa) → domAsk g sl f = some q →
      let p := (s.core q.t).part[q.e]
      (q.wa = false → q.wb = false → exec (.domset f) s = .next ((s.putX g i f.dst p.b).pcNext g i)) ∧
      (q.wa = true ∨ q.wb = true → (s.core q.t).domRefused q = false → q.saves p = false → q.restores p = false →
        exec (.domset f) s = .next (((s.domApply q).putX g i f.dst p.b).pcNext g i)))

/-! ## Traps -/

/-- TRAP and BKPT raise SWTRAP and BKPT with their operands; a trap discards the task's loads in flight and, in the abort class, its uncommitted
messages and its reservation; where the fault queue takes the record, the class action follows (R311, R312, R317, R332). -/
def Obligations.TrapsTaken : Prop :=
  ∀ (s s1 : State) (g : CoreId) (i : SlotId) (f : FmtS) (t : Trap) (pc : VA) (word : Word),
    let sl := s.slot g i
    let n : BitVec 24 := (f.imm.extractLsb' 0 16).setWidth 24
    (turn s g i (specRegs [f.sa]) → exec (.trap f) s = .next (raise s g i ⟨.swtrap, if f.sa = Spec.none then 0 else sl.srcW f.sa, n⟩)) ∧
    (turn s g i [] → exec (.bkpt f) s = .next (raise s g i ⟨.bkpt, 0, n⟩)) ∧
    (sl.status = .running → raise s g i t = raiseAt s g i t sl.pc ((s.core g).wordAt sl.dom sl.pc)) ∧
    (t.code.cls ≠ 1 →
      let u := ((s.dropLoads g i).dropUncommitted g sl.task.act).dropReservation g i
      u.fqTry g sl.dom (u.faultOf g i t 0 pc word 0) = (s1, .put) →
        raiseAt s g i t pc word = s1.abortSlot g i t.code sl.heldFrame (u.faultOf g i t 0 pc word 0)) ∧
    (t.code.cls = 1 → ∀ fr s2 s3,
      (s.dropLoads g i).trySave g i (.suspend t pc word none) (if t.code = .bkpt then pc + 8 else pc) 1 .now = (s1, .saved fr) →
      s2 = (s1.addCont g i fr .now true).modSlot g i (fun x => { x with task := { x.task with act := 0 } }) →
      s2.fqTry g (s1.slot g i).dom (s1.faultOf g i t 1 pc word fr) = (s3, .put) →
        raiseAt s g i t pc word = (s3.dropInbox g (s3.slot g i).task).leaveSlot g i .free)

/-- The record of an aborted task returns with REPLAY one higher; with REPLAY 3 it becomes a dead letter; after SENDQFULL it returns as it is, barred
until the share has room; a record from the deque goes back to its top and its slot is free (R312 to R315).
The fields of a fault record (R322). -/
def Obligations.TrapRecords : Prop :=
  (∀ (s s1 : State) (g : CoreId) (i : SlotId) (t : Task) (code : TrapCode) (r : FaultRec) (e : PartId) (barred : Bool) (tr : TaskRec),
    (code = .sendqfull → s.abortReturn g (some i) t code r = s.returnRecord g (some i) t t.tr true) ∧
    (code ≠ .sendqfull → t.tr.replay = 3 → s.abortReturn g (some i) t code r = s.deadLetter g (some i) t r) ∧
    (code ≠ .sendqfull → t.tr.replay ≠ 3 → s.abortReturn g (some i) t code r = s.returnRecord g (some i) t (t.tr.withReplay (t.tr.replay + 1)) false) ∧
    (t.source = .deque → (s.core g).entryOf tr.dom = some e → s.pushTop g e ⟨tr, barred, false⟩ = (s1, true) →
      s.returnRecord g (some i) t tr barred = s1.leaveSlot g i .free ∧ ((s1.leaveSlot g i .free).slot g i).status = .free)) ∧
  (∀ (s : State) (g : CoreId) (i : SlotId) (t : Trap) (cls : Nat) (pc : VA) (word : Word) (frame : VA), cls < 4 →
    let sl := s.slot g i
    let r := (s.faultOf g i t cls pc word frame).dws
    (r[0].extractLsb' 56 8).toNat = t.code.num ∧ (r[0].extractLsb' 54 2).toNat = cls ∧ r[0].extractLsb' 52 2 = sl.level ∧
    (r[0].extractLsb' 48 4).toNat = i.val ∧ r[0].extractLsb' 38 10 = s.ownNumber sl.dom g ∧ r[0].extractLsb' 32 6 = 0 ∧ r[0].extractLsb' 24 8 = sl.dom ∧
    r[0].extractLsb' 0 24 = (if t.code ∈ [TrapCode.swtrap, .bkpt, .gate] then t.info else 0) ∧ r[1] = pc.setWidth 64 ∧
    r[2] = (if t.code ∈ [TrapCode.align, .domain, .page, .access, .allocfail, .poison, .miglost, .swtrap] then t.addr else 0) ∧ r[3] = word ∧
    r[4] = sl.task.tr.dw0 ∧ r[5] = sl.task.tr.dw7 ∧ r[6] = frame.setWidth 64 ∧ r[7] = s.timeOf sl.dom)

/-! ## Tile commands -/

/-- Every tile command completes where its work is done: it then stands in its queue as done with status OK and its result, its progress
noted (R258, R266 to R281). DISPATCH passes to the front end; ACCUM in its ordered mode waits for its homes. -/
def Obligations.CommandsComplete : Prop :=
  ∀ (s : State) (g : CoreId) (q : QueueId) (m : Cmd), engineTurn s g q m →
    let ends := fun (e : Instr) (t : State) (f : Cmd → Cmd) (r : Word) =>
      exec e s = .next ((t.modCmd g q m.pos f).modCmd g q m.pos (fun x => { x with st := .done stOk r }))
    let upTo := fun (k : Nat) (x : Cmd) => { x with progress := k }
    let kept := fun (k : Nat) (b : List Byte) (x : Cmd) => { x with progress := k, buf := b }
    (∀ c t k b, s.copyRun g q m c.src.toNat c.dst.toNat c.len.toNat m.progress m.buf = (t, k, b, .done) → ends (.copy c) t (kept k b) 0) ∧
    (∀ c t k b, let n := c.rb.toNat + 1
      s.copyRows g q m c (c.rows.toNat + 1 - m.progress / n) (m.progress % n) m.buf = (t, k, b, .done) → ends (.copy2 c) t (kept k b) 0) ∧
    (∀ c t k, s.engWriteRun g q m (s.pieceCap 1) (c.dst.toNat + m.progress) (s.turnFuel c.len.toNat)
        (fillBytes c.pat m.progress (c.len.toNat - m.progress)) = (t, k, .done) → ends (.fill c) t (upTo (m.progress + k)) 0) ∧
    (∀ mirror c s1 t k n b, (m.progress = 0 ∧ m.buf = [] → s.xcopyCheck g q m mirror c = (s1, .done)) →
      (m.progress ≠ 0 ∨ m.buf ≠ [] → s1 = s) →
      s1.xcopyGo g q m mirror c (s.turnFuel c.len.toNat) m.progress m.count m.buf = (t, k, n, b, .done) →
      ends (.xcopy mirror c) t (fun x => { x with progress := k, count := n, buf := b }) (BitVec.ofNat 64 n)) ∧
    (∀ c t k b, s.accumPieces g q m c (s.turnFuel c.len.toNat) m.progress m.buf = (t, k, b, .done) → ends (.accum c) t (kept k b) 0) ∧
    (∀ c t k b, s.sendContribs g q m c (s.turnFuel c.len.toNat) m.sent m.buf = (t, k, b, .done) →
      exec (.accumOrdered c) s = .next ((t.modCmd g q m.pos (fun x => { x with sent := k, buf := [], st := .issued })).accumDone g q m.pos)) ∧
    (∀ (c : MmaCmd) a b s1 s2 s3 t k n b', m.tensors = [a, b] →
      let A : MOperand := ⟨a, c.arow.toNat, c.acol.toNat, c.ta⟩
      let B : MOperand := ⟨b, c.brow.toNat, c.bcol.toNat, !c.tb⟩
      let kbs := c.kb.toNat + 1
      (m.progress = 0 → s.operandOk g m a (A.pages kbs) = (s1, .done) ∧ s1.operandOk g m b (B.pages kbs) = (s2, .done)) →
      (m.progress ≠ 0 → s2 = s) → s2.mmaBlocks g q m c A B kbs (kbs - m.progress) m.count m.buf = (s3, k, n, b', .done) →
      s3.mmaSkips g q m c.skva.toNat n = (t, .done) → ends (.mma c) t (fun x => { x with progress := k, count := n, buf := [] }) (BitVec.ofNat 64 n)) ∧
    (∀ (c : MldaCmd) a t bs, m.tensors = [a] →
      let b : Block := ⟨c.row.toNat, 64, c.col.toNat, 64⟩
      s.readBlock g q m a b m.progress = (t, bs, .done) →
      let code := fun (k : Nat) => a.code b (m.buf ++ bs) (spotOf c.tr k).1 (spotOf c.tr k).2
      let elem := fun (k : Nat) => ((roundStd .f32 .rne false (a.value (code k))).1).setWidth 32
      ends (.mlda c) (t.modCore g (fun x => { x with acc := accPut x.acc c.acc.toNat elem })) (kept (a.blockLen b) []) 0) ∧
    (∀ (c : MstaCmd) a s1 t k, m.tensors = [a] →
      let b : Block := ⟨c.row.toNat, 64, c.col.toNat, 64⟩
      let z := a.span b
      let elem := fun (n k : Nat) => accGet (s.core g).acc (accIndex c.acc.toNat (if c.tr then k else n) (if c.tr then n else k))
      s.writeRows g q m a b (fun n k => a.encode (resolveMode c.mode m.frm) c.sat (elem n k)) (64 - m.progress / z) (m.progress % z) = (s1, k, .done) →
      s1.mstaStats g q m c.acc.toNat = (t, .done) →
      ends (.msta c) (if c.clr then t.modCore g (fun x => { x with acc := accPut x.acc c.acc.toNat (fun _ => 0) }) else t) (upTo k) 0) ∧
    (∀ c, ends (.mzero c) (s.modCore g (fun x => { x with acc := x.acc.filter (fun e => !c.mask.getLsbD (e.1 / 4096)) })) id 0) ∧
    (∀ c t k, s.engWriteRun g q m (s.pieceCap 4) (c.va.toNat + m.progress) (s.turnFuel 16384) ((accBytes (s.core g).acc c.acc.toNat).drop m.progress) = (t, k, .done) →
      ends (.msave c) t (upTo (m.progress + k)) 0) ∧
    (∀ c t bs, s.readSome g q m (fun _ => true) 4 (c.va.toNat + m.progress) (s.turnFuel 16384) (16384 - m.progress) = (t, bs, .done) →
      ends (.mrstr c) (t.modCore g (fun x => { x with acc := accOfBytes x.acc c.acc.toNat (m.buf ++ bs) })) (kept 16384 []) 0) ∧
    (∀ c t x,
      let rows := fun move => s.entries g q m c move (c.count.toNat + 1 - m.progress) m.count
        (if m.buf.isEmpty then none else some (numOf m.buf)) = (t, x, .done)
      let row := gRow c
      let at_ := fun (y : Cmd) => { y with progress := x.done, count := x.off, buf := x.row.elim [] (bytesOf 8) }
      (rows (fun s i j off => s.gatherRow g q m (gTblVa c j) (gDenseVa c i) row (s.turnFuel row) off) → ends (.gather c) t at_ 0) ∧
      (rows (fun s i j off => s.scatterRow g q m (gDenseVa c i) (gTblVa c j) row (s.turnFuel row) off) → ends (.scatter c) t at_ 0) ∧
      (rows (fun s i j off => s.addRow g q m c.ety (gDenseVa c i) (gTblVa c j) row (s.turnFuel (2 * row)) off) →
        ends (.scatterAdd c) t at_ 0)) ∧
    (∀ c t x, s.sums g q m c (c.count.toNat + 1 - m.progress) ⟨m.progress, m.count, sumRunOf (gRow c) m.buf⟩ = (t, x, .done) → x.run.isNone = true →
      ends (.gsum c) t (fun y => { y with progress := x.done, count := x.segs, buf := [] }) (BitVec.ofNat 64 x.segs)) ∧
    (∀ c, exec (.dispatch c) s = .next (s.modCmd g q m.pos (fun x => { x with st := .issued }))) ∧
    (∀ h, (s.core g).queues[q].takeWhile (fun x => x.pos != m.pos) = [] → ends (.signal h) s id 0)

/-- COPY and FILL within banks of the core's scratch that the command's domain holds: the destination ends with the bytes that the source
held when the command began, overlap or not (the overlap is the model's choice, log 16), or with the pattern; every other byte of scratch and all of
memory are as before, and the command is done (R163, R266, R267, R269). -/
def Obligations.CopiesInScratch : Prop :=
  ∀ (s : State) (g : CoreId) (q : QueueId) (m : Cmd), engineTurn s g q m → s.piece = 0 → m.progress = 0 → m.buf = [] →
    Memory.wf zeroByte (s.core g).scratch = true →
    let mine := fun (va len : Nat) => va + len ≤ 2 ^ 48 ∧ ∀ a, va ≤ a → a < va + len → inScratch a = true ∧ (s.core g).bankOk m.dom a = true
    let done := fun (e : Instr) (dst : Nat) (bs : List Byte) => ∃ t, exec e s = .next t ∧
      (t.core g).scratchRead (dst - scratchBase) bs.length = bs ∧
      onlyScratch s t g (fun a => a < dst - scratchBase ∨ dst - scratchBase + bs.length ≤ a) ∧
      ((t.core g).cmdAt q m.pos).map (fun x => x.st) = some (.done stOk 0)
    (∀ c : CopyCmd, mine c.src.toNat c.len.toNat → mine c.dst.toNat c.len.toNat →
      done (.copy c) c.dst.toNat ((s.core g).scratchRead (c.src.toNat - scratchBase) c.len.toNat)) ∧
    (∀ c : FillCmd, mine c.dst.toNat c.len.toNat → done (.fill c) c.dst.toNat (fillBytes c.pat 0 c.len.toNat))

/-! ## Device events -/

/-- The events of the coherence network: what each message does where it is its turn (R170, R171, R173, R174, R176, R177, R182 to R185,
R205, R225, R232, R247, R252, R253, R307 to R309).
A slice accepts requests while fewer than 32 of those it has accepted await their turn at its port (R183, R253). A fill is accepted where its slice
has room, or its visitor slice asks for the grains it lacks, and what hits answers in the order of acceptance. A registration is acknowledged once
its bytes are the requester's. A request of a die for a grain is answered by the home where no entry or S is found, by the owner otherwise. An
access is performed at its coherence point once the grains it needs are held.
A migrating page moves at once where nothing is under way for it, else once that has drained.
Pulls: an attempt of 20 µs without data is made again, and the third one fails the page; when the data have arrived the pull is over and
what waited for the page goes on (R365, R366).
The model's choices in it: how a domain without ways of the L2 is served (log 8), which messages an answer to a recall may overtake, where R252
excepts none (log 33), how the host's grants and a directory's back-invalidations go with the request that brings them about (log 34), and that a
registration first sends invalidations to the dies that hold its grain and RdNA reads its grain when it is answered (log 35). -/
def Obligations.CoherenceEvents : Prop :=
  (∀ (s : State) (n : Nat),
    let t := s.dropMsg n
    let gives := fun (e : Instr) (u : State) => exec e s = .next u
    (∀ g dom pa data keep bad, s.net[n]? = some (.fillResp g dom pa data keep bad) → s.portTurn g ⟨pa, data.length⟩ = true →
      let u := (t.modDie g.die (fun x => x.portLeave g ⟨pa, data.length⟩)).modCore g (fun c => c.arrived dom ⟨pa, data.length⟩)
      let v := if keep then u.fillEntry g dom pa data bad else u
      gives (.l1FillResponse n) ((((v.core g).pend.map (fun p => p.id)).foldl (fun (s : State) id => s.fillLoad g dom pa data bad id) v).tryAll g)) ∧
    (∀ g dom r grain, s.net[n]? = some (.fillReq g dom r grain) → s.inOrder n g r.pa = true →
      (((s.die g.die).sliceQ[homeSlice r.pa]).filter (fun x => x.2.2)).length < 32 →
      let lacks := s.fillLacks g r grain
      (lacks = [] ∨ s.l2ways g.die dom = 0 → gives (.homeFillRequest n) (t.serveFill g dom r)) ∧
      (lacks ≠ [] → s.l2ways g.die dom ≠ 0 →
        gives (.homeFillRequest n) ((s.setMsg n (.farRead g dom r grain)).send (s.askGrains g dom lacks)))) ∧
    (∀ g dom r, s.net[n]? = some (.hbmRead g dom r) →
      let lo := r.pa / 64 * 64
      let wide := runsMinus [⟨lo, (r.pa + r.len + 63) / 64 * 64 - lo⟩] ((s.die g.die).l2.map (fun e => (⟨e.pa, e.len⟩ : Run)))
      let kept := if visited g.die r.pa then t else wide.foldl (fun s q => s.l2Allocate g.die (s.l2ways g.die dom) q) t
      gives (.hbmRead n) ((kept.modDie g.die (fun x => x.portJoin g r false)).send
        [.fillResp g dom r.pa (s.cohRead r.pa r.len) true (s.badIn r)])) ∧
    (∀ g dom r grain, s.net[n]? = some (.farRead g dom r grain) → s.accepts g.die r.pa = true →
      (s.fillLacks g r grain = [] ∨ s.l2ways g.die dom = 0 → gives (.hbmRead n) (t.serveFill g dom r))) ∧
    (∀ o g dom r, s.net[n]? = some (.fwdRead o g dom r) →
      gives (.forwardedRead n) (t.send [.fillResp g dom r.pa (s.cohRead r.pa r.len) true (s.ownedPoison o r)])) ∧
    (∀ g id r grain, s.net[n]? = some (.reg g id r grain) → s.inOrder n g r.pa = true → s.accepts g.die r.pa = true →
      let dom := s.pendDom g id
      s.regNeeds g dom r grain = none →
      (visited g.die r.pa = false ∨ (s.l2ways g.die dom ≠ 0 ∧ (s.registerVisitor g dom r grain).2 = true) →
        ∃ u, gives (.registration n) u ∧ ⟨r.pa, r.len, g⟩ ∈ (u.die g.die).owned ∧ .regAck g id r ∈ u.net) ∧
      (visited g.die r.pa = true → s.l2ways g.die dom = 0 → ∃ u, gives (.registration n) u ∧ .regAck g id r ∈ u.net)) ∧
    (∀ g id r, s.net[n]? = some (.regAck g id r) → gives (.registrationAck n) (t.storeAck g id)) ∧
    (∀ o r, s.net[n]? = some (.recall o r) → ∃ u, gives (.recall n) u ∧ .dereg o r true ∈ u.net) ∧
    (∀ g pa data dereg rec_ id bad, s.net[n]? = some (.writeBack g pa data dereg rec_ id bad) →
      (if rec_ then s.inOrderBytes n g ⟨pa, data.length⟩ else s.inOrder n g pa) = true → s.accepts g.die pa = true →
      let u := (t.accepted g.die pa).levelWrite g.die pa data bad
      let v := if dereg then u.modDie g.die (fun d => { d with owned := ownedDrop d.owned g ⟨pa, data.length⟩ }) else u
      gives (.writeBack n) (match id with
        | some id => v.flushed g id
        | none => v)) ∧
    (∀ g r rec_, s.net[n]? = some (.dereg g r rec_) → (if rec_ then s.inOrderBytes n g r else s.inOrder n g r.pa) = true →
      s.accepts g.die r.pa = true →
      gives (.deregistration n) ((t.accepted g.die r.pa).modDie g.die (fun d => { d with owned := ownedDrop d.owned g r }))) ∧
    (∀ d dom q, s.net[n]? = some (.rds d dom q) → s.grainBusy q = false → s.homeAccepts q = true →
      let u := t.atHome d q
      let lacks := ((s.die d).grain q).isSome = false ∧ s.l2ways d dom ≠ 0 ∧ u.oddGrain q = false
      (((s.die d).grain q).isSome = true → gives (.rds n) (u.dirTouch q)) ∧
      (((s.die d).grain q).isSome = false → s.l2ways d dom = 0 → gives (.rds n) u) ∧
      (lacks → u.dirGet q = none → gives (.rds n) (u.grantHome d dom q 0 false)) ∧
      (∀ e, lacks → u.dirGet q = some e → e.st = .s ∨ e.owner = none → gives (.rds n) (u.grantHome d dom q e.dies true)) ∧
      (∀ e o, lacks → u.dirGet q = some e → e.st ≠ .s → e.owner = some o → gives (.rds n) (u.send [.snoop o (.rds dom) d q]))) ∧
    (∀ d dom q, s.net[n]? = some (.rdown d dom q) → s.grainBusy q = false → s.homeAccepts q = true →
      let u := t.atHome d q
      let lacks := (s.die d).ownsGrain q = false ∧ s.l2ways d dom ≠ 0 ∧ s.oddGrain q = false
      ((s.die d).ownsGrain q = true → gives (.rdown n) (u.dirTouch q)) ∧
      ((s.die d).ownsGrain q = false → s.l2ways d dom = 0 → gives (.rdown n) u) ∧
      (lacks → s.dirGet q = none → gives (.rdown n) (u.grantHome d dom q 0 false)) ∧
      (∀ e, lacks → s.dirGet q = some e →
        let others := (diesOf e.dies).filter (fun h => h != d && some h != e.owner)
        (others ≠ [] → gives (.rdown n) (s.send (others.map (fun h => Msg.inval h q)))) ∧
        (others = [] → e.owner = none → gives (.rdown n) (u.grantHome d dom q 0 false)) ∧
        (others = [] → e.owner = some d → gives (.rdown n) ((u.visitorState d dom [q] .m).dirPut q (dieBit d) (some d) .em)) ∧
        ∀ o, others = [] → o ≠ d → e.owner = some o → gives (.rdown n) (u.send [.snoop o (.rdown dom) d q]))) ∧
    (∀ g id d q, s.net[n]? = some (.rdna g id d q) → s.grainBusy q = false → s.homeAccepts q = true →
      let u := t.atHome d q
      u.dirGet q = none → gives (.rdna n) (u.readGrain g id q)) ∧
    (∀ o d q, let u := (t.crossed (dieOf q.pa) o).crossed o d
      ((u.die o).grain q).isSome = true →
      (∀ dom, s.net[n]? = some (.snoop o (.rds dom) d q) → u.l2ways d dom ≠ 0 → gives (.snoopForward n) (u.supply o d dom false q)) ∧
      (∀ dom, s.net[n]? = some (.snoop o (.rdown dom) d q) → u.l2ways d dom ≠ 0 → gives (.snoopForward n) (u.supply o d dom true q)) ∧
      ∀ g id, s.net[n]? = some (.snoop o (.rdna g id) d q) → gives (.snoopForward n) (u.readGrain g id q)) ∧
    (∀ h q, s.net[n]? = some (.inval h q) → gives (.invalidation n) ((t.crossed (dieOf q.pa) h).dropHolding h q)) ∧
    (∀ d v, (s.die d).visitors[n]? = some v → gives (.visitorEviction d n) (s.dropHolding d ⟨v.pa, v.data.length⟩)) ∧
    (∀ g id p op v, s.net[n]? = some (.cp g id) → (s.core g).pendOf id = some p → p.kind = .cp op →
      s.pointWaits g p op = false → s.pointAccepted n g p = true → s.pointNeeds g p op = ([], []) →
      let u := (p.step.1.filterMap (s.elemSlice g p.dom)).eraseDups.foldl (fun (s : State) x => s.modDie x.1 (fun y => y.sliceCount x.2 0)) t
      (u.performPoint g p op false = some v → gives (.coherencePointResponse n) (v.tryAll g)) ∧
      (op = .lr → u.performPoint g p .lr true = some v → gives (.reservationTableEviction n) (v.tryAll g))) ∧
    (∀ g id pa data, s.net[n]? = some (.through g id pa data) → s.inOrder n g pa = true → s.accepts g.die pa = true →
      gives (.coherencePointResponse n)
        ((((t.accepted g.die pa).unshadow g id ⟨pa, data.length⟩).storeFrom g.die (s.pendDom g id) pa data).storeAck g id)) ∧
    (∀ g id lid, s.net[n]? = some (.posted g id lid) →
      let u : State := { t with launches := t.launches.map (fun l => if some l.lid = lid then { l with remote := l.remote - 1 } else l) }
      gives (.remoteAcknowledgement n) (match (u.core g).pendOf id with
        | some p => (u.finishPoint g p).tryAll g
        | none => u)) ∧
    (∀ d va dst m, s.migrationOf d va dst = some m → (∀ x ∈ s.migrations, x.src ≠ m.src) →
      let u : State := { s with migrations := m :: s.migrations }
      gives (.pageMigration d va dst) (if u.drained m then u.moveFrame m else u))) ∧
  (∀ (s : State) (n : Nat) (h : DieId) (p : Pull), s.pullAt n = some (h, p) →
    let tries := ((s.pullWord h p.entry 3).extractLsb' 4 4).toNat
    (s.time < p.since + 20000 → exec (.pullAttemptTimeout n) s = .next s) ∧
    (p.since + 20000 ≤ s.time → 3 ≤ tries → exec (.pullAttemptTimeout n) s = .next (s.pullFail h p)) ∧
    (p.since + 20000 ≤ s.time → tries < 3 → ∃ t, exec (.pullAttemptTimeout n) s = .next t ∧
      ∀ x ∈ (t.die h).pulls, x.dpa = p.dpa → x.since = s.time) ∧
    (∃ u : State, exec (.pullComplete n) s = .next u.heldAll ∧ (∀ x ∈ (u.die h).pulls, x.dpa ≠ p.dpa)))

/-- The events of scheduling: starts, steals, slices, budgets, quotas, wakes and the drain of a domain (R58 to R63, R69, R313, R331, R342,
R348, R349). -/
def Obligations.SchedulingEvents : Prop :=
  ∀ (s : State) (g : CoreId) (i : SlotId) (e : PartId) (n : Nat),
    let gives := fun (e : Instr) (u : State) => exec e s = .next u
    let p := (s.core g).part[e]
    ((s.slot g i).status = .free → (∀ j < i, s.wantsStart g j = false) →
      (∀ o, s.owedFor g i = some o → gives (.slotStart g i) (s.payOwed g i o)) ∧
      (∀ t x, s.owedFor g i = none → s.pickEntry g i = some e → s.itemAfter g e = (t, some x) → gives (.slotStart g i)
        ((t.startItem g i e x).modCore g (fun c => { c with steal := { c.steal with wait := s.cycle } })))) ∧
    (∀ thief d k r, s.steals[n]? = some (.ask thief g d) → (s.core g).entryOf d = some k →
      ((s.core g).part[k].live.length ≠ 1 ∨ s.ownerTakes g k = false) →
      (s.core g).part[k].live.find? (fun x => x.tr.stl) = some r → ∃ t, gives (.stealRequest n) t ∧
      (t.core g).part[k].deque = (s.core g).part[k].deque.erase r ∧ .answer thief d (some r.tr) ∈ t.steals) ∧
    (∀ d tr t, s.steals[n]? = some (.answer g d (some tr)) → (s.dropSteal n).takeStolen g d tr = (t, true) →
      gives (.stealAnswer n) (t.setSteal g ⟨(s.core g).steal.round + 1, none, s.cycle, false⟩)) ∧
    ((s.core g).steal.asking = none → (s.core g).steal.wait ≤ s.cycle → s.idle g = true → s.stealEntry g = some e →
      gives (.stealRoundWait g) ((s.setSteal g { (s.core g).steal with lost := false }).askNext g p.dom 0)) ∧
    ((s.core g).roundDue s.cycle = true → gives (.sliceRoundStart g) (s.modCore g (fun c => c.startRound s.cycle))) ∧
    (p.closeDue s.cycle = true → ∃ t, gives (.sliceClose g e) t ∧
      let x := (t.core g).part[e]
      x.slice = .closed ∧ (∀ u len, p.slice = .opened u len → x.debt = p.debt - (p.sliceNow - len) ∧
        x.overrun = if (s.core g).holds p.dom = 0 then none else p.overrun.or (some u)) ∧
      ∀ latest, p.slice = .deferred latest → p.openDeferred s.cycle = none → x.debt = p.debt - p.sliceNow) ∧
    (∀ latest, p.slice = .deferred latest → p.overrun = none → p.freedAt + 1 ≤ s.cycle → p.freedAt + 1 < latest →
      ∃ t, gives (.sliceDeferredOpen g e) t ∧
      (t.core g).part[e].slice = .opened (min (p.freedAt + 1 + (p.sliceNow - p.debt)) latest) (p.sliceNow - p.debt)) ∧
    ((s.slot g i).status = .running ∨ (∃ b ph, (s.slot g i).status = .barWait b ph) ∨ (∃ w a told, (s.slot g i).status = .frameWait w a told) →
      (s.slot g i).task.budget < s.cycle - (s.slot g i).task.since → gives (.budgetExpiry g i) (raise s g i ⟨.budget, 0, 0⟩)) ∧
    (p.egressWin ≠ s.windowNow → ∃ t, gives (.egressWindow g) t ∧ ∀ f : PartId, (t.core g).part[f].egressWin = s.cycle / 1024 ∧
      ((s.core g).part[f].egressWin ≠ s.cycle / 1024 → (t.core g).part[f].egressUsed = 0 ∧
        (t.core g).part[f].egressCap = (s.core g).part[f].egress)) ∧
    (∀ c a, s.conts[n]? = some c → c.wake = .cycles a → c.since + a ≤ s.cycle → c.startable = false → c.suspended = false →
      ∃ t, gives (.wakeCycles n) t ∧ ∀ x ∈ t.conts, x.id = c.id → x.startable = true) ∧
    (∀ w c a t x l, s.watches[n]? = some w → w.reread = some a → a ≤ s.cycle → s.conts.find? (fun c => c.id == w.cont) = some c →
      s.watchedWord c.home w.dom w.va w.loc = (t, some (x, l)) → gives (.watchReread n) (if x ≠ w.expected then t.wake w.cont
        else { t with watches := t.watches.set n { w with reread := some (t.cycle + 1024) } })) ∧
    (p.state = 2 → s.tasksGone g p.dom = true → s.stealing g p.dom = false →
      (s.conts.find? (fun x => x.home == g && x.dom == p.dom && x.suspended && (s.core g).uncommitted x.act != 0) = none) →
      (∀ q : QueueId, (s.core g).queues[q].all (fun m => m.dom != p.dom) = true) → (s.core g).sendBuf.all (fun m => m.dom != p.dom || !m.committed) = true →
      gives (.drain g e) (s.drainOut g e)) ∧
    (∀ d size w t, s.poolWrite 0 d none size w = .ok t → gives (.framepoolWrite d size w) t)

/-- The events of messages and of what waits for memory: acceptance, arrival, the waystation, records and frames that wait, dead letters, pod
barriers (R291 to R296, R299, R321, R325 to R329, R348, R381).
The model's choices in it: that a dead letter whose queue pages cannot be reached waits as one does that finds the queue full, and the
coalescing of notices (log 9), what the devices of a pod tell each other of its barriers and how a device other than the first goes by it
(log 11), and that a reply of a share may leave before requests of it that find no room (log 37). -/
def Obligations.MessageEvents : Prop :=
  ∀ (s t : State) (g : CoreId) (i : SlotId) (n : Nat) (d : Dom) (vn : Bool),
    let gives := fun (e : Instr) (u : State) => exec e s = .next u
    let sent := fun (u : State) (h : CoreId) (tr : TaskRec) => ({ u with transit := u.transit ++ [⟨g, h, tr, false⟩] } : State)
    (∀ m, (s.core g).sendBuf[n]? = some m → s.mayLeave g n m = true →
      (∀ h, m.target = .local_ h → s.roomFor h m.tr = (t, .yes) → gives (.networkAcceptance g n) (sent (t.leaveBuffer g n m) h m.tr)) ∧
      (∀ node core, m.target = .peer node core →
        (∃ u, gives (.networkAcceptance g n) u ∧ u.reports.head? = some (.message node core m.tr.words) ∧ (u.core g).sendBuf = (s.core g).sendBuf.eraseIdx n) ∧
        (let u := s.leaveBuffer g n m
         gives (.fabricMessageRefusal g n)
           (u.noticeOwn g m.dom (u.noticeOf m.dom 6 m.dom 0x3FF 0 (BitVec.ofNat 64 (node.toNat * 1024 + core)) m.tr.dw0 m.tr.dw7 0))))) ∧
    (∀ m h v, (s.core g).outside[n]? = some m → m.target = .vcore v → s.mapTarget m.dom v = some (.local_ h) → s.roomFor h m.tr = (t, .yes) →
      gives (.supervisorRecordRelease g n) (sent (t.modCore g (fun c => { c with outside := c.outside.eraseIdx n })) h m.tr)) ∧
    (∀ m, s.transit[n]? = some m → (s.transit.take n).any (fun x => x.src == m.src && x.g == m.g && x.tr.dom == m.tr.dom && x.tr.vn == m.tr.vn) = false →
      s.mayPlace m.g m.tr = true → s.placeMessage m.g m.tr m.barred = (t, true) → gives (.messageArrival (.transit n)) { t with transit := t.transit.eraseIdx n }) ∧
    (∀ node core ws, let r := s.node node
      r.cls = .peer ∧ r.mask.getLsbD (TaskRec.ofWords ws false).dom.toNat = true →
      ∀ h : CoreId, finOf 768 core = some h → s.mayPlace h (TaskRec.ofWords ws false) = true → s.placeMessage h (TaskRec.ofWords ws false) false = (t, true) →
      gives (.messageArrival (.fabric node core ws)) { t with reports := .answer node true [] :: t.reports }) ∧
    (let r := (s.core g).rank d vn
     (r.spilling = true → r.retry ≤ s.cycle → gives (.waystationReload g d vn) (s.wayReload g d vn)) ∧
     (r.retry ≠ 0 → r.retry ≤ s.cycle → r.spilling = true → gives (.waystationRetry g d vn) ((s.setRank g { r with retry := 0 }).wayReload g d vn))) ∧
    (∀ w a told, (s.slot g i).status = .frameWait w a told → s.overBudget g i = false →
      ((s.dom (s.slot g i).dom).fpFree ≠ 0 → gives (.frameFreedProceed g i) (s.retryHold g i w told)) ∧
      (a ≤ s.cycle → gives (.framePoolRetry g i) (s.retryHold g i w told))) ∧
    (∀ rest, (s.dom d).fqFull = false →
      let drop := fun (u : State) => u.modDom d (fun x => { x with fqWait := rest })
      let writes := fun (u : State) => ((s.dom d).fqRetry = 0 → gives (.faultRecordWrite d) u) ∧
        ((s.dom d).fqRetry ≠ 0 → (s.dom d).fqRetry ≤ s.cycle → gives (.faultQueueRetry d) u)
      (∀ r, (s.dom d).fqWait = .notice r :: rest → s.fqPut 0 d r = (t, .put) → writes (drop t)) ∧
      (∀ r a b, (s.dom d).fqWait = .task g i :: rest → (s.slot g i).status = .faultWait r a b → s.fqPut g d r = (t, .put) →
        writes ((drop t).afterFault g i r a))) ∧
    (s.deadWrite d = some t → gives (.deadLetter d) t) ∧
    (∀ (b : Fin 8) (ph : BitVec 32) (e : Nat),
      (Config.nodeNumber = 0 → s.podBar[b].owner.isSome = true → gives (.podBarrierArrival b .arrival) (s.barArrive (.pod b)).1) ∧
      (Config.nodeNumber ≠ 0 → gives (.podBarrierArrival b (.passed ph))
        ((s.setBar (.pod b) { s.podBar[b] with a := 0, phase := ph }).wakePhase (.pod b))) ∧
      (s.podBar[b].owner = none → gives (.podBarrierArrival b (.alloc d e)) (s.setBar (.pod b) ⟨some d, none, e, 0, 0⟩)) ∧
      gives (.podBarrierArrival b .free) (s.setBar (.pod b) Bar.free))

/-- The events of launches and of tile commands that have done their work: packets, acceptance, placement, delivery, retirement, completion, the loss of
a die; completions and ordered contributions (R29, R30, R48, R51, R258, R271, R344 to R346, R356, R358).
The model's choices in it: that the front end reads and writes through core 0 of D0 (log 41), that SVC of a DISPATCH launch's records is the
virtual number of the dispatching core (log 47), and that a completion waits until what it writes can be written without a pull (log 56). -/
def Obligations.LaunchEvents : Prop :=
  ∀ (s t : State) (g : CoreId) (d : DieId) (n : Nat) (dom : Dom) (q : Fin 4) (node : BitVec 10),
    let gives := fun (e : Instr) (u : State) => exec e s = .next u
    let x := (s.dom dom).lq[q]
    let slot := fun (vf o : Nat) => 0x1C000000000 + vf * 0x100000 + dom.toNat * 0x1000 + q.val * 0x400 + o
    let enters := fun (e : Instr) (p : Packet) => ∃ u, gives e u ∧ (u.dom dom).lq[q].packets = x.packets ++ [p] ∧
      (u.dom dom).lq[q].submitted = x.submitted + 1 ∧ u.reports.head? = some (.doorbell node .accepted)
    (∀ vf, vf < 96 → running s → (s.dom dom).vf.toNat = vf → mayWindow (s.node node) vf = true → x.en = true → x.packets.length < 64 →
      (∀ ws : List Word, ws.length = 64 → enters (.descriptorPacket node (slot vf 0) ws) (.desc ws)) ∧
      (∀ w : Word, w.extractLsb' 48 16 = 0 → enters (.referencePacket node (slot vf 0x200) w) (.ref (w.setWidth 48)))) ∧
    (∀ w, (s.node node).cls = .mgmt → ∃ u, gives (.lqctlWrite node dom q w) u ∧ (u.dom dom).lq[q].en = w.getLsbD 63 ∧
      (u.dom dom).lq[q].priv = w.getLsbD 62) ∧
    (∀ ws l lid s1, s.dieLost 0 = false → s.sourceNext (.queue dom q) = true → x.packets = .desc ws :: l →
      s.takeDesc ws dom (s.queueLevel dom q) 0x3FF = .yes s1 lid →
      gives (.launchAcceptance (.queue dom q)) ((s1.popPacket dom q false).served (768 + 4 * dom.toNat + q.val))) ∧
    (∀ m bs s1 s2 lid, s.dieLost 0 = false → s.sourceNext (.port g) = true → (s.core g).portHead = some m →
      s.engReadRun g 3 m (m.tcw.w1.extractLsb' 0 48).toNat 8 512 = (s1, .ok bs) →
      s1.takeDesc (bytesWords 64 bs) m.dom m.level (s1.ownNumber m.dom g) = .yes s2 lid →
      gives (.launchAcceptance (.port g)) ((s2.modCmd g 3 m.pos (fun y => { y with st := .done stOk (lid.setWidth 64) })).served g.val)) ∧
    ((s.die d).stopped = false → gives (.placementSlot d) (s.placeGo d ((s.die d).turns.take 8))) ∧
    (∀ y, (s.die d).deliveries[n]? = some y → (s.die d).inTurn n y = true → y.barred = false →
      gives (.teamRecordDelivery d n) ((s.modDie d (fun z => { z with deliveries := z.deliveries.eraseIdx n })).startTask y.g y.slot y.tr .launch 0
        (some y.team) y.bar)) ∧
    (∀ l team h r, s.launches[n]? = some l → l.ranges.find? (fun x => x.2.has team) = some (h, r) → s.dieLost h = false → s.dieLost 0 = false →
      l.hasRetired team = false → teamSize l.desc team ≤ l.endedOf team → s.teamQuiet h l.lid team = true →
      gives (.teamRetirement n team) { s with launches := s.launches.set n { l with retired := l.retired ++ [(team, h)] } }) ∧
    (∀ l, s.launches[n]? = some l → s.dieLost 0 = false → l.teams ≤ l.retired.length + s.lostTeams l → l.remote = 0 → descBmva l.desc = 0 →
      s.frontReady l.dom ((s.recordWrites l).map (fun x => x.1)) = (t, true) → ∃ u, gives (.launchCompletion n) u ∧
      u = { t.frontWrites l.dom l.lid.toNat (s.recordWrites l) with launches := (t.frontWrites l.dom l.lid.toNat (s.recordWrites l)).launches.eraseIdx n }) ∧
    (∀ e : Fin 7, (∀ h, ({ s with edges := s.edges &&& ~~~(1#7 <<< e.val) } : State).dieLost h = s.dieLost h) →
      gives (.edgeFailure e) { s with edges := s.edges &&& ~~~(1#7 <<< e.val) }) ∧
    (∀ m status r, (s.core g).cmdAt q (Fin.ofNat 32 n) = some m → m.st = .done status r → (m.tcw.hdr.cscope = 3 → s.awaitsPosted m = false) →
      ∃ u : State, gives (.commandCompletion g q n) (u.heldCore g) ∧ (u.core g).cmdAt q (Fin.ofNat 32 n) = none) ∧
    (∀ c, s.contribs[n]? = some c → s.contribBehind c = false → c.stale = false →
      gives (.accumContribution n) (({ s with contribs := s.contribs.eraseIdx n } : State).takeContribs (2 * (s.staged.length + 2) * (s.staged.length + 2)) [c])) ∧
    (∀ c, s.refused[n]? = some c → c.retry ≤ s.cycle →
      gives (.accumStagingRetry n) { s with refused := s.refused.eraseIdx n, contribs := s.contribs ++ [{ c with retry := 0 }] })

/-- The events of control: counters, caches, host accesses and snoops, starts, flushes and halts, management, power, attestation and errors (R180, R187, R188,
R352 to R354, R360, R361, R363, R367 to R370, R374 to R378).
A start is a reset to PHASE 0, then the steps of R368 one by one, those that a warm start skips left out; one that fails ends it at FAILED, and
the last leaves the device READY. Step 6 writes zero to HBM, which keeps its contents where it is skipped.
The model's choices in it: the place of the nonce in a report (log 7), that a write of a node's entry keeps its count of refused accesses
(log 52), that a start is an event that may come at any time and that what fails and what is skipped come with it (log 53), what a device does
after the flush of a halt or a gating (log 54), the structure number of a slice, 0x300 plus its number (log 55), that the bytes of a grain lost to a
reset are answered as poison in a snoop (log 63), and what an uncorrectable error in the data of an L1 does to an entry (log 90). -/
def Obligations.ControlEvents : Prop :=
  ∀ (s : State) (g : CoreId) (d : DieId) (node : BitVec 10) (w : Word) (k : Fin 8),
    let gives := fun (e : Instr) (u : State) => exec e s = .next u
    let reports_ := fun (e : Instr) (r : Report) => ∃ u, gives e u ∧ u.reports.head? = some r
    ((s.core g).l1ctl.getLsbD 0 = true → ∃ u, gives (.l1ctlWball g) u ∧ (u.core g).l1 = [] ∧ (u.core g).l1ctl.getLsbD 0 = false) ∧
    ((s.die d).forceBusy = true → ∃ u, gives (.sfctl1Force d) u ∧ (u.die d).dir = [] ∧ (u.die d).forceBusy = false) ∧
    (eventCode (w.extractLsb' 0 16).toNat = true → ∃ u, gives (.evselWrite g k w) u ∧ (u.core g).ev[k].sel = w &&& 0x1FFFF ∧
      (u.core g).evTotal k s.cycle = 0) ∧
    (∃ u, gives (.evcWrite g k w) u ∧ (u.core g).evTotal k s.cycle = w) ∧
    (∀ pa n, pa < memEnd → pa + n ≤ memEnd → reaches (s.node node) pa n = true → s.poisonedAt pa n = false →
      gives (.hostAccess node pa (.read n)) (s.answer node true (s.cohRead pa n))) ∧
    (∀ pa data, pa < memEnd → pa + data.length ≤ memEnd → reaches (s.node node) pa data.length = true →
      gives (.hostAccess node pa (.write data)) ((s.cohWrite pa data).answer node true [])) ∧
    (∀ pa own, isFabric pa = true → s.hostGrain pa = none → reports_ (.hostSnoop pa own)
      (.snoop pa false (s.lostGrains.any (fun x => decide (x.pa ≤ pa) && decide (pa < x.pa + x.len))) [])) ∧
    (∀ why, gives (.deviceFlush why) (s.flush why)) ∧
    (∀ fails, ∃ u, gives (.coldStart fails) u ∧ u.dev = ⟨0, 0, false⟩ ∧ u.starting = some ⟨true, ⟨false, false, false, fails⟩⟩ ∧ u.mem = s.mem ∧
      u.cores = State.reset.cores ∧ u.cycle = State.reset.cycle) ∧
    (∀ c, (s.dev.warmFail = 3 → exec (.warmStart c) s = exec (.coldStart c.failedStep) s) ∧
      (s.dev.warmFail ≠ 3 → ∃ u, gives (.warmStart c) u ∧ u.dev = ⟨0, s.dev.warmFail, false⟩ ∧
        u.starting = some ⟨false, { c with eccRetained := c.eccRetained && s.isFlushed }⟩ ∧ u.mem = s.mem ∧ u.cores = State.reset.cores ∧
        u.cycle = s.cycle ∧ u.time = s.time)) ∧
    (∀ x, s.starting = some x →
      let k := s.dev.phase.toNat
      let u := s.startStep
      let fails := k ≠ 0 ∧ x.ctx.failedStep.map (fun j => j.val) = some k
      (fails → u.dev.phase = 0xFF ∧ u.starting = none ∧ u.mem = s.mem ∧ (x.cold = false → u.dev.warmFail = s.dev.warmFail + 1)) ∧
      (¬ fails → u.mem = (if k = 6 then [] else s.mem) ∧
        (∀ j, k < j → j < 9 → x.skips j = false → (∀ m, k < m → m < j → x.skips m = true) → u.dev.phase = BitVec.ofNat 8 j ∧ u.starting = some x) ∧
        ((∀ j, k < j → j < 9 → x.skips j = true) → running u ∧ u.dev.cold = x.cold ∧ u.dev.warmFail = 0 ∧ u.starting = none))) ∧
    (∀ (x : Starting) (j : Nat), (x.cold = true → x.skips j = false) ∧ (x.cold = false → x.skips 3 = x.ctx.paramsOk ∧ x.skips 4 = x.ctx.linksUp ∧
      x.skips 6 = x.ctx.eccRetained ∧ x.skips 8 = true ∧ (j ≠ 3 → j ≠ 4 → j ≠ 6 → j ≠ 8 → x.skips j = false))) ∧
    (s.isFlushed = true → gives .firmwareHalt { s with dev := { s.dev with phase := 0x20 } }) ∧
    ((s.die d).stopped = true → s.gateReady d = true → ∃ u, gives (.diePowerGating d) u ∧ (u.die d).powered = false) ∧
    (∀ (vf : BitVec 7) (v : Fin 96), vf.toNat = v.val → (∃ u, gives (.vfOffsetWrite vf false w) u ∧ u.cycleOff = s.cycleOff.set v w) ∧
      (∃ u, gives (.vfOffsetWrite vf true w) u ∧ u.timeOff = s.timeOff.set v w)) ∧
    (∀ e, e.apertures.length ≤ 16 → ∃ u, gives (.nodeTableWrite node e) u ∧ u.node node = { e with refused := (s.node node).refused }) ∧
    (∀ v : Fin 96, ∃ u, gives (.managementRegisterWrite (0x1FD00002000 + 16 * v.val) w) u ∧ u.cycleOff = s.cycleOff.set v w) ∧
    gives (.powerThrottle true) { s with throttle := s.throttle + 1 } ∧
    (∀ (vdom : Nat) (steps : Int), (∃ u, gives (.voltageReplan vdom steps) u ∧ planOf u.voltPlan vdom = steps) ∧
      (0 < planOf s.voltPlan vdom → ∃ u, gives (.voltageStep vdom) u ∧ planOf u.volt vdom = planOf s.volt vdom + 1 ∧
        planOf u.voltPlan vdom = planOf s.voltPlan vdom - 1)) ∧
    (∀ (vf : BitVec 7) (nonce : List Word), vf.toNat < 96 → nonce.length = 6 → ∃ u l, gives (.attestationReport vf nonce) u ∧
      u.reports.head? = some (.attestation l) ∧ (l.drop 1).take 6 = nonce) ∧
    gives (.debugUnlock true) { s with debugOpen := true } ∧
    (∀ pa, ∃ u, gives (.softError (.uncorrectable pa)) u ∧ u.poisonedAt pa 1 = true ∧ u.reports.head? = some (.softError (dieOf pa).val (0x300 + (homeSlice pa).val))) ∧
    (∀ pa, ∀ x ∈ (s.core g).l1, x.run.meets ⟨pa / 32 * 32, 32⟩ = true → ∃ u, gives (.softError (.coreUncorrectable g pa)) u ∧
      x.spoil (fun j => j == pa % 4096 / 32) ∈ (u.core g).l1 ∧ u.reports.head? = some (.softError g.die.val g.val)) ∧
    reports_ (.softError (.coreCorrected g)) (.softError g.die.val g.val)

/-! ## Reset and memory -/

/-- The state right after reset: PHASE, WARMFAIL and COLD are 0, as R367's reset column gives them, no slot holds a task, and p0 reads all
ones (R73, R342).
The model's choices (log 2): that memory lists nothing, that the scalar, vector and constant registers and the SRAMs read 0, inferred from R368
step 7, and that a cold start is under way, none of whose steps fails. Every memory is in canonical form. -/
def Obligations.ResetState : Prop :=
  let s := State.reset
  s.dev = ⟨0, 0, false⟩ ∧ s.starting = some ⟨true, ⟨false, false, false, none⟩⟩ ∧ s.mem = [] ∧ memoriesOk s ∧
    (∀ (g : CoreId) (i : SlotId), (s.slot g i).status = .free ∧ (s.slot g i).held = false ∧ (s.slot g i).readP 0 = BitVec.allOnes 32 ∧
      (∀ n, (s.slot g i).readX n = 0) ∧ (∀ n, (s.slot g i).readV n = 0) ∧ (∀ n, (s.slot g i).readK n = 0)) ∧
    (∀ g : CoreId, (s.core g).scratch = [] ∧ (s.core g).acc = [] ∧ (s.core g).l1 = [] ∧ (s.core g).pend = [])

/-- Memory and scratch: what is stored reads back, every other byte is as before, and the canonical form is kept (R163, R205). -/
def Obligations.StoresReadBack : Prop :=
  ∀ (s : State) (l : List Byte), memoriesOk s →
    (∀ pa, memoriesOk (s.homeWrite pa l) ∧ (∀ k, k < l.length → (s.homeWrite pa l).homeByte (pa + k) = l.getD k 0) ∧
      ∀ a, a < pa ∨ pa + l.length ≤ a → (s.homeWrite pa l).homeByte a = s.homeByte a) ∧
    (∀ (g : CoreId) (d : Dom) (off : Nat), memoriesOk (s.scratchWrite g d off l) ∧
      ((s.scratchWrite g d off l).core g).scratchRead off l.length = l ∧
      onlyScratch s (s.scratchWrite g d off l) g (fun a => a < off ∨ off + l.length ≤ a))

/-- The PC stays a multiple of 8: every register instruction and every transfer, whose PC is one, leaves it one, a JR or JLR that is taken if
its target is one (inferred from R73 and R128; no rule says it as such). -/
def Obligations.PcStaysAligned : Prop :=
  ∀ (s t : State) (g : CoreId) (i : SlotId), (s.slot g i).pc.toNat % 8 = 0 →
    let keeps := fun (e : Instr) => exec e s = .next t → (t.slot g i).pc.toNat % 8 = 0
    (∀ c ∈ integerForms ++ floatForms ++ predicateForms ++ vectorForms ++ vectorFloatForms, ∀ f : FmtR, turn s g i (rRegs f) → keeps (c f)) ∧
    (∀ c ∈ immediateForms, ∀ f : FmtI, turn s g i (.p f.pred :: specRegs [f.dst, f.sa]) → keeps (c f)) ∧
    (∀ c ∈ ([.j, .jl, .beq, .bne, .blt, .bge, .bltn, .bgen, .loop] : List (FmtB → Instr)) ++ maskBranchForms, ∀ f : FmtB,
      turn s g i (bRegs f) → keeps (c f)) ∧
    (∀ c ∈ ([.jr, .jlr] : List (FmtB → Instr)), ∀ f : FmtB, turn s g i (bRegs f) →
      ((s.slot g i).guard f.pn f.pred = true → (regTarget (s.slot g i) f).toNat % 8 = 0) → keeps (c f))
end

