-- ==== Sys2Proof/Laws/Encoding.lean ====
section
/-! SUPPORT. Fields packed into words and read back: the codes of specifiers, types, modes and scopes, and the six formats. -/

namespace Sys2Proof

/-! ## Codes -/

@[simp] theorem spec_ofCode_code (s : Spec) : Spec.ofCode s.code = some s := by
  cases s with
  | v n => revert n; decide
  | x n => revert n; decide
  | c n => revert n; decide
  | lit n => revert n; decide

@[simp] theorem ty_ofCode_code (t : Ty) : Ty.ofCode t.code = some t := by cases t <;> rfl
@[simp] theorem rmode_ofCode_code (m : RMode) : RMode.ofCode m.code = some m := by cases m <;> rfl
@[simp] theorem mord_ofCode_code (o : MOrd) : MOrd.ofCode o.code = o := by cases o <;> rfl
@[simp] theorem scope_ofCode_code (c : Scope) : Scope.ofCode c.code = some c := by cases c <;> rfl

/-! ## Fields of an append -/

/-- A field that lies in the low part of an append. -/
theorem field_low {n m : Nat} (a : BitVec n) (b : BitVec m) (i k : Nat) (h : i + k ≤ m) :
    (a ++ b).extractLsb' i k = b.extractLsb' i k := by
  apply BitVec.eq_of_getLsbD_eq
  intro j hj
  simp only [BitVec.getLsbD_extractLsb', BitVec.getLsbD_append]
  have : i + j < m := by omega
  simp [this]

/-- A field that lies in the high part of an append. -/
theorem field_high {n m : Nat} (a : BitVec n) (b : BitVec m) (i k : Nat) (h : m ≤ i) :
    (a ++ b).extractLsb' i k = a.extractLsb' (i - m) k := by
  apply BitVec.eq_of_getLsbD_eq
  intro j hj
  simp only [BitVec.getLsbD_extractLsb', BitVec.getLsbD_append]
  have e : ¬ i + j < m := by omega
  have f : i + j - m = i - m + j := by omega
  simp [e, f]

/-- The whole of a value is a field of it. -/
theorem field_all {n : Nat} (a : BitVec n) : a.extractLsb' 0 n = a := by simp

/-- One bit of the low part of an append. -/
theorem bit_low {n m : Nat} (a : BitVec n) (b : BitVec m) (i : Nat) (h : i < m) : bitAt (a ++ b) i = bitAt b i := by
  simp [bitAt, BitVec.getLsbD_append, h]

/-- One bit of the high part of an append. -/
theorem bit_high {n m : Nat} (a : BitVec n) (b : BitVec m) (i : Nat) (h : m ≤ i) : bitAt (a ++ b) i = bitAt a (i - m) := by
  have : ¬ i < m := by omega
  simp [bitAt, BitVec.getLsbD_append, this]

@[simp] theorem bit_one (b : Bool) : bitAt (bit1 b) 0 = b := by cases b <;> rfl

/-! ## The formats -/

theorem op_packB (op : Byte) (f : FmtB) : opOf (packB op f) = op := by
  simp only [opOf, packB]; rw [field_high _ _ _ _ (by decide)]; exact field_all op
theorem op_packR (op : Byte) (f : FmtR) : opOf (packR op f) = op := by
  simp only [opOf, packR]; rw [field_high _ _ _ _ (by decide)]; exact field_all op
theorem op_packI (op : Byte) (f : FmtI) : opOf (packI op f) = op := by
  simp only [opOf, packI]; rw [field_high _ _ _ _ (by decide)]; exact field_all op
theorem op_packM (op : Byte) (f : FmtM) : opOf (packM op f) = op := by
  simp only [opOf, packM]; rw [field_high _ _ _ _ (by decide)]; exact field_all op
theorem op_packF (op : Byte) (f : FmtF) : opOf (packF op f) = op := by
  simp only [opOf, packF]; rw [field_high _ _ _ _ (by decide)]; exact field_all op
theorem op_packS (op : Byte) (f : FmtS) : opOf (packS op f) = op := by
  simp only [opOf, packS]; rw [field_high _ _ _ _ (by decide)]; exact field_all op

/-! ## The formats read back -/

theorem parse_packB (op : Byte) (f : FmtB) : parseB (packB op f) = .ok f := by
  cases f with
  | mk sa sb pn pred disp =>
    simp (disch := decide) only [parseB, packB, field_low, field_high, bit_low, bit_high]
    simp [need]
    rfl

theorem parse_packR (op : Byte) (f : FmtR) : parseR (packR op f) = .ok f := by
  cases f with
  | mk dst sa sb sc pn pred ty mode sat imm =>
    simp (disch := decide) only [parseR, packR, field_low, field_high, bit_low, bit_high]
    simp [need]
    rfl

theorem parse_packI (op : Byte) (f : FmtI) : parseI (packI op f) = .ok f := by
  cases f with
  | mk dst sa pn pred imm =>
    simp (disch := decide) only [parseI, packI, field_low, field_high, bit_low, bit_high]
    simp [need]
    rfl

theorem parse_packM (op : Byte) (f : FmtM) : parseM (packM op f) = .ok f := by
  cases f with
  | mk data base aux pn pred ord scope sz len off =>
    simp (disch := decide) only [parseM, packM, field_low, field_high, bit_low, bit_high]
    simp [need]
    rfl

theorem parse_packF (op : Byte) (f : FmtF) : parseF (packF op f) = .ok f := by
  cases f with
  | mk pm sm scope =>
    simp (disch := decide) only [parseF, packF, field_low, field_high]
    simp [need]
    rfl

theorem parse_packS (op : Byte) (f : FmtS) : parseS (packS op f) = .ok f := by
  cases f with
  | mk dst sa sb sc imm =>
    simp (disch := decide) only [parseS, packS, field_low, field_high]
    simp [need]
    rfl

/-! ## Decoding a packed word -/

/-- A word that `build` reads as an instruction that passes its checks decodes to it. -/
theorem decode_of_build {w : Word} {i : Instr} (h : build w = .ok i) (wf : i.wf = true) : decode w = .ok i := by
  unfold decode
  rw [h]
  show (if i.wf = true then Except.ok i else Except.error Reject.entryCheck) = _
  rw [if_pos wf]

theorem decode_packB {op : Byte} {f : FmtB} {c : FmtB → Instr} (h0 : op.toNat ≠ 0) (h1 : op.toNat < 0x10)
    (h : bCtor op.toNat = some c) (wf : (c f).wf = true) : decode (packB op f) = .ok (c f) := by
  refine decode_of_build ?_ wf
  unfold build
  simp only [op_packB, parse_packB, h0, h1, h, if_false, if_true]
  rfl

theorem decode_packI {op : Byte} {f : FmtI} {c : FmtI → Instr} (h0 : 0x10 ≤ op.toNat) (h1 : op.toNat < 0x90)
    (h : iCtor op.toNat = some c) (wf : (c f).wf = true) : decode (packI op f) = .ok (c f) := by
  refine decode_of_build ?_ wf
  have e : op.toNat ≠ 0 := by omega
  have l : ¬ op.toNat < 0x10 := by omega
  unfold build
  simp only [op_packI, parse_packI, e, l, h1, h, if_false, if_true]
  rfl

theorem imm_packR (op : Byte) (f : FmtR) : (packR op f).extractLsb' 0 12 = f.imm := by
  simp (disch := decide) only [packR, field_low]
  exact field_all f.imm

theorem imm_packS (op : Byte) (f : FmtS) : (packS op f).extractLsb' 0 24 = f.imm := by
  simp (disch := decide) only [packS, field_low]
  exact field_all f.imm

theorem decode_packR {op : Byte} {f : FmtR} {c : FmtR → Instr} (h0 : 0x10 ≤ op.toNat) (h1 : op.toNat < 0x90)
    (hi : iCtor op.toNat = none) (h : rCtor op.toNat f.imm = some c) (wf : (c f).wf = true) : decode (packR op f) = .ok (c f) := by
  refine decode_of_build ?_ wf
  have e : op.toNat ≠ 0 := by omega
  have l : ¬ op.toNat < 0x10 := by omega
  unfold build
  simp only [op_packR, parse_packR, imm_packR, e, l, h1, hi, h, if_false, if_true]
  rfl

theorem decode_packM {op : Byte} {f : FmtM} {c : FmtM → Instr} (h0 : 0x90 ≤ op.toNat) (h1 : op.toNat < 0xAF)
    (h : mCtor op.toNat = some c) (wf : (c f).wf = true) : decode (packM op f) = .ok (c f) := by
  refine decode_of_build ?_ wf
  have e : op.toNat ≠ 0 := by omega
  have l : ¬ op.toNat < 0x10 := by omega
  have m : ¬ op.toNat < 0x90 := by omega
  have n : op.toNat ≠ 0xAF := by omega
  have k : op.toNat < 0xB0 := by omega
  unfold build
  simp only [op_packM, parse_packM, e, l, m, n, k, h, if_false, if_true]
  rfl

theorem decode_packS {op : Byte} {f : FmtS} {c : FmtS → Instr} (h0 : 0xB0 ≤ op.toNat) (h1 : op.toNat ≠ 0xB4)
    (h : sCtor op.toNat f.imm = some c) (wf : (c f).wf = true) : decode (packS op f) = .ok (c f) := by
  refine decode_of_build ?_ wf
  have e : op.toNat ≠ 0 := by omega
  have l : ¬ op.toNat < 0x10 := by omega
  have m : ¬ op.toNat < 0x90 := by omega
  have n : op.toNat ≠ 0xAF := by omega
  have k : ¬ op.toNat < 0xB0 := by omega
  unfold build
  simp only [op_packS, parse_packS, imm_packS, e, l, m, n, k, h1, h, if_false]
  rfl

end Sys2Proof
end

