-- ==== Sys2Proof/Laws/State.lean ====
section
/-! SUPPORT. The small lemmas of the state's updates: what each leaves as it was, field by field, and what is read back at the place
written and elsewhere. -/

namespace Sys2Proof.Machine

/-! ## A core, a slot, a die, a domain read back -/

@[simp] theorem core_setCore (s : State) (g : CoreId) (c : Core) : (s.setCore g c).core g = c := by simp [State.core, State.setCore]

theorem core_setCore_ne (s : State) (g h : CoreId) (c : Core) (n : h ≠ g) : (s.setCore g c).core h = s.core h := by
  have : g.val ≠ h.val := fun e => n (Fin.ext e.symm)
  simp [State.core, State.setCore, this]

@[simp] theorem slots_setSlot (c : Core) (i : SlotId) (sl : Slot) : (c.setSlot i sl).slots[i] = sl := by simp [Core.setSlot]

theorem slots_setSlot_ne (c : Core) (i j : SlotId) (sl : Slot) (n : j ≠ i) : (c.setSlot i sl).slots[j] = c.slots[j] := by
  have : i.val ≠ j.val := fun e => n (Fin.ext e.symm)
  simp [Core.setSlot, this]

@[simp] theorem core_setSlot (s : State) (g : CoreId) (i : SlotId) (sl : Slot) :
    (s.setSlot g i sl).core g = (s.core g).setSlot i sl := by simp [State.setSlot]

theorem core_setSlot_ne (s : State) (g h : CoreId) (i : SlotId) (sl : Slot) (n : h ≠ g) : (s.setSlot g i sl).core h = s.core h := by
  simp [State.setSlot, core_setCore_ne _ _ _ _ n]

@[simp] theorem slot_setSlot (s : State) (g : CoreId) (i : SlotId) (sl : Slot) : (s.setSlot g i sl).slot g i = sl := by
  rw [State.slot, core_setSlot, slots_setSlot]

theorem slot_setSlot_ne (s : State) (g : CoreId) (i j : SlotId) (sl : Slot) (n : j ≠ i) : (s.setSlot g i sl).slot g j = s.slot g j := by
  simp only [State.slot, core_setSlot]; exact slots_setSlot_ne _ _ _ _ n

theorem slot_setSlot_core_ne (s : State) (g h : CoreId) (i j : SlotId) (sl : Slot) (n : h ≠ g) :
    (s.setSlot g i sl).slot h j = s.slot h j := by
  simp [State.slot, core_setSlot_ne _ _ _ _ _ n]

@[simp] theorem slot_modSlot (s : State) (g : CoreId) (i : SlotId) (f : Slot → Slot) : (s.modSlot g i f).slot g i = f (s.slot g i) := by
  simp [State.modSlot]

@[simp] theorem die_modDie (s : State) (d : DieId) (f : Die → Die) : (s.modDie d f).die d = f (s.die d) := by
  simp [State.die, State.modDie]

theorem die_modDie_ne (s : State) (d e : DieId) (f : Die → Die) (n : e ≠ d) : (s.modDie d f).die e = s.die e := by
  have : d.val ≠ e.val := fun h => n (Fin.ext h.symm)
  simp [State.die, State.modDie, this]

@[simp] theorem dom_modDom (s : State) (d : Dom) (f : Domain → Domain) : (s.modDom d f).dom d = f (s.dom d) := by
  simp [State.dom, State.modDom]

theorem dom_modDom_ne (s : State) (d e : Dom) (f : Domain → Domain) (n : e ≠ d) : (s.modDom d f).dom e = s.dom e := by
  have : d.toNat ≠ e.toNat := fun h => n (BitVec.eq_of_toNat_eq h.symm)
  simp [State.dom, State.modDom, this]

@[simp] theorem die_setCore (s : State) (g : CoreId) (c : Core) (d : DieId) : (s.setCore g c).die d = s.die d := rfl
@[simp] theorem dom_setCore (s : State) (g : CoreId) (c : Core) (d : Dom) : (s.setCore g c).dom d = s.dom d := rfl
@[simp] theorem core_modDie (s : State) (d : DieId) (f : Die → Die) (g : CoreId) : (s.modDie d f).core g = s.core g := rfl
@[simp] theorem core_modDom (s : State) (d : Dom) (f : Domain → Domain) (g : CoreId) : (s.modDom d f).core g = s.core g := rfl
@[simp] theorem slot_modDie (s : State) (d : DieId) (f : Die → Die) (g : CoreId) (i : SlotId) : (s.modDie d f).slot g i = s.slot g i := rfl
@[simp] theorem slot_modDom (s : State) (d : Dom) (f : Domain → Domain) (g : CoreId) (i : SlotId) : (s.modDom d f).slot g i = s.slot g i := rfl
@[simp] theorem dom_modDie (s : State) (d : DieId) (f : Die → Die) (e : Dom) : (s.modDie d f).dom e = s.dom e := rfl
@[simp] theorem die_modDom (s : State) (d : Dom) (f : Domain → Domain) (e : DieId) : (s.modDom d f).die e = s.die e := rfl
@[simp] theorem die_setSlot (s : State) (g : CoreId) (i : SlotId) (sl : Slot) (d : DieId) : (s.setSlot g i sl).die d = s.die d := rfl
@[simp] theorem dom_setSlot (s : State) (g : CoreId) (i : SlotId) (sl : Slot) (d : Dom) : (s.setSlot g i sl).dom d = s.dom d := rfl

/-! ## State.setCore: every other field -/

@[simp] theorem setCore_dies (s : State) (g : CoreId) (c : Core) : (s.setCore g c).dies = s.dies := rfl
@[simp] theorem setCore_doms (s : State) (g : CoreId) (c : Core) : (s.setCore g c).doms = s.doms := rfl
@[simp] theorem setCore_mem (s : State) (g : CoreId) (c : Core) : (s.setCore g c).mem = s.mem := rfl
@[simp] theorem setCore_fabric (s : State) (g : CoreId) (c : Core) : (s.setCore g c).fabric = s.fabric := rfl
@[simp] theorem setCore_poison (s : State) (g : CoreId) (c : Core) : (s.setCore g c).poison = s.poison := rfl
@[simp] theorem setCore_cycle (s : State) (g : CoreId) (c : Core) : (s.setCore g c).cycle = s.cycle := rfl
@[simp] theorem setCore_time (s : State) (g : CoreId) (c : Core) : (s.setCore g c).time = s.time := rfl
@[simp] theorem setCore_cycleOff (s : State) (g : CoreId) (c : Core) : (s.setCore g c).cycleOff = s.cycleOff := rfl
@[simp] theorem setCore_timeOff (s : State) (g : CoreId) (c : Core) : (s.setCore g c).timeOff = s.timeOff := rfl
@[simp] theorem setCore_launches (s : State) (g : CoreId) (c : Core) : (s.setCore g c).launches = s.launches := rfl
@[simp] theorem setCore_lastLid (s : State) (g : CoreId) (c : Core) : (s.setCore g c).lastLid = s.lastLid := rfl
@[simp] theorem setCore_pkgBar (s : State) (g : CoreId) (c : Core) : (s.setCore g c).pkgBar = s.pkgBar := rfl
@[simp] theorem setCore_podBar (s : State) (g : CoreId) (c : Core) : (s.setCore g c).podBar = s.podBar := rfl
@[simp] theorem setCore_net (s : State) (g : CoreId) (c : Core) : (s.setCore g c).net = s.net := rfl
@[simp] theorem setCore_transit (s : State) (g : CoreId) (c : Core) : (s.setCore g c).transit = s.transit := rfl
@[simp] theorem setCore_steals (s : State) (g : CoreId) (c : Core) : (s.setCore g c).steals = s.steals := rfl
@[simp] theorem setCore_rounds (s : State) (g : CoreId) (c : Core) : (s.setCore g c).rounds = s.rounds := rfl
@[simp] theorem setCore_contribs (s : State) (g : CoreId) (c : Core) : (s.setCore g c).contribs = s.contribs := rfl
@[simp] theorem setCore_staged (s : State) (g : CoreId) (c : Core) : (s.setCore g c).staged = s.staged := rfl
@[simp] theorem setCore_refused (s : State) (g : CoreId) (c : Core) : (s.setCore g c).refused = s.refused := rfl
@[simp] theorem setCore_conts (s : State) (g : CoreId) (c : Core) : (s.setCore g c).conts = s.conts := rfl
@[simp] theorem setCore_watches (s : State) (g : CoreId) (c : Core) : (s.setCore g c).watches = s.watches := rfl
@[simp] theorem setCore_resv (s : State) (g : CoreId) (c : Core) : (s.setCore g c).resv = s.resv := rfl
@[simp] theorem setCore_migrations (s : State) (g : CoreId) (c : Core) : (s.setCore g c).migrations = s.migrations := rfl
@[simp] theorem setCore_nodes (s : State) (g : CoreId) (c : Core) : (s.setCore g c).nodes = s.nodes := rfl
@[simp] theorem setCore_edges (s : State) (g : CoreId) (c : Core) : (s.setCore g c).edges = s.edges := rfl
@[simp] theorem setCore_dev (s : State) (g : CoreId) (c : Core) : (s.setCore g c).dev = s.dev := rfl
@[simp] theorem setCore_grants (s : State) (g : CoreId) (c : Core) : (s.setCore g c).grants = s.grants := rfl
@[simp] theorem setCore_lostGrains (s : State) (g : CoreId) (c : Core) : (s.setCore g c).lostGrains = s.lostGrains := rfl
@[simp] theorem setCore_throttle (s : State) (g : CoreId) (c : Core) : (s.setCore g c).throttle = s.throttle := rfl
@[simp] theorem setCore_starting (s : State) (g : CoreId) (c : Core) : (s.setCore g c).starting = s.starting := rfl
@[simp] theorem setCore_voltPlan (s : State) (g : CoreId) (c : Core) : (s.setCore g c).voltPlan = s.voltPlan := rfl
@[simp] theorem setCore_volt (s : State) (g : CoreId) (c : Core) : (s.setCore g c).volt = s.volt := rfl
@[simp] theorem setCore_delay (s : State) (g : CoreId) (c : Core) : (s.setCore g c).delay = s.delay := rfl
@[simp] theorem setCore_delayBase (s : State) (g : CoreId) (c : Core) : (s.setCore g c).delayBase = s.delayBase := rfl
@[simp] theorem setCore_debugOpen (s : State) (g : CoreId) (c : Core) : (s.setCore g c).debugOpen = s.debugOpen := rfl
@[simp] theorem setCore_reports (s : State) (g : CoreId) (c : Core) : (s.setCore g c).reports = s.reports := rfl
@[simp] theorem setCore_fePtr (s : State) (g : CoreId) (c : Core) : (s.setCore g c).fePtr = s.fePtr := rfl
@[simp] theorem setCore_nextAct (s : State) (g : CoreId) (c : Core) : (s.setCore g c).nextAct = s.nextAct := rfl
@[simp] theorem setCore_nextPend (s : State) (g : CoreId) (c : Core) : (s.setCore g c).nextPend = s.nextPend := rfl
@[simp] theorem setCore_nextCont (s : State) (g : CoreId) (c : Core) : (s.setCore g c).nextCont = s.nextCont := rfl
@[simp] theorem setCore_now (s : State) (g : CoreId) (c : Core) : (s.setCore g c).now = s.now := rfl
@[simp] theorem setCore_piece (s : State) (g : CoreId) (c : Core) : (s.setCore g c).piece = s.piece := rfl
@[simp] theorem setCore_later (s : State) (g : CoreId) (c : Core) : (s.setCore g c).later = s.later := rfl
@[simp] theorem setCore_agent (s : State) (g : CoreId) (c : Core) : (s.setCore g c).agent = s.agent := rfl
@[simp] theorem setCore_agenda (s : State) (g : CoreId) (c : Core) : (s.setCore g c).agenda = s.agenda := rfl

/-! ## State.modCore: every other field -/

@[simp] theorem modCore_dies (s : State) (g : CoreId) (f : Core → Core) : (s.modCore g f).dies = s.dies := rfl
@[simp] theorem modCore_doms (s : State) (g : CoreId) (f : Core → Core) : (s.modCore g f).doms = s.doms := rfl
@[simp] theorem modCore_mem (s : State) (g : CoreId) (f : Core → Core) : (s.modCore g f).mem = s.mem := rfl
@[simp] theorem modCore_fabric (s : State) (g : CoreId) (f : Core → Core) : (s.modCore g f).fabric = s.fabric := rfl
@[simp] theorem modCore_poison (s : State) (g : CoreId) (f : Core → Core) : (s.modCore g f).poison = s.poison := rfl
@[simp] theorem modCore_cycle (s : State) (g : CoreId) (f : Core → Core) : (s.modCore g f).cycle = s.cycle := rfl
@[simp] theorem modCore_time (s : State) (g : CoreId) (f : Core → Core) : (s.modCore g f).time = s.time := rfl
@[simp] theorem modCore_cycleOff (s : State) (g : CoreId) (f : Core → Core) : (s.modCore g f).cycleOff = s.cycleOff := rfl
@[simp] theorem modCore_timeOff (s : State) (g : CoreId) (f : Core → Core) : (s.modCore g f).timeOff = s.timeOff := rfl
@[simp] theorem modCore_launches (s : State) (g : CoreId) (f : Core → Core) : (s.modCore g f).launches = s.launches := rfl
@[simp] theorem modCore_lastLid (s : State) (g : CoreId) (f : Core → Core) : (s.modCore g f).lastLid = s.lastLid := rfl
@[simp] theorem modCore_pkgBar (s : State) (g : CoreId) (f : Core → Core) : (s.modCore g f).pkgBar = s.pkgBar := rfl
@[simp] theorem modCore_podBar (s : State) (g : CoreId) (f : Core → Core) : (s.modCore g f).podBar = s.podBar := rfl
@[simp] theorem modCore_net (s : State) (g : CoreId) (f : Core → Core) : (s.modCore g f).net = s.net := rfl
@[simp] theorem modCore_transit (s : State) (g : CoreId) (f : Core → Core) : (s.modCore g f).transit = s.transit := rfl
@[simp] theorem modCore_steals (s : State) (g : CoreId) (f : Core → Core) : (s.modCore g f).steals = s.steals := rfl
@[simp] theorem modCore_rounds (s : State) (g : CoreId) (f : Core → Core) : (s.modCore g f).rounds = s.rounds := rfl
@[simp] theorem modCore_contribs (s : State) (g : CoreId) (f : Core → Core) : (s.modCore g f).contribs = s.contribs := rfl
@[simp] theorem modCore_staged (s : State) (g : CoreId) (f : Core → Core) : (s.modCore g f).staged = s.staged := rfl
@[simp] theorem modCore_refused (s : State) (g : CoreId) (f : Core → Core) : (s.modCore g f).refused = s.refused := rfl
@[simp] theorem modCore_conts (s : State) (g : CoreId) (f : Core → Core) : (s.modCore g f).conts = s.conts := rfl
@[simp] theorem modCore_watches (s : State) (g : CoreId) (f : Core → Core) : (s.modCore g f).watches = s.watches := rfl
@[simp] theorem modCore_resv (s : State) (g : CoreId) (f : Core → Core) : (s.modCore g f).resv = s.resv := rfl
@[simp] theorem modCore_migrations (s : State) (g : CoreId) (f : Core → Core) : (s.modCore g f).migrations = s.migrations := rfl
@[simp] theorem modCore_nodes (s : State) (g : CoreId) (f : Core → Core) : (s.modCore g f).nodes = s.nodes := rfl
@[simp] theorem modCore_edges (s : State) (g : CoreId) (f : Core → Core) : (s.modCore g f).edges = s.edges := rfl
@[simp] theorem modCore_dev (s : State) (g : CoreId) (f : Core → Core) : (s.modCore g f).dev = s.dev := rfl
@[simp] theorem modCore_grants (s : State) (g : CoreId) (f : Core → Core) : (s.modCore g f).grants = s.grants := rfl
@[simp] theorem modCore_lostGrains (s : State) (g : CoreId) (f : Core → Core) : (s.modCore g f).lostGrains = s.lostGrains := rfl
@[simp] theorem modCore_throttle (s : State) (g : CoreId) (f : Core → Core) : (s.modCore g f).throttle = s.throttle := rfl
@[simp] theorem modCore_starting (s : State) (g : CoreId) (f : Core → Core) : (s.modCore g f).starting = s.starting := rfl
@[simp] theorem modCore_voltPlan (s : State) (g : CoreId) (f : Core → Core) : (s.modCore g f).voltPlan = s.voltPlan := rfl
@[simp] theorem modCore_volt (s : State) (g : CoreId) (f : Core → Core) : (s.modCore g f).volt = s.volt := rfl
@[simp] theorem modCore_delay (s : State) (g : CoreId) (f : Core → Core) : (s.modCore g f).delay = s.delay := rfl
@[simp] theorem modCore_delayBase (s : State) (g : CoreId) (f : Core → Core) : (s.modCore g f).delayBase = s.delayBase := rfl
@[simp] theorem modCore_debugOpen (s : State) (g : CoreId) (f : Core → Core) : (s.modCore g f).debugOpen = s.debugOpen := rfl
@[simp] theorem modCore_reports (s : State) (g : CoreId) (f : Core → Core) : (s.modCore g f).reports = s.reports := rfl
@[simp] theorem modCore_fePtr (s : State) (g : CoreId) (f : Core → Core) : (s.modCore g f).fePtr = s.fePtr := rfl
@[simp] theorem modCore_nextAct (s : State) (g : CoreId) (f : Core → Core) : (s.modCore g f).nextAct = s.nextAct := rfl
@[simp] theorem modCore_nextPend (s : State) (g : CoreId) (f : Core → Core) : (s.modCore g f).nextPend = s.nextPend := rfl
@[simp] theorem modCore_nextCont (s : State) (g : CoreId) (f : Core → Core) : (s.modCore g f).nextCont = s.nextCont := rfl
@[simp] theorem modCore_now (s : State) (g : CoreId) (f : Core → Core) : (s.modCore g f).now = s.now := rfl
@[simp] theorem modCore_piece (s : State) (g : CoreId) (f : Core → Core) : (s.modCore g f).piece = s.piece := rfl
@[simp] theorem modCore_later (s : State) (g : CoreId) (f : Core → Core) : (s.modCore g f).later = s.later := rfl
@[simp] theorem modCore_agent (s : State) (g : CoreId) (f : Core → Core) : (s.modCore g f).agent = s.agent := rfl
@[simp] theorem modCore_agenda (s : State) (g : CoreId) (f : Core → Core) : (s.modCore g f).agenda = s.agenda := rfl

/-! ## State.setSlot: every other field -/

@[simp] theorem setSlot_dies (s : State) (g : CoreId) (i : SlotId) (sl : Slot) : (s.setSlot g i sl).dies = s.dies := rfl
@[simp] theorem setSlot_doms (s : State) (g : CoreId) (i : SlotId) (sl : Slot) : (s.setSlot g i sl).doms = s.doms := rfl
@[simp] theorem setSlot_mem (s : State) (g : CoreId) (i : SlotId) (sl : Slot) : (s.setSlot g i sl).mem = s.mem := rfl
@[simp] theorem setSlot_fabric (s : State) (g : CoreId) (i : SlotId) (sl : Slot) : (s.setSlot g i sl).fabric = s.fabric := rfl
@[simp] theorem setSlot_poison (s : State) (g : CoreId) (i : SlotId) (sl : Slot) : (s.setSlot g i sl).poison = s.poison := rfl
@[simp] theorem setSlot_cycle (s : State) (g : CoreId) (i : SlotId) (sl : Slot) : (s.setSlot g i sl).cycle = s.cycle := rfl
@[simp] theorem setSlot_time (s : State) (g : CoreId) (i : SlotId) (sl : Slot) : (s.setSlot g i sl).time = s.time := rfl
@[simp] theorem setSlot_cycleOff (s : State) (g : CoreId) (i : SlotId) (sl : Slot) : (s.setSlot g i sl).cycleOff = s.cycleOff := rfl
@[simp] theorem setSlot_timeOff (s : State) (g : CoreId) (i : SlotId) (sl : Slot) : (s.setSlot g i sl).timeOff = s.timeOff := rfl
@[simp] theorem setSlot_launches (s : State) (g : CoreId) (i : SlotId) (sl : Slot) : (s.setSlot g i sl).launches = s.launches := rfl
@[simp] theorem setSlot_lastLid (s : State) (g : CoreId) (i : SlotId) (sl : Slot) : (s.setSlot g i sl).lastLid = s.lastLid := rfl
@[simp] theorem setSlot_pkgBar (s : State) (g : CoreId) (i : SlotId) (sl : Slot) : (s.setSlot g i sl).pkgBar = s.pkgBar := rfl
@[simp] theorem setSlot_podBar (s : State) (g : CoreId) (i : SlotId) (sl : Slot) : (s.setSlot g i sl).podBar = s.podBar := rfl
@[simp] theorem setSlot_net (s : State) (g : CoreId) (i : SlotId) (sl : Slot) : (s.setSlot g i sl).net = s.net := rfl
@[simp] theorem setSlot_transit (s : State) (g : CoreId) (i : SlotId) (sl : Slot) : (s.setSlot g i sl).transit = s.transit := rfl
@[simp] theorem setSlot_steals (s : State) (g : CoreId) (i : SlotId) (sl : Slot) : (s.setSlot g i sl).steals = s.steals := rfl
@[simp] theorem setSlot_rounds (s : State) (g : CoreId) (i : SlotId) (sl : Slot) : (s.setSlot g i sl).rounds = s.rounds := rfl
@[simp] theorem setSlot_contribs (s : State) (g : CoreId) (i : SlotId) (sl : Slot) : (s.setSlot g i sl).contribs = s.contribs := rfl
@[simp] theorem setSlot_staged (s : State) (g : CoreId) (i : SlotId) (sl : Slot) : (s.setSlot g i sl).staged = s.staged := rfl
@[simp] theorem setSlot_refused (s : State) (g : CoreId) (i : SlotId) (sl : Slot) : (s.setSlot g i sl).refused = s.refused := rfl
@[simp] theorem setSlot_conts (s : State) (g : CoreId) (i : SlotId) (sl : Slot) : (s.setSlot g i sl).conts = s.conts := rfl
@[simp] theorem setSlot_watches (s : State) (g : CoreId) (i : SlotId) (sl : Slot) : (s.setSlot g i sl).watches = s.watches := rfl
@[simp] theorem setSlot_resv (s : State) (g : CoreId) (i : SlotId) (sl : Slot) : (s.setSlot g i sl).resv = s.resv := rfl
@[simp] theorem setSlot_migrations (s : State) (g : CoreId) (i : SlotId) (sl : Slot) : (s.setSlot g i sl).migrations = s.migrations := rfl
@[simp] theorem setSlot_nodes (s : State) (g : CoreId) (i : SlotId) (sl : Slot) : (s.setSlot g i sl).nodes = s.nodes := rfl
@[simp] theorem setSlot_edges (s : State) (g : CoreId) (i : SlotId) (sl : Slot) : (s.setSlot g i sl).edges = s.edges := rfl
@[simp] theorem setSlot_dev (s : State) (g : CoreId) (i : SlotId) (sl : Slot) : (s.setSlot g i sl).dev = s.dev := rfl
@[simp] theorem setSlot_grants (s : State) (g : CoreId) (i : SlotId) (sl : Slot) : (s.setSlot g i sl).grants = s.grants := rfl
@[simp] theorem setSlot_lostGrains (s : State) (g : CoreId) (i : SlotId) (sl : Slot) : (s.setSlot g i sl).lostGrains = s.lostGrains := rfl
@[simp] theorem setSlot_throttle (s : State) (g : CoreId) (i : SlotId) (sl : Slot) : (s.setSlot g i sl).throttle = s.throttle := rfl
@[simp] theorem setSlot_starting (s : State) (g : CoreId) (i : SlotId) (sl : Slot) : (s.setSlot g i sl).starting = s.starting := rfl
@[simp] theorem setSlot_voltPlan (s : State) (g : CoreId) (i : SlotId) (sl : Slot) : (s.setSlot g i sl).voltPlan = s.voltPlan := rfl
@[simp] theorem setSlot_volt (s : State) (g : CoreId) (i : SlotId) (sl : Slot) : (s.setSlot g i sl).volt = s.volt := rfl
@[simp] theorem setSlot_delay (s : State) (g : CoreId) (i : SlotId) (sl : Slot) : (s.setSlot g i sl).delay = s.delay := rfl
@[simp] theorem setSlot_delayBase (s : State) (g : CoreId) (i : SlotId) (sl : Slot) : (s.setSlot g i sl).delayBase = s.delayBase := rfl
@[simp] theorem setSlot_debugOpen (s : State) (g : CoreId) (i : SlotId) (sl : Slot) : (s.setSlot g i sl).debugOpen = s.debugOpen := rfl
@[simp] theorem setSlot_reports (s : State) (g : CoreId) (i : SlotId) (sl : Slot) : (s.setSlot g i sl).reports = s.reports := rfl
@[simp] theorem setSlot_fePtr (s : State) (g : CoreId) (i : SlotId) (sl : Slot) : (s.setSlot g i sl).fePtr = s.fePtr := rfl
@[simp] theorem setSlot_nextAct (s : State) (g : CoreId) (i : SlotId) (sl : Slot) : (s.setSlot g i sl).nextAct = s.nextAct := rfl
@[simp] theorem setSlot_nextPend (s : State) (g : CoreId) (i : SlotId) (sl : Slot) : (s.setSlot g i sl).nextPend = s.nextPend := rfl
@[simp] theorem setSlot_nextCont (s : State) (g : CoreId) (i : SlotId) (sl : Slot) : (s.setSlot g i sl).nextCont = s.nextCont := rfl
@[simp] theorem setSlot_now (s : State) (g : CoreId) (i : SlotId) (sl : Slot) : (s.setSlot g i sl).now = s.now := rfl
@[simp] theorem setSlot_piece (s : State) (g : CoreId) (i : SlotId) (sl : Slot) : (s.setSlot g i sl).piece = s.piece := rfl
@[simp] theorem setSlot_later (s : State) (g : CoreId) (i : SlotId) (sl : Slot) : (s.setSlot g i sl).later = s.later := rfl
@[simp] theorem setSlot_agent (s : State) (g : CoreId) (i : SlotId) (sl : Slot) : (s.setSlot g i sl).agent = s.agent := rfl
@[simp] theorem setSlot_agenda (s : State) (g : CoreId) (i : SlotId) (sl : Slot) : (s.setSlot g i sl).agenda = s.agenda := rfl

/-! ## State.modSlot: every other field -/

@[simp] theorem modSlot_dies (s : State) (g : CoreId) (i : SlotId) (f : Slot → Slot) : (s.modSlot g i f).dies = s.dies := rfl
@[simp] theorem modSlot_doms (s : State) (g : CoreId) (i : SlotId) (f : Slot → Slot) : (s.modSlot g i f).doms = s.doms := rfl
@[simp] theorem modSlot_mem (s : State) (g : CoreId) (i : SlotId) (f : Slot → Slot) : (s.modSlot g i f).mem = s.mem := rfl
@[simp] theorem modSlot_fabric (s : State) (g : CoreId) (i : SlotId) (f : Slot → Slot) : (s.modSlot g i f).fabric = s.fabric := rfl
@[simp] theorem modSlot_poison (s : State) (g : CoreId) (i : SlotId) (f : Slot → Slot) : (s.modSlot g i f).poison = s.poison := rfl
@[simp] theorem modSlot_cycle (s : State) (g : CoreId) (i : SlotId) (f : Slot → Slot) : (s.modSlot g i f).cycle = s.cycle := rfl
@[simp] theorem modSlot_time (s : State) (g : CoreId) (i : SlotId) (f : Slot → Slot) : (s.modSlot g i f).time = s.time := rfl
@[simp] theorem modSlot_cycleOff (s : State) (g : CoreId) (i : SlotId) (f : Slot → Slot) : (s.modSlot g i f).cycleOff = s.cycleOff := rfl
@[simp] theorem modSlot_timeOff (s : State) (g : CoreId) (i : SlotId) (f : Slot → Slot) : (s.modSlot g i f).timeOff = s.timeOff := rfl
@[simp] theorem modSlot_launches (s : State) (g : CoreId) (i : SlotId) (f : Slot → Slot) : (s.modSlot g i f).launches = s.launches := rfl
@[simp] theorem modSlot_lastLid (s : State) (g : CoreId) (i : SlotId) (f : Slot → Slot) : (s.modSlot g i f).lastLid = s.lastLid := rfl
@[simp] theorem modSlot_pkgBar (s : State) (g : CoreId) (i : SlotId) (f : Slot → Slot) : (s.modSlot g i f).pkgBar = s.pkgBar := rfl
@[simp] theorem modSlot_podBar (s : State) (g : CoreId) (i : SlotId) (f : Slot → Slot) : (s.modSlot g i f).podBar = s.podBar := rfl
@[simp] theorem modSlot_net (s : State) (g : CoreId) (i : SlotId) (f : Slot → Slot) : (s.modSlot g i f).net = s.net := rfl
@[simp] theorem modSlot_transit (s : State) (g : CoreId) (i : SlotId) (f : Slot → Slot) : (s.modSlot g i f).transit = s.transit := rfl
@[simp] theorem modSlot_steals (s : State) (g : CoreId) (i : SlotId) (f : Slot → Slot) : (s.modSlot g i f).steals = s.steals := rfl
@[simp] theorem modSlot_rounds (s : State) (g : CoreId) (i : SlotId) (f : Slot → Slot) : (s.modSlot g i f).rounds = s.rounds := rfl
@[simp] theorem modSlot_contribs (s : State) (g : CoreId) (i : SlotId) (f : Slot → Slot) : (s.modSlot g i f).contribs = s.contribs := rfl
@[simp] theorem modSlot_staged (s : State) (g : CoreId) (i : SlotId) (f : Slot → Slot) : (s.modSlot g i f).staged = s.staged := rfl
@[simp] theorem modSlot_refused (s : State) (g : CoreId) (i : SlotId) (f : Slot → Slot) : (s.modSlot g i f).refused = s.refused := rfl
@[simp] theorem modSlot_conts (s : State) (g : CoreId) (i : SlotId) (f : Slot → Slot) : (s.modSlot g i f).conts = s.conts := rfl
@[simp] theorem modSlot_watches (s : State) (g : CoreId) (i : SlotId) (f : Slot → Slot) : (s.modSlot g i f).watches = s.watches := rfl
@[simp] theorem modSlot_resv (s : State) (g : CoreId) (i : SlotId) (f : Slot → Slot) : (s.modSlot g i f).resv = s.resv := rfl
@[simp] theorem modSlot_migrations (s : State) (g : CoreId) (i : SlotId) (f : Slot → Slot) : (s.modSlot g i f).migrations = s.migrations := rfl
@[simp] theorem modSlot_nodes (s : State) (g : CoreId) (i : SlotId) (f : Slot → Slot) : (s.modSlot g i f).nodes = s.nodes := rfl
@[simp] theorem modSlot_edges (s : State) (g : CoreId) (i : SlotId) (f : Slot → Slot) : (s.modSlot g i f).edges = s.edges := rfl
@[simp] theorem modSlot_dev (s : State) (g : CoreId) (i : SlotId) (f : Slot → Slot) : (s.modSlot g i f).dev = s.dev := rfl
@[simp] theorem modSlot_grants (s : State) (g : CoreId) (i : SlotId) (f : Slot → Slot) : (s.modSlot g i f).grants = s.grants := rfl
@[simp] theorem modSlot_lostGrains (s : State) (g : CoreId) (i : SlotId) (f : Slot → Slot) : (s.modSlot g i f).lostGrains = s.lostGrains := rfl
@[simp] theorem modSlot_throttle (s : State) (g : CoreId) (i : SlotId) (f : Slot → Slot) : (s.modSlot g i f).throttle = s.throttle := rfl
@[simp] theorem modSlot_starting (s : State) (g : CoreId) (i : SlotId) (f : Slot → Slot) : (s.modSlot g i f).starting = s.starting := rfl
@[simp] theorem modSlot_voltPlan (s : State) (g : CoreId) (i : SlotId) (f : Slot → Slot) : (s.modSlot g i f).voltPlan = s.voltPlan := rfl
@[simp] theorem modSlot_volt (s : State) (g : CoreId) (i : SlotId) (f : Slot → Slot) : (s.modSlot g i f).volt = s.volt := rfl
@[simp] theorem modSlot_delay (s : State) (g : CoreId) (i : SlotId) (f : Slot → Slot) : (s.modSlot g i f).delay = s.delay := rfl
@[simp] theorem modSlot_delayBase (s : State) (g : CoreId) (i : SlotId) (f : Slot → Slot) : (s.modSlot g i f).delayBase = s.delayBase := rfl
@[simp] theorem modSlot_debugOpen (s : State) (g : CoreId) (i : SlotId) (f : Slot → Slot) : (s.modSlot g i f).debugOpen = s.debugOpen := rfl
@[simp] theorem modSlot_reports (s : State) (g : CoreId) (i : SlotId) (f : Slot → Slot) : (s.modSlot g i f).reports = s.reports := rfl
@[simp] theorem modSlot_fePtr (s : State) (g : CoreId) (i : SlotId) (f : Slot → Slot) : (s.modSlot g i f).fePtr = s.fePtr := rfl
@[simp] theorem modSlot_nextAct (s : State) (g : CoreId) (i : SlotId) (f : Slot → Slot) : (s.modSlot g i f).nextAct = s.nextAct := rfl
@[simp] theorem modSlot_nextPend (s : State) (g : CoreId) (i : SlotId) (f : Slot → Slot) : (s.modSlot g i f).nextPend = s.nextPend := rfl
@[simp] theorem modSlot_nextCont (s : State) (g : CoreId) (i : SlotId) (f : Slot → Slot) : (s.modSlot g i f).nextCont = s.nextCont := rfl
@[simp] theorem modSlot_now (s : State) (g : CoreId) (i : SlotId) (f : Slot → Slot) : (s.modSlot g i f).now = s.now := rfl
@[simp] theorem modSlot_piece (s : State) (g : CoreId) (i : SlotId) (f : Slot → Slot) : (s.modSlot g i f).piece = s.piece := rfl
@[simp] theorem modSlot_later (s : State) (g : CoreId) (i : SlotId) (f : Slot → Slot) : (s.modSlot g i f).later = s.later := rfl
@[simp] theorem modSlot_agent (s : State) (g : CoreId) (i : SlotId) (f : Slot → Slot) : (s.modSlot g i f).agent = s.agent := rfl
@[simp] theorem modSlot_agenda (s : State) (g : CoreId) (i : SlotId) (f : Slot → Slot) : (s.modSlot g i f).agenda = s.agenda := rfl

/-! ## State.modPart: every other field -/

@[simp] theorem modPart_dies (s : State) (g : CoreId) (e : PartId) (f : Part → Part) : (s.modPart g e f).dies = s.dies := rfl
@[simp] theorem modPart_doms (s : State) (g : CoreId) (e : PartId) (f : Part → Part) : (s.modPart g e f).doms = s.doms := rfl
@[simp] theorem modPart_mem (s : State) (g : CoreId) (e : PartId) (f : Part → Part) : (s.modPart g e f).mem = s.mem := rfl
@[simp] theorem modPart_fabric (s : State) (g : CoreId) (e : PartId) (f : Part → Part) : (s.modPart g e f).fabric = s.fabric := rfl
@[simp] theorem modPart_poison (s : State) (g : CoreId) (e : PartId) (f : Part → Part) : (s.modPart g e f).poison = s.poison := rfl
@[simp] theorem modPart_cycle (s : State) (g : CoreId) (e : PartId) (f : Part → Part) : (s.modPart g e f).cycle = s.cycle := rfl
@[simp] theorem modPart_time (s : State) (g : CoreId) (e : PartId) (f : Part → Part) : (s.modPart g e f).time = s.time := rfl
@[simp] theorem modPart_cycleOff (s : State) (g : CoreId) (e : PartId) (f : Part → Part) : (s.modPart g e f).cycleOff = s.cycleOff := rfl
@[simp] theorem modPart_timeOff (s : State) (g : CoreId) (e : PartId) (f : Part → Part) : (s.modPart g e f).timeOff = s.timeOff := rfl
@[simp] theorem modPart_launches (s : State) (g : CoreId) (e : PartId) (f : Part → Part) : (s.modPart g e f).launches = s.launches := rfl
@[simp] theorem modPart_lastLid (s : State) (g : CoreId) (e : PartId) (f : Part → Part) : (s.modPart g e f).lastLid = s.lastLid := rfl
@[simp] theorem modPart_pkgBar (s : State) (g : CoreId) (e : PartId) (f : Part → Part) : (s.modPart g e f).pkgBar = s.pkgBar := rfl
@[simp] theorem modPart_podBar (s : State) (g : CoreId) (e : PartId) (f : Part → Part) : (s.modPart g e f).podBar = s.podBar := rfl
@[simp] theorem modPart_net (s : State) (g : CoreId) (e : PartId) (f : Part → Part) : (s.modPart g e f).net = s.net := rfl
@[simp] theorem modPart_transit (s : State) (g : CoreId) (e : PartId) (f : Part → Part) : (s.modPart g e f).transit = s.transit := rfl
@[simp] theorem modPart_steals (s : State) (g : CoreId) (e : PartId) (f : Part → Part) : (s.modPart g e f).steals = s.steals := rfl
@[simp] theorem modPart_rounds (s : State) (g : CoreId) (e : PartId) (f : Part → Part) : (s.modPart g e f).rounds = s.rounds := rfl
@[simp] theorem modPart_contribs (s : State) (g : CoreId) (e : PartId) (f : Part → Part) : (s.modPart g e f).contribs = s.contribs := rfl
@[simp] theorem modPart_staged (s : State) (g : CoreId) (e : PartId) (f : Part → Part) : (s.modPart g e f).staged = s.staged := rfl
@[simp] theorem modPart_refused (s : State) (g : CoreId) (e : PartId) (f : Part → Part) : (s.modPart g e f).refused = s.refused := rfl
@[simp] theorem modPart_conts (s : State) (g : CoreId) (e : PartId) (f : Part → Part) : (s.modPart g e f).conts = s.conts := rfl
@[simp] theorem modPart_watches (s : State) (g : CoreId) (e : PartId) (f : Part → Part) : (s.modPart g e f).watches = s.watches := rfl
@[simp] theorem modPart_resv (s : State) (g : CoreId) (e : PartId) (f : Part → Part) : (s.modPart g e f).resv = s.resv := rfl
@[simp] theorem modPart_migrations (s : State) (g : CoreId) (e : PartId) (f : Part → Part) : (s.modPart g e f).migrations = s.migrations := rfl
@[simp] theorem modPart_nodes (s : State) (g : CoreId) (e : PartId) (f : Part → Part) : (s.modPart g e f).nodes = s.nodes := rfl
@[simp] theorem modPart_edges (s : State) (g : CoreId) (e : PartId) (f : Part → Part) : (s.modPart g e f).edges = s.edges := rfl
@[simp] theorem modPart_dev (s : State) (g : CoreId) (e : PartId) (f : Part → Part) : (s.modPart g e f).dev = s.dev := rfl
@[simp] theorem modPart_grants (s : State) (g : CoreId) (e : PartId) (f : Part → Part) : (s.modPart g e f).grants = s.grants := rfl
@[simp] theorem modPart_lostGrains (s : State) (g : CoreId) (e : PartId) (f : Part → Part) : (s.modPart g e f).lostGrains = s.lostGrains := rfl
@[simp] theorem modPart_throttle (s : State) (g : CoreId) (e : PartId) (f : Part → Part) : (s.modPart g e f).throttle = s.throttle := rfl
@[simp] theorem modPart_starting (s : State) (g : CoreId) (e : PartId) (f : Part → Part) : (s.modPart g e f).starting = s.starting := rfl
@[simp] theorem modPart_voltPlan (s : State) (g : CoreId) (e : PartId) (f : Part → Part) : (s.modPart g e f).voltPlan = s.voltPlan := rfl
@[simp] theorem modPart_volt (s : State) (g : CoreId) (e : PartId) (f : Part → Part) : (s.modPart g e f).volt = s.volt := rfl
@[simp] theorem modPart_delay (s : State) (g : CoreId) (e : PartId) (f : Part → Part) : (s.modPart g e f).delay = s.delay := rfl
@[simp] theorem modPart_delayBase (s : State) (g : CoreId) (e : PartId) (f : Part → Part) : (s.modPart g e f).delayBase = s.delayBase := rfl
@[simp] theorem modPart_debugOpen (s : State) (g : CoreId) (e : PartId) (f : Part → Part) : (s.modPart g e f).debugOpen = s.debugOpen := rfl
@[simp] theorem modPart_reports (s : State) (g : CoreId) (e : PartId) (f : Part → Part) : (s.modPart g e f).reports = s.reports := rfl
@[simp] theorem modPart_fePtr (s : State) (g : CoreId) (e : PartId) (f : Part → Part) : (s.modPart g e f).fePtr = s.fePtr := rfl
@[simp] theorem modPart_nextAct (s : State) (g : CoreId) (e : PartId) (f : Part → Part) : (s.modPart g e f).nextAct = s.nextAct := rfl
@[simp] theorem modPart_nextPend (s : State) (g : CoreId) (e : PartId) (f : Part → Part) : (s.modPart g e f).nextPend = s.nextPend := rfl
@[simp] theorem modPart_nextCont (s : State) (g : CoreId) (e : PartId) (f : Part → Part) : (s.modPart g e f).nextCont = s.nextCont := rfl
@[simp] theorem modPart_now (s : State) (g : CoreId) (e : PartId) (f : Part → Part) : (s.modPart g e f).now = s.now := rfl
@[simp] theorem modPart_piece (s : State) (g : CoreId) (e : PartId) (f : Part → Part) : (s.modPart g e f).piece = s.piece := rfl
@[simp] theorem modPart_later (s : State) (g : CoreId) (e : PartId) (f : Part → Part) : (s.modPart g e f).later = s.later := rfl
@[simp] theorem modPart_agent (s : State) (g : CoreId) (e : PartId) (f : Part → Part) : (s.modPart g e f).agent = s.agent := rfl
@[simp] theorem modPart_agenda (s : State) (g : CoreId) (e : PartId) (f : Part → Part) : (s.modPart g e f).agenda = s.agenda := rfl

/-! ## State.modDie: every other field -/

@[simp] theorem modDie_cores (s : State) (d : DieId) (f : Die → Die) : (s.modDie d f).cores = s.cores := rfl
@[simp] theorem modDie_doms (s : State) (d : DieId) (f : Die → Die) : (s.modDie d f).doms = s.doms := rfl
@[simp] theorem modDie_mem (s : State) (d : DieId) (f : Die → Die) : (s.modDie d f).mem = s.mem := rfl
@[simp] theorem modDie_fabric (s : State) (d : DieId) (f : Die → Die) : (s.modDie d f).fabric = s.fabric := rfl
@[simp] theorem modDie_poison (s : State) (d : DieId) (f : Die → Die) : (s.modDie d f).poison = s.poison := rfl
@[simp] theorem modDie_cycle (s : State) (d : DieId) (f : Die → Die) : (s.modDie d f).cycle = s.cycle := rfl
@[simp] theorem modDie_time (s : State) (d : DieId) (f : Die → Die) : (s.modDie d f).time = s.time := rfl
@[simp] theorem modDie_cycleOff (s : State) (d : DieId) (f : Die → Die) : (s.modDie d f).cycleOff = s.cycleOff := rfl
@[simp] theorem modDie_timeOff (s : State) (d : DieId) (f : Die → Die) : (s.modDie d f).timeOff = s.timeOff := rfl
@[simp] theorem modDie_launches (s : State) (d : DieId) (f : Die → Die) : (s.modDie d f).launches = s.launches := rfl
@[simp] theorem modDie_lastLid (s : State) (d : DieId) (f : Die → Die) : (s.modDie d f).lastLid = s.lastLid := rfl
@[simp] theorem modDie_pkgBar (s : State) (d : DieId) (f : Die → Die) : (s.modDie d f).pkgBar = s.pkgBar := rfl
@[simp] theorem modDie_podBar (s : State) (d : DieId) (f : Die → Die) : (s.modDie d f).podBar = s.podBar := rfl
@[simp] theorem modDie_net (s : State) (d : DieId) (f : Die → Die) : (s.modDie d f).net = s.net := rfl
@[simp] theorem modDie_transit (s : State) (d : DieId) (f : Die → Die) : (s.modDie d f).transit = s.transit := rfl
@[simp] theorem modDie_steals (s : State) (d : DieId) (f : Die → Die) : (s.modDie d f).steals = s.steals := rfl
@[simp] theorem modDie_rounds (s : State) (d : DieId) (f : Die → Die) : (s.modDie d f).rounds = s.rounds := rfl
@[simp] theorem modDie_contribs (s : State) (d : DieId) (f : Die → Die) : (s.modDie d f).contribs = s.contribs := rfl
@[simp] theorem modDie_staged (s : State) (d : DieId) (f : Die → Die) : (s.modDie d f).staged = s.staged := rfl
@[simp] theorem modDie_refused (s : State) (d : DieId) (f : Die → Die) : (s.modDie d f).refused = s.refused := rfl
@[simp] theorem modDie_conts (s : State) (d : DieId) (f : Die → Die) : (s.modDie d f).conts = s.conts := rfl
@[simp] theorem modDie_watches (s : State) (d : DieId) (f : Die → Die) : (s.modDie d f).watches = s.watches := rfl
@[simp] theorem modDie_resv (s : State) (d : DieId) (f : Die → Die) : (s.modDie d f).resv = s.resv := rfl
@[simp] theorem modDie_migrations (s : State) (d : DieId) (f : Die → Die) : (s.modDie d f).migrations = s.migrations := rfl
@[simp] theorem modDie_nodes (s : State) (d : DieId) (f : Die → Die) : (s.modDie d f).nodes = s.nodes := rfl
@[simp] theorem modDie_edges (s : State) (d : DieId) (f : Die → Die) : (s.modDie d f).edges = s.edges := rfl
@[simp] theorem modDie_dev (s : State) (d : DieId) (f : Die → Die) : (s.modDie d f).dev = s.dev := rfl
@[simp] theorem modDie_grants (s : State) (d : DieId) (f : Die → Die) : (s.modDie d f).grants = s.grants := rfl
@[simp] theorem modDie_lostGrains (s : State) (d : DieId) (f : Die → Die) : (s.modDie d f).lostGrains = s.lostGrains := rfl
@[simp] theorem modDie_throttle (s : State) (d : DieId) (f : Die → Die) : (s.modDie d f).throttle = s.throttle := rfl
@[simp] theorem modDie_starting (s : State) (d : DieId) (f : Die → Die) : (s.modDie d f).starting = s.starting := rfl
@[simp] theorem modDie_voltPlan (s : State) (d : DieId) (f : Die → Die) : (s.modDie d f).voltPlan = s.voltPlan := rfl
@[simp] theorem modDie_volt (s : State) (d : DieId) (f : Die → Die) : (s.modDie d f).volt = s.volt := rfl
@[simp] theorem modDie_delay (s : State) (d : DieId) (f : Die → Die) : (s.modDie d f).delay = s.delay := rfl
@[simp] theorem modDie_delayBase (s : State) (d : DieId) (f : Die → Die) : (s.modDie d f).delayBase = s.delayBase := rfl
@[simp] theorem modDie_debugOpen (s : State) (d : DieId) (f : Die → Die) : (s.modDie d f).debugOpen = s.debugOpen := rfl
@[simp] theorem modDie_reports (s : State) (d : DieId) (f : Die → Die) : (s.modDie d f).reports = s.reports := rfl
@[simp] theorem modDie_fePtr (s : State) (d : DieId) (f : Die → Die) : (s.modDie d f).fePtr = s.fePtr := rfl
@[simp] theorem modDie_nextAct (s : State) (d : DieId) (f : Die → Die) : (s.modDie d f).nextAct = s.nextAct := rfl
@[simp] theorem modDie_nextPend (s : State) (d : DieId) (f : Die → Die) : (s.modDie d f).nextPend = s.nextPend := rfl
@[simp] theorem modDie_nextCont (s : State) (d : DieId) (f : Die → Die) : (s.modDie d f).nextCont = s.nextCont := rfl
@[simp] theorem modDie_now (s : State) (d : DieId) (f : Die → Die) : (s.modDie d f).now = s.now := rfl
@[simp] theorem modDie_piece (s : State) (d : DieId) (f : Die → Die) : (s.modDie d f).piece = s.piece := rfl
@[simp] theorem modDie_later (s : State) (d : DieId) (f : Die → Die) : (s.modDie d f).later = s.later := rfl
@[simp] theorem modDie_agent (s : State) (d : DieId) (f : Die → Die) : (s.modDie d f).agent = s.agent := rfl
@[simp] theorem modDie_agenda (s : State) (d : DieId) (f : Die → Die) : (s.modDie d f).agenda = s.agenda := rfl

/-! ## State.modDom: every other field -/

@[simp] theorem modDom_cores (s : State) (d : Dom) (f : Domain → Domain) : (s.modDom d f).cores = s.cores := rfl
@[simp] theorem modDom_dies (s : State) (d : Dom) (f : Domain → Domain) : (s.modDom d f).dies = s.dies := rfl
@[simp] theorem modDom_mem (s : State) (d : Dom) (f : Domain → Domain) : (s.modDom d f).mem = s.mem := rfl
@[simp] theorem modDom_fabric (s : State) (d : Dom) (f : Domain → Domain) : (s.modDom d f).fabric = s.fabric := rfl
@[simp] theorem modDom_poison (s : State) (d : Dom) (f : Domain → Domain) : (s.modDom d f).poison = s.poison := rfl
@[simp] theorem modDom_cycle (s : State) (d : Dom) (f : Domain → Domain) : (s.modDom d f).cycle = s.cycle := rfl
@[simp] theorem modDom_time (s : State) (d : Dom) (f : Domain → Domain) : (s.modDom d f).time = s.time := rfl
@[simp] theorem modDom_cycleOff (s : State) (d : Dom) (f : Domain → Domain) : (s.modDom d f).cycleOff = s.cycleOff := rfl
@[simp] theorem modDom_timeOff (s : State) (d : Dom) (f : Domain → Domain) : (s.modDom d f).timeOff = s.timeOff := rfl
@[simp] theorem modDom_launches (s : State) (d : Dom) (f : Domain → Domain) : (s.modDom d f).launches = s.launches := rfl
@[simp] theorem modDom_lastLid (s : State) (d : Dom) (f : Domain → Domain) : (s.modDom d f).lastLid = s.lastLid := rfl
@[simp] theorem modDom_pkgBar (s : State) (d : Dom) (f : Domain → Domain) : (s.modDom d f).pkgBar = s.pkgBar := rfl
@[simp] theorem modDom_podBar (s : State) (d : Dom) (f : Domain → Domain) : (s.modDom d f).podBar = s.podBar := rfl
@[simp] theorem modDom_net (s : State) (d : Dom) (f : Domain → Domain) : (s.modDom d f).net = s.net := rfl
@[simp] theorem modDom_transit (s : State) (d : Dom) (f : Domain → Domain) : (s.modDom d f).transit = s.transit := rfl
@[simp] theorem modDom_steals (s : State) (d : Dom) (f : Domain → Domain) : (s.modDom d f).steals = s.steals := rfl
@[simp] theorem modDom_rounds (s : State) (d : Dom) (f : Domain → Domain) : (s.modDom d f).rounds = s.rounds := rfl
@[simp] theorem modDom_contribs (s : State) (d : Dom) (f : Domain → Domain) : (s.modDom d f).contribs = s.contribs := rfl
@[simp] theorem modDom_staged (s : State) (d : Dom) (f : Domain → Domain) : (s.modDom d f).staged = s.staged := rfl
@[simp] theorem modDom_refused (s : State) (d : Dom) (f : Domain → Domain) : (s.modDom d f).refused = s.refused := rfl
@[simp] theorem modDom_conts (s : State) (d : Dom) (f : Domain → Domain) : (s.modDom d f).conts = s.conts := rfl
@[simp] theorem modDom_watches (s : State) (d : Dom) (f : Domain → Domain) : (s.modDom d f).watches = s.watches := rfl
@[simp] theorem modDom_resv (s : State) (d : Dom) (f : Domain → Domain) : (s.modDom d f).resv = s.resv := rfl
@[simp] theorem modDom_migrations (s : State) (d : Dom) (f : Domain → Domain) : (s.modDom d f).migrations = s.migrations := rfl
@[simp] theorem modDom_nodes (s : State) (d : Dom) (f : Domain → Domain) : (s.modDom d f).nodes = s.nodes := rfl
@[simp] theorem modDom_edges (s : State) (d : Dom) (f : Domain → Domain) : (s.modDom d f).edges = s.edges := rfl
@[simp] theorem modDom_dev (s : State) (d : Dom) (f : Domain → Domain) : (s.modDom d f).dev = s.dev := rfl
@[simp] theorem modDom_grants (s : State) (d : Dom) (f : Domain → Domain) : (s.modDom d f).grants = s.grants := rfl
@[simp] theorem modDom_lostGrains (s : State) (d : Dom) (f : Domain → Domain) : (s.modDom d f).lostGrains = s.lostGrains := rfl
@[simp] theorem modDom_throttle (s : State) (d : Dom) (f : Domain → Domain) : (s.modDom d f).throttle = s.throttle := rfl
@[simp] theorem modDom_starting (s : State) (d : Dom) (f : Domain → Domain) : (s.modDom d f).starting = s.starting := rfl
@[simp] theorem modDom_voltPlan (s : State) (d : Dom) (f : Domain → Domain) : (s.modDom d f).voltPlan = s.voltPlan := rfl
@[simp] theorem modDom_volt (s : State) (d : Dom) (f : Domain → Domain) : (s.modDom d f).volt = s.volt := rfl
@[simp] theorem modDom_delay (s : State) (d : Dom) (f : Domain → Domain) : (s.modDom d f).delay = s.delay := rfl
@[simp] theorem modDom_delayBase (s : State) (d : Dom) (f : Domain → Domain) : (s.modDom d f).delayBase = s.delayBase := rfl
@[simp] theorem modDom_debugOpen (s : State) (d : Dom) (f : Domain → Domain) : (s.modDom d f).debugOpen = s.debugOpen := rfl
@[simp] theorem modDom_reports (s : State) (d : Dom) (f : Domain → Domain) : (s.modDom d f).reports = s.reports := rfl
@[simp] theorem modDom_fePtr (s : State) (d : Dom) (f : Domain → Domain) : (s.modDom d f).fePtr = s.fePtr := rfl
@[simp] theorem modDom_nextAct (s : State) (d : Dom) (f : Domain → Domain) : (s.modDom d f).nextAct = s.nextAct := rfl
@[simp] theorem modDom_nextPend (s : State) (d : Dom) (f : Domain → Domain) : (s.modDom d f).nextPend = s.nextPend := rfl
@[simp] theorem modDom_nextCont (s : State) (d : Dom) (f : Domain → Domain) : (s.modDom d f).nextCont = s.nextCont := rfl
@[simp] theorem modDom_now (s : State) (d : Dom) (f : Domain → Domain) : (s.modDom d f).now = s.now := rfl
@[simp] theorem modDom_piece (s : State) (d : Dom) (f : Domain → Domain) : (s.modDom d f).piece = s.piece := rfl
@[simp] theorem modDom_later (s : State) (d : Dom) (f : Domain → Domain) : (s.modDom d f).later = s.later := rfl
@[simp] theorem modDom_agent (s : State) (d : Dom) (f : Domain → Domain) : (s.modDom d f).agent = s.agent := rfl
@[simp] theorem modDom_agenda (s : State) (d : Dom) (f : Domain → Domain) : (s.modDom d f).agenda = s.agenda := rfl

/-! ## Core.setSlot: every other field -/

@[simp] theorem coreSetSlot_part (c : Core) (i : SlotId) (sl : Slot) : (c.setSlot i sl).part = c.part := rfl
@[simp] theorem coreSetSlot_pipes (c : Core) (i : SlotId) (sl : Slot) : (c.setSlot i sl).pipes = c.pipes := rfl
@[simp] theorem coreSetSlot_roundEnd (c : Core) (i : SlotId) (sl : Slot) : (c.setSlot i sl).roundEnd = c.roundEnd := rfl
@[simp] theorem coreSetSlot_sendBuf (c : Core) (i : SlotId) (sl : Slot) : (c.setSlot i sl).sendBuf = c.sendBuf := rfl
@[simp] theorem coreSetSlot_outside (c : Core) (i : SlotId) (sl : Slot) : (c.setSlot i sl).outside = c.outside := rfl
@[simp] theorem coreSetSlot_queues (c : Core) (i : SlotId) (sl : Slot) : (c.setSlot i sl).queues = c.queues := rfl
@[simp] theorem coreSetSlot_doneCmds (c : Core) (i : SlotId) (sl : Slot) : (c.setSlot i sl).doneCmds = c.doneCmds := rfl
@[simp] theorem coreSetSlot_acc (c : Core) (i : SlotId) (sl : Slot) : (c.setSlot i sl).acc = c.acc := rfl
@[simp] theorem coreSetSlot_scratch (c : Core) (i : SlotId) (sl : Slot) : (c.setSlot i sl).scratch = c.scratch := rfl
@[simp] theorem coreSetSlot_l1 (c : Core) (i : SlotId) (sl : Slot) : (c.setSlot i sl).l1 = c.l1 := rfl
@[simp] theorem coreSetSlot_fills (c : Core) (i : SlotId) (sl : Slot) : (c.setSlot i sl).fills = c.fills := rfl
@[simp] theorem coreSetSlot_tlb (c : Core) (i : SlotId) (sl : Slot) : (c.setSlot i sl).tlb = c.tlb := rfl
@[simp] theorem coreSetSlot_fetched (c : Core) (i : SlotId) (sl : Slot) : (c.setSlot i sl).fetched = c.fetched := rfl
@[simp] theorem coreSetSlot_tidCache (c : Core) (i : SlotId) (sl : Slot) : (c.setSlot i sl).tidCache = c.tidCache := rfl
@[simp] theorem coreSetSlot_pend (c : Core) (i : SlotId) (sl : Slot) : (c.setSlot i sl).pend = c.pend := rfl
@[simp] theorem coreSetSlot_l1ctl (c : Core) (i : SlotId) (sl : Slot) : (c.setSlot i sl).l1ctl = c.l1ctl := rfl
@[simp] theorem coreSetSlot_ev (c : Core) (i : SlotId) (sl : Slot) : (c.setSlot i sl).ev = c.ev := rfl
@[simp] theorem coreSetSlot_evdom (c : Core) (i : SlotId) (sl : Slot) : (c.setSlot i sl).evdom = c.evdom := rfl
@[simp] theorem coreSetSlot_ranks (c : Core) (i : SlotId) (sl : Slot) : (c.setSlot i sl).ranks = c.ranks := rfl
@[simp] theorem coreSetSlot_steal (c : Core) (i : SlotId) (sl : Slot) : (c.setSlot i sl).steal = c.steal := rfl

/-! ## Slot.writeX: every other field -/

@[simp] theorem writeX_v (sl : Slot) (n : BitVec 5) (w : Word) : (sl.writeX n w).v = sl.v := by unfold Slot.writeX; split <;> rfl
@[simp] theorem writeX_p (sl : Slot) (n : BitVec 5) (w : Word) : (sl.writeX n w).p = sl.p := by unfold Slot.writeX; split <;> rfl
@[simp] theorem writeX_k (sl : Slot) (n : BitVec 5) (w : Word) : (sl.writeX n w).k = sl.k := by unfold Slot.writeX; split <;> rfl
@[simp] theorem writeX_cnt (sl : Slot) (n : BitVec 5) (w : Word) : (sl.writeX n w).cnt = sl.cnt := by unfold Slot.writeX; split <;> rfl
@[simp] theorem writeX_fflags (sl : Slot) (n : BitVec 5) (w : Word) : (sl.writeX n w).fflags = sl.fflags := by unfold Slot.writeX; split <;> rfl
@[simp] theorem writeX_frm (sl : Slot) (n : BitVec 5) (w : Word) : (sl.writeX n w).frm = sl.frm := by unfold Slot.writeX; split <;> rfl
@[simp] theorem writeX_pc (sl : Slot) (n : BitVec 5) (w : Word) : (sl.writeX n w).pc = sl.pc := by unfold Slot.writeX; split <;> rfl
@[simp] theorem writeX_dom (sl : Slot) (n : BitVec 5) (w : Word) : (sl.writeX n w).dom = sl.dom := by unfold Slot.writeX; split <;> rfl
@[simp] theorem writeX_status (sl : Slot) (n : BitVec 5) (w : Word) : (sl.writeX n w).status = sl.status := by unfold Slot.writeX; split <;> rfl
@[simp] theorem writeX_task (sl : Slot) (n : BitVec 5) (w : Word) : (sl.writeX n w).task = sl.task := by unfold Slot.writeX; split <;> rfl
@[simp] theorem writeX_q (sl : Slot) (n : BitVec 5) (w : Word) : (sl.writeX n w).q = sl.q := by unfold Slot.writeX; split <;> rfl
@[simp] theorem writeX_eng (sl : Slot) (n : BitVec 5) (w : Word) : (sl.writeX n w).eng = sl.eng := by unfold Slot.writeX; split <;> rfl
@[simp] theorem writeX_acq (sl : Slot) (n : BitVec 5) (w : Word) : (sl.writeX n w).acq = sl.acq := by unfold Slot.writeX; split <;> rfl
@[simp] theorem writeX_tile (sl : Slot) (n : BitVec 5) (w : Word) : (sl.writeX n w).tile = sl.tile := by unfold Slot.writeX; split <;> rfl

/-! ## Slot.writeV: every other field -/

@[simp] theorem writeV_x (sl : Slot) (n : BitVec 6) (r : VReg) : (sl.writeV n r).x = sl.x := rfl
@[simp] theorem writeV_p (sl : Slot) (n : BitVec 6) (r : VReg) : (sl.writeV n r).p = sl.p := rfl
@[simp] theorem writeV_k (sl : Slot) (n : BitVec 6) (r : VReg) : (sl.writeV n r).k = sl.k := rfl
@[simp] theorem writeV_cnt (sl : Slot) (n : BitVec 6) (r : VReg) : (sl.writeV n r).cnt = sl.cnt := rfl
@[simp] theorem writeV_fflags (sl : Slot) (n : BitVec 6) (r : VReg) : (sl.writeV n r).fflags = sl.fflags := rfl
@[simp] theorem writeV_frm (sl : Slot) (n : BitVec 6) (r : VReg) : (sl.writeV n r).frm = sl.frm := rfl
@[simp] theorem writeV_pc (sl : Slot) (n : BitVec 6) (r : VReg) : (sl.writeV n r).pc = sl.pc := rfl
@[simp] theorem writeV_dom (sl : Slot) (n : BitVec 6) (r : VReg) : (sl.writeV n r).dom = sl.dom := rfl
@[simp] theorem writeV_status (sl : Slot) (n : BitVec 6) (r : VReg) : (sl.writeV n r).status = sl.status := rfl
@[simp] theorem writeV_task (sl : Slot) (n : BitVec 6) (r : VReg) : (sl.writeV n r).task = sl.task := rfl
@[simp] theorem writeV_q (sl : Slot) (n : BitVec 6) (r : VReg) : (sl.writeV n r).q = sl.q := rfl
@[simp] theorem writeV_eng (sl : Slot) (n : BitVec 6) (r : VReg) : (sl.writeV n r).eng = sl.eng := rfl
@[simp] theorem writeV_acq (sl : Slot) (n : BitVec 6) (r : VReg) : (sl.writeV n r).acq = sl.acq := rfl
@[simp] theorem writeV_tile (sl : Slot) (n : BitVec 6) (r : VReg) : (sl.writeV n r).tile = sl.tile := rfl

/-! ## Slot.writeK: every other field -/

@[simp] theorem writeK_x (sl : Slot) (n : BitVec 6) (w : Word) : (sl.writeK n w).x = sl.x := rfl
@[simp] theorem writeK_v (sl : Slot) (n : BitVec 6) (w : Word) : (sl.writeK n w).v = sl.v := rfl
@[simp] theorem writeK_p (sl : Slot) (n : BitVec 6) (w : Word) : (sl.writeK n w).p = sl.p := rfl
@[simp] theorem writeK_cnt (sl : Slot) (n : BitVec 6) (w : Word) : (sl.writeK n w).cnt = sl.cnt := rfl
@[simp] theorem writeK_fflags (sl : Slot) (n : BitVec 6) (w : Word) : (sl.writeK n w).fflags = sl.fflags := rfl
@[simp] theorem writeK_frm (sl : Slot) (n : BitVec 6) (w : Word) : (sl.writeK n w).frm = sl.frm := rfl
@[simp] theorem writeK_pc (sl : Slot) (n : BitVec 6) (w : Word) : (sl.writeK n w).pc = sl.pc := rfl
@[simp] theorem writeK_dom (sl : Slot) (n : BitVec 6) (w : Word) : (sl.writeK n w).dom = sl.dom := rfl
@[simp] theorem writeK_status (sl : Slot) (n : BitVec 6) (w : Word) : (sl.writeK n w).status = sl.status := rfl
@[simp] theorem writeK_task (sl : Slot) (n : BitVec 6) (w : Word) : (sl.writeK n w).task = sl.task := rfl
@[simp] theorem writeK_q (sl : Slot) (n : BitVec 6) (w : Word) : (sl.writeK n w).q = sl.q := rfl
@[simp] theorem writeK_eng (sl : Slot) (n : BitVec 6) (w : Word) : (sl.writeK n w).eng = sl.eng := rfl
@[simp] theorem writeK_acq (sl : Slot) (n : BitVec 6) (w : Word) : (sl.writeK n w).acq = sl.acq := rfl
@[simp] theorem writeK_tile (sl : Slot) (n : BitVec 6) (w : Word) : (sl.writeK n w).tile = sl.tile := rfl

/-! ## Slot.writeP: every other field -/

@[simp] theorem writeP_x (sl : Slot) (n : BitVec 3) (m : BitVec 32) : (sl.writeP n m).x = sl.x := by unfold Slot.writeP; split <;> rfl
@[simp] theorem writeP_v (sl : Slot) (n : BitVec 3) (m : BitVec 32) : (sl.writeP n m).v = sl.v := by unfold Slot.writeP; split <;> rfl
@[simp] theorem writeP_k (sl : Slot) (n : BitVec 3) (m : BitVec 32) : (sl.writeP n m).k = sl.k := by unfold Slot.writeP; split <;> rfl
@[simp] theorem writeP_cnt (sl : Slot) (n : BitVec 3) (m : BitVec 32) : (sl.writeP n m).cnt = sl.cnt := by unfold Slot.writeP; split <;> rfl
@[simp] theorem writeP_fflags (sl : Slot) (n : BitVec 3) (m : BitVec 32) : (sl.writeP n m).fflags = sl.fflags := by unfold Slot.writeP; split <;> rfl
@[simp] theorem writeP_frm (sl : Slot) (n : BitVec 3) (m : BitVec 32) : (sl.writeP n m).frm = sl.frm := by unfold Slot.writeP; split <;> rfl
@[simp] theorem writeP_pc (sl : Slot) (n : BitVec 3) (m : BitVec 32) : (sl.writeP n m).pc = sl.pc := by unfold Slot.writeP; split <;> rfl
@[simp] theorem writeP_dom (sl : Slot) (n : BitVec 3) (m : BitVec 32) : (sl.writeP n m).dom = sl.dom := by unfold Slot.writeP; split <;> rfl
@[simp] theorem writeP_status (sl : Slot) (n : BitVec 3) (m : BitVec 32) : (sl.writeP n m).status = sl.status := by unfold Slot.writeP; split <;> rfl
@[simp] theorem writeP_task (sl : Slot) (n : BitVec 3) (m : BitVec 32) : (sl.writeP n m).task = sl.task := by unfold Slot.writeP; split <;> rfl
@[simp] theorem writeP_q (sl : Slot) (n : BitVec 3) (m : BitVec 32) : (sl.writeP n m).q = sl.q := by unfold Slot.writeP; split <;> rfl
@[simp] theorem writeP_eng (sl : Slot) (n : BitVec 3) (m : BitVec 32) : (sl.writeP n m).eng = sl.eng := by unfold Slot.writeP; split <;> rfl
@[simp] theorem writeP_acq (sl : Slot) (n : BitVec 3) (m : BitVec 32) : (sl.writeP n m).acq = sl.acq := by unfold Slot.writeP; split <;> rfl
@[simp] theorem writeP_tile (sl : Slot) (n : BitVec 3) (m : BitVec 32) : (sl.writeP n m).tile = sl.tile := by unfold Slot.writeP; split <;> rfl

/-! ## Slot.orFlags: every other field -/

@[simp] theorem orFlags_x (sl : Slot) (f : BitVec 5) : (sl.orFlags f).x = sl.x := rfl
@[simp] theorem orFlags_v (sl : Slot) (f : BitVec 5) : (sl.orFlags f).v = sl.v := rfl
@[simp] theorem orFlags_p (sl : Slot) (f : BitVec 5) : (sl.orFlags f).p = sl.p := rfl
@[simp] theorem orFlags_k (sl : Slot) (f : BitVec 5) : (sl.orFlags f).k = sl.k := rfl
@[simp] theorem orFlags_cnt (sl : Slot) (f : BitVec 5) : (sl.orFlags f).cnt = sl.cnt := rfl
@[simp] theorem orFlags_frm (sl : Slot) (f : BitVec 5) : (sl.orFlags f).frm = sl.frm := rfl
@[simp] theorem orFlags_pc (sl : Slot) (f : BitVec 5) : (sl.orFlags f).pc = sl.pc := rfl
@[simp] theorem orFlags_dom (sl : Slot) (f : BitVec 5) : (sl.orFlags f).dom = sl.dom := rfl
@[simp] theorem orFlags_status (sl : Slot) (f : BitVec 5) : (sl.orFlags f).status = sl.status := rfl
@[simp] theorem orFlags_task (sl : Slot) (f : BitVec 5) : (sl.orFlags f).task = sl.task := rfl
@[simp] theorem orFlags_q (sl : Slot) (f : BitVec 5) : (sl.orFlags f).q = sl.q := rfl
@[simp] theorem orFlags_eng (sl : Slot) (f : BitVec 5) : (sl.orFlags f).eng = sl.eng := rfl
@[simp] theorem orFlags_acq (sl : Slot) (f : BitVec 5) : (sl.orFlags f).acq = sl.acq := rfl
@[simp] theorem orFlags_tile (sl : Slot) (f : BitVec 5) : (sl.orFlags f).tile = sl.tile := rfl

/-! ## Slot.wr: every other field -/

@[simp] theorem wr_v (sl : Slot) (d : Spec) (t : Ty) (r : Word) : (sl.wr d t r).v = sl.v := by cases d <;> simp [Slot.wr]
@[simp] theorem wr_p (sl : Slot) (d : Spec) (t : Ty) (r : Word) : (sl.wr d t r).p = sl.p := by cases d <;> simp [Slot.wr]
@[simp] theorem wr_k (sl : Slot) (d : Spec) (t : Ty) (r : Word) : (sl.wr d t r).k = sl.k := by cases d <;> simp [Slot.wr]
@[simp] theorem wr_cnt (sl : Slot) (d : Spec) (t : Ty) (r : Word) : (sl.wr d t r).cnt = sl.cnt := by cases d <;> simp [Slot.wr]
@[simp] theorem wr_fflags (sl : Slot) (d : Spec) (t : Ty) (r : Word) : (sl.wr d t r).fflags = sl.fflags := by cases d <;> simp [Slot.wr]
@[simp] theorem wr_frm (sl : Slot) (d : Spec) (t : Ty) (r : Word) : (sl.wr d t r).frm = sl.frm := by cases d <;> simp [Slot.wr]
@[simp] theorem wr_pc (sl : Slot) (d : Spec) (t : Ty) (r : Word) : (sl.wr d t r).pc = sl.pc := by cases d <;> simp [Slot.wr]
@[simp] theorem wr_dom (sl : Slot) (d : Spec) (t : Ty) (r : Word) : (sl.wr d t r).dom = sl.dom := by cases d <;> simp [Slot.wr]
@[simp] theorem wr_status (sl : Slot) (d : Spec) (t : Ty) (r : Word) : (sl.wr d t r).status = sl.status := by cases d <;> simp [Slot.wr]
@[simp] theorem wr_task (sl : Slot) (d : Spec) (t : Ty) (r : Word) : (sl.wr d t r).task = sl.task := by cases d <;> simp [Slot.wr]
@[simp] theorem wr_q (sl : Slot) (d : Spec) (t : Ty) (r : Word) : (sl.wr d t r).q = sl.q := by cases d <;> simp [Slot.wr]
@[simp] theorem wr_eng (sl : Slot) (d : Spec) (t : Ty) (r : Word) : (sl.wr d t r).eng = sl.eng := by cases d <;> simp [Slot.wr]
@[simp] theorem wr_acq (sl : Slot) (d : Spec) (t : Ty) (r : Word) : (sl.wr d t r).acq = sl.acq := by cases d <;> simp [Slot.wr]
@[simp] theorem wr_tile (sl : Slot) (d : Spec) (t : Ty) (r : Word) : (sl.wr d t r).tile = sl.tile := by cases d <;> simp [Slot.wr]

/-! ## Slot.wrW: every other field -/

@[simp] theorem wrW_v (sl : Slot) (d : Spec) (r : Word) : (sl.wrW d r).v = sl.v := by simp [Slot.wrW]
@[simp] theorem wrW_p (sl : Slot) (d : Spec) (r : Word) : (sl.wrW d r).p = sl.p := by simp [Slot.wrW]
@[simp] theorem wrW_k (sl : Slot) (d : Spec) (r : Word) : (sl.wrW d r).k = sl.k := by simp [Slot.wrW]
@[simp] theorem wrW_cnt (sl : Slot) (d : Spec) (r : Word) : (sl.wrW d r).cnt = sl.cnt := by simp [Slot.wrW]
@[simp] theorem wrW_fflags (sl : Slot) (d : Spec) (r : Word) : (sl.wrW d r).fflags = sl.fflags := by simp [Slot.wrW]
@[simp] theorem wrW_frm (sl : Slot) (d : Spec) (r : Word) : (sl.wrW d r).frm = sl.frm := by simp [Slot.wrW]
@[simp] theorem wrW_pc (sl : Slot) (d : Spec) (r : Word) : (sl.wrW d r).pc = sl.pc := by simp [Slot.wrW]
@[simp] theorem wrW_dom (sl : Slot) (d : Spec) (r : Word) : (sl.wrW d r).dom = sl.dom := by simp [Slot.wrW]
@[simp] theorem wrW_status (sl : Slot) (d : Spec) (r : Word) : (sl.wrW d r).status = sl.status := by simp [Slot.wrW]
@[simp] theorem wrW_task (sl : Slot) (d : Spec) (r : Word) : (sl.wrW d r).task = sl.task := by simp [Slot.wrW]
@[simp] theorem wrW_q (sl : Slot) (d : Spec) (r : Word) : (sl.wrW d r).q = sl.q := by simp [Slot.wrW]
@[simp] theorem wrW_eng (sl : Slot) (d : Spec) (r : Word) : (sl.wrW d r).eng = sl.eng := by simp [Slot.wrW]
@[simp] theorem wrW_acq (sl : Slot) (d : Spec) (r : Word) : (sl.wrW d r).acq = sl.acq := by simp [Slot.wrW]
@[simp] theorem wrW_tile (sl : Slot) (d : Spec) (r : Word) : (sl.wrW d r).tile = sl.tile := by simp [Slot.wrW]

/-! ## Slot.wrP: every other field -/

@[simp] theorem wrP_x (sl : Slot) (d : Spec) (m : BitVec 32) : (sl.wrP d m).x = sl.x := by cases d <;> simp [Slot.wrP]
@[simp] theorem wrP_v (sl : Slot) (d : Spec) (m : BitVec 32) : (sl.wrP d m).v = sl.v := by cases d <;> simp [Slot.wrP]
@[simp] theorem wrP_k (sl : Slot) (d : Spec) (m : BitVec 32) : (sl.wrP d m).k = sl.k := by cases d <;> simp [Slot.wrP]
@[simp] theorem wrP_cnt (sl : Slot) (d : Spec) (m : BitVec 32) : (sl.wrP d m).cnt = sl.cnt := by cases d <;> simp [Slot.wrP]
@[simp] theorem wrP_fflags (sl : Slot) (d : Spec) (m : BitVec 32) : (sl.wrP d m).fflags = sl.fflags := by cases d <;> simp [Slot.wrP]
@[simp] theorem wrP_frm (sl : Slot) (d : Spec) (m : BitVec 32) : (sl.wrP d m).frm = sl.frm := by cases d <;> simp [Slot.wrP]
@[simp] theorem wrP_pc (sl : Slot) (d : Spec) (m : BitVec 32) : (sl.wrP d m).pc = sl.pc := by cases d <;> simp [Slot.wrP]
@[simp] theorem wrP_dom (sl : Slot) (d : Spec) (m : BitVec 32) : (sl.wrP d m).dom = sl.dom := by cases d <;> simp [Slot.wrP]
@[simp] theorem wrP_status (sl : Slot) (d : Spec) (m : BitVec 32) : (sl.wrP d m).status = sl.status := by cases d <;> simp [Slot.wrP]
@[simp] theorem wrP_task (sl : Slot) (d : Spec) (m : BitVec 32) : (sl.wrP d m).task = sl.task := by cases d <;> simp [Slot.wrP]
@[simp] theorem wrP_q (sl : Slot) (d : Spec) (m : BitVec 32) : (sl.wrP d m).q = sl.q := by cases d <;> simp [Slot.wrP]
@[simp] theorem wrP_eng (sl : Slot) (d : Spec) (m : BitVec 32) : (sl.wrP d m).eng = sl.eng := by cases d <;> simp [Slot.wrP]
@[simp] theorem wrP_acq (sl : Slot) (d : Spec) (m : BitVec 32) : (sl.wrP d m).acq = sl.acq := by cases d <;> simp [Slot.wrP]
@[simp] theorem wrP_tile (sl : Slot) (d : Spec) (m : BitVec 32) : (sl.wrP d m).tile = sl.tile := by cases d <;> simp [Slot.wrP]

/-! ## Slot.wrV: every other field -/

@[simp] theorem wrV_x (sl : Slot) (d : Spec) (r : VReg) : (sl.wrV d r).x = sl.x := by cases d <;> simp [Slot.wrV]
@[simp] theorem wrV_p (sl : Slot) (d : Spec) (r : VReg) : (sl.wrV d r).p = sl.p := by cases d <;> simp [Slot.wrV]
@[simp] theorem wrV_k (sl : Slot) (d : Spec) (r : VReg) : (sl.wrV d r).k = sl.k := by cases d <;> simp [Slot.wrV]
@[simp] theorem wrV_cnt (sl : Slot) (d : Spec) (r : VReg) : (sl.wrV d r).cnt = sl.cnt := by cases d <;> simp [Slot.wrV]
@[simp] theorem wrV_fflags (sl : Slot) (d : Spec) (r : VReg) : (sl.wrV d r).fflags = sl.fflags := by cases d <;> simp [Slot.wrV]
@[simp] theorem wrV_frm (sl : Slot) (d : Spec) (r : VReg) : (sl.wrV d r).frm = sl.frm := by cases d <;> simp [Slot.wrV]
@[simp] theorem wrV_pc (sl : Slot) (d : Spec) (r : VReg) : (sl.wrV d r).pc = sl.pc := by cases d <;> simp [Slot.wrV]
@[simp] theorem wrV_dom (sl : Slot) (d : Spec) (r : VReg) : (sl.wrV d r).dom = sl.dom := by cases d <;> simp [Slot.wrV]
@[simp] theorem wrV_status (sl : Slot) (d : Spec) (r : VReg) : (sl.wrV d r).status = sl.status := by cases d <;> simp [Slot.wrV]
@[simp] theorem wrV_task (sl : Slot) (d : Spec) (r : VReg) : (sl.wrV d r).task = sl.task := by cases d <;> simp [Slot.wrV]
@[simp] theorem wrV_q (sl : Slot) (d : Spec) (r : VReg) : (sl.wrV d r).q = sl.q := by cases d <;> simp [Slot.wrV]
@[simp] theorem wrV_eng (sl : Slot) (d : Spec) (r : VReg) : (sl.wrV d r).eng = sl.eng := by cases d <;> simp [Slot.wrV]
@[simp] theorem wrV_acq (sl : Slot) (d : Spec) (r : VReg) : (sl.wrV d r).acq = sl.acq := by cases d <;> simp [Slot.wrV]
@[simp] theorem wrV_tile (sl : Slot) (d : Spec) (r : VReg) : (sl.wrV d r).tile = sl.tile := by cases d <;> simp [Slot.wrV]

/-! ## Registers read back -/

@[simp] theorem readX_zero (sl : Slot) : sl.readX 0 = 0 := rfl
@[simp] theorem writeX_zero (sl : Slot) (w : Word) : sl.writeX 0 w = sl := rfl
@[simp] theorem readP_zero (sl : Slot) : sl.readP 0 = 0xFFFFFFFF := rfl
@[simp] theorem writeP_zero (sl : Slot) (m : BitVec 32) : sl.writeP 0 m = sl := rfl

theorem readX_writeX (sl : Slot) (n : BitVec 5) (w : Word) (h : n ≠ 0) : (sl.writeX n w).readX n = w := by
  unfold Slot.readX Slot.writeX
  rw [if_neg h, if_neg h]
  simp

theorem readX_writeX_ne (sl : Slot) (n m : BitVec 5) (w : Word) (h : m ≠ n) : (sl.writeX n w).readX m = sl.readX m := by
  have e : n.toNat ≠ m.toNat := fun x => h (BitVec.eq_of_toNat_eq x.symm)
  unfold Slot.readX Slot.writeX
  by_cases a : m = 0
  · rw [if_pos a, if_pos a]
  · rw [if_neg a, if_neg a]
    split
    · rfl
    · simp [e]

theorem readP_writeP (sl : Slot) (n : BitVec 3) (m : BitVec 32) (h : n ≠ 0) : (sl.writeP n m).readP n = m := by
  unfold Slot.readP Slot.writeP
  rw [if_neg h, if_neg h]
  simp

theorem readP_writeP_ne (sl : Slot) (n k : BitVec 3) (m : BitVec 32) (h : k ≠ n) : (sl.writeP n m).readP k = sl.readP k := by
  have e : n.toNat ≠ k.toNat := fun x => h (BitVec.eq_of_toNat_eq x.symm)
  unfold Slot.readP Slot.writeP
  by_cases a : k = 0
  · rw [if_pos a, if_pos a]
  · rw [if_neg a, if_neg a]
    split
    · rfl
    · simp [e]

@[simp] theorem readV_writeV (sl : Slot) (n : BitVec 6) (r : VReg) : (sl.writeV n r).readV n = r := by
  simp [Slot.readV, Slot.writeV]

theorem readV_writeV_ne (sl : Slot) (n m : BitVec 6) (r : VReg) (h : m ≠ n) : (sl.writeV n r).readV m = sl.readV m := by
  have e : n.toNat ≠ m.toNat := fun x => h (BitVec.eq_of_toNat_eq x.symm)
  simp [Slot.readV, Slot.writeV, e]

@[simp] theorem readK_writeK (sl : Slot) (n : BitVec 6) (w : Word) : (sl.writeK n w).readK n = w := by
  simp [Slot.readK, Slot.writeK]

theorem readK_writeK_ne (sl : Slot) (n m : BitVec 6) (w : Word) (h : m ≠ n) : (sl.writeK n w).readK m = sl.readK m := by
  have e : n.toNat ≠ m.toNat := fun x => h (BitVec.eq_of_toNat_eq x.symm)
  simp [Slot.readK, Slot.writeK, e]

end Sys2Proof.Machine
end

