-- ==== Sys2Proof/Laws/Memory.lean ====
section
/-! SUPPORT. Memory: the canonical form, which every write of a byte keeps, and what reads see of writes. -/

namespace Sys2Proof.Machine

/-! ## Cells -/

/-- A list in canonical form above a bound is in canonical form above every lower one. -/
theorem cellsFrom_mono (d : Nat → Byte) {n m : Nat} (h : m ≤ n) : ∀ {l : List Host.Cell}, cellsFrom d n l = true → cellsFrom d m l = true
  | [], _ => rfl
  | (k, v) :: l, w => by
    simp only [cellsFrom, Bool.and_eq_true, decide_eq_true_eq] at w ⊢
    exact ⟨⟨Nat.le_trans h w.1.1, w.1.2⟩, w.2⟩

/-- Below the first listed address every byte reads as an unlisted one. -/
theorem cellRead_low (d : Nat → Byte) : ∀ {l : List Host.Cell} {n a : Nat}, cellsFrom d n l = true → a < n → cellRead d l a = d a
  | [], _, _, _, _ => rfl
  | (k, v) :: l, n, a, w, h => by
    simp only [cellsFrom, Bool.and_eq_true, decide_eq_true_eq] at w
    have lt : a < k := by omega
    simp [cellRead, lt, Nat.ne_of_gt lt]

/-- The byte written is read back. -/
theorem cellRead_write (d : Nat → Byte) (a : Nat) (b : Byte) :
    ∀ {l : List Host.Cell} {n : Nat}, cellsFrom d n l = true → cellRead d (cellWrite d l a b) a = b
  | [], _, _ => by unfold cellWrite; split <;> simp_all [cellRead]
  | (k, v) :: l, n, w => by
    have w0 := w
    simp only [cellsFrom, Bool.and_eq_true, decide_eq_true_eq] at w
    unfold cellWrite
    by_cases h1 : a < k
    · by_cases h2 : b = d a <;> simp [cellRead, h1, h2, Nat.ne_of_gt h1]
    · by_cases h3 : a = k
      · subst h3
        by_cases h2 : b = d a
        · simp [h2, cellRead_low d w.2 (Nat.lt_succ_self a)]
        · simp [cellRead, h2]
      · have h4 : ¬ k = a := fun e => h3 e.symm
        simp only [h1, h3, if_false, cellRead, h4]
        exact cellRead_write d a b w.2

/-- Every other byte reads as before. -/
theorem cellRead_write_ne (d : Nat → Byte) (a : Nat) (b : Byte) {x : Nat} (ne : x ≠ a) :
    ∀ {l : List Host.Cell} {n : Nat}, cellsFrom d n l = true → cellRead d (cellWrite d l a b) x = cellRead d l x
  | [], _, _ => by
    unfold cellWrite
    split
    · rfl
    · simp [cellRead, Ne.symm ne]
  | (k, v) :: l, n, w => by
    have w0 := w
    simp only [cellsFrom, Bool.and_eq_true, decide_eq_true_eq] at w
    unfold cellWrite
    by_cases h1 : a < k
    · by_cases h2 : b = d a
      · simp [h1, h2]
      · simp only [h1, h2, if_true, if_false, cellRead, Ne.symm ne]
        by_cases h5 : x < a
        · have : x < k := Nat.lt_trans h5 h1
          simp [h5, this, Nat.ne_of_gt this]
        · simp [h5]
    · by_cases h3 : a = k
      · subst h3
        by_cases h2 : b = d a
        · simp only [Nat.lt_irrefl, h2, if_true, if_false, cellRead, Ne.symm ne]
          by_cases h5 : x < a
          · simp [h5, cellRead_low d w.2 (Nat.lt_succ_of_lt h5)]
          · simp [h5]
        · simp [h2, cellRead, Ne.symm ne]
      · simp only [h1, h3, if_false, cellRead]
        rw [cellRead_write_ne d a b ne w.2]

/-- A write keeps the canonical form. -/
theorem cellWrite_from (d : Nat → Byte) (a : Nat) (b : Byte) :
    ∀ {l : List Host.Cell} {n : Nat}, n ≤ a → cellsFrom d n l = true → cellsFrom d n (cellWrite d l a b) = true
  | [], n, h, _ => by
    unfold cellWrite
    split
    · rfl
    · rename_i e; simp [cellsFrom, h, bne_iff_ne, e]
  | (k, v) :: l, n, h, w => by
    have w0 := w
    simp only [cellsFrom, Bool.and_eq_true, decide_eq_true_eq, bne_iff_ne] at w
    unfold cellWrite
    by_cases h1 : a < k
    · by_cases h2 : b = d a
      · simpa [h1, h2] using w0
      · simp only [h1, h2, if_true, if_false, cellsFrom, Bool.and_eq_true, decide_eq_true_eq, bne_iff_ne]
        exact ⟨⟨h, h2⟩, ⟨Nat.succ_le_of_lt h1, w.1.2⟩, w.2⟩
    · by_cases h3 : a = k
      · subst h3
        by_cases h2 : b = d a
        · simp only [Nat.lt_irrefl, h2, if_true, if_false]
          exact cellsFrom_mono d (Nat.le_succ_of_le h) w.2
        · simp only [Nat.lt_irrefl, h2, if_true, if_false, cellsFrom, Bool.and_eq_true, decide_eq_true_eq, bne_iff_ne]
          exact ⟨⟨h, h2⟩, w.2⟩
      · simp only [h1, h3, if_false, cellsFrom, Bool.and_eq_true, decide_eq_true_eq, bne_iff_ne]
        have : k + 1 ≤ a := by omega
        exact ⟨w.1, cellWrite_from d a b this w.2⟩

/-- A write of one byte keeps the canonical form of memory. -/
theorem cellWrite_wf (d : Nat → Byte) {l : List Host.Cell} (a : Nat) (b : Byte) (w : Memory.wf d l = true) :
    Memory.wf d (cellWrite d l a b) = true := cellWrite_from d a b (Nat.zero_le a) w

/-- A write of bytes keeps the canonical form of memory. -/
theorem cellsWrite_wf (d : Nat → Byte) : ∀ (bs : List Byte) {l : List Host.Cell} (a : Nat), Memory.wf d l = true →
    Memory.wf d (cellsWrite d l a bs) = true
  | [], _, _, w => w
  | b :: bs, _, a, w => cellsWrite_wf d bs (a + 1) (cellWrite_wf d a b w)

/-- Bytes below the place of a write read as before. -/
theorem cellRead_writes_low (d : Nat → Byte) : ∀ (bs : List Byte) {l : List Host.Cell} (a x : Nat), Memory.wf d l = true → x < a →
    cellRead d (cellsWrite d l a bs) x = cellRead d l x
  | [], _, _, _, _, _ => rfl
  | b :: bs, _, a, x, w, h => by
    have := cellRead_writes_low d bs (a + 1) x (cellWrite_wf d a b w) (by omega)
    exact this.trans (cellRead_write_ne d a b (Nat.ne_of_lt h) w)

/-- Bytes outside a write read as before. -/
theorem cellRead_writes_out (d : Nat → Byte) : ∀ (bs : List Byte) {l : List Host.Cell} (a x : Nat), Memory.wf d l = true →
    x < a ∨ a + bs.length ≤ x → cellRead d (cellsWrite d l a bs) x = cellRead d l x
  | [], _, _, _, _, _ => rfl
  | b :: bs, _, a, x, w, h => by
    have e : x < a + 1 ∨ a + 1 + bs.length ≤ x := by simp only [List.length_cons] at h; omega
    have n : x ≠ a := by simp only [List.length_cons] at h; omega
    exact (cellRead_writes_out d bs (a + 1) x (cellWrite_wf d a b w) e).trans (cellRead_write_ne d a b n w)

/-- The bytes written are read back. -/
theorem cellsRead_writes (d : Nat → Byte) : ∀ (bs : List Byte) {l : List Host.Cell} (a : Nat), Memory.wf d l = true →
    cellsRead d (cellsWrite d l a bs) a bs.length = bs
  | [], _, _, _ => rfl
  | b :: bs, l, a, w => by
    have w1 := cellWrite_wf d a b w
    simp only [cellsWrite, List.length_cons, cellsRead, cellsRead_writes d bs (a + 1) w1]
    rw [cellRead_writes_low d bs (a + 1) a w1 (Nat.lt_succ_self a), cellRead_write d a b w]

/-! ## Numbers from bytes -/

@[simp] theorem length_bytesOf : ∀ (n x : Nat), (bytesOf n x).length = n
  | 0, _ => rfl
  | n + 1, x => by simp [bytesOf, length_bytesOf n]

/-- A number's bytes give it back, modulo their width. -/
theorem numOf_bytesOf : ∀ (n x : Nat), numOf (bytesOf n x) = x % 256 ^ n
  | 0, x => by simp [bytesOf, numOf, Nat.mod_one]
  | n + 1, x => by
    simp only [bytesOf, numOf, numOf_bytesOf n, BitVec.toNat_ofNat]
    have e : 256 ^ (n + 1) = 256 * 256 ^ n := by rw [Nat.pow_succ, Nat.mul_comm]
    rw [e, Nat.mod_mul]

/-- A doubleword's bytes give it back. -/
@[simp] theorem wordOf_bytesOf (w : Word) : wordOf (bytesOf 8 w.toNat) = w := by
  have h := w.isLt
  apply BitVec.eq_of_toNat_eq
  simp only [wordOf, numOf_bytesOf, BitVec.toNat_ofNat]
  omega

/-! ## The homes of memory -/

/-- Writing bytes at their homes keeps every memory in canonical form. -/
theorem homeBytes_memoriesOk : ∀ (bs : List Byte) (s : State) (pa : Nat), memoriesOk s → memoriesOk (s.homeBytes pa bs)
  | [], _, _, h => h
  | b :: bs, s, pa, h => by
    refine homeBytes_memoriesOk bs _ (pa + 1) ?_
    unfold State.homeWriteByte
    split
    · exact ⟨h.1, cellWrite_wf _ _ _ h.2.1, h.2.2⟩
    · exact ⟨cellWrite_wf _ _ _ h.1, h.2.1, h.2.2⟩

/-- The same with its effect on poison. -/
theorem homeWrite_memoriesOk (s : State) (pa : Nat) (bs : List Byte) (h : memoriesOk s) : memoriesOk (s.homeWrite pa bs) := by
  have k := homeBytes_memoriesOk bs s pa h
  unfold State.homeWrite State.clearPoison
  split
  · exact k
  · exact k

/-- Memory after reset is in canonical form. -/
theorem reset_mem_wf : Memory.wf zeroByte State.reset.mem = true := rfl

end Sys2Proof.Machine
end

