-- ==== Sys2Proof/Laws/Ops.lean ====
section
/-! SUPPORT. What the shared operations come to when an instruction has its turn: the form in which the meanings are cited. -/

namespace Sys2Proof.Machine

variable {s : State} {g : CoreId} {i : SlotId}

/-! ## Instructions of the executing slot (R65, R87) -/

theorem runCore_turn {uses : List RegName} (t : turn s g i uses) (f : CoreId → SlotId → Slot → State) :
    runCore s uses f = .next (f g i (s.slot g i)) := by
  obtain ⟨ha, hs, hw⟩ := t
  simp [runCore, ha, hs, hw]

theorem runSlot_done {uses : List RegName} (t : turn s g i uses) {f : Slot → Res} {sl : Slot} (h : f (s.slot g i) = .done sl) :
    runSlot s uses f = .next (after s g i sl) := by
  rw [runSlot, runCore_turn t, h]; rfl

theorem runSlot_jump {uses : List RegName} (t : turn s g i uses) {f : Slot → Res} {sl : Slot} {a : VA} (h : f (s.slot g i) = .jump sl a) :
    runSlot s uses f = .next (jumped s g i sl a) := by
  rw [runSlot, runCore_turn t, h]; rfl

theorem runSlot_trap {uses : List RegName} (t : turn s g i uses) {f : Slot → Res} {x : Trap} (h : f (s.slot g i) = .trap x) :
    runSlot s uses f = .next (raise s g i x) := by
  rw [runSlot, runCore_turn t, h]

/-- An instruction that has no turn changes nothing (R65). -/
theorem runCore_waits {uses : List RegName} (ha : s.agent = .slot g i) (hw : (s.core g).awaits i uses = true)
    (f : CoreId → SlotId → Slot → State) : runCore s uses f = .next s := by
  simp [runCore, ha, hw]

theorem scalarR_turn (f : FmtR) (t : turn s g i (rRegs f)) (body : Slot → Slot) :
    scalarR f s body = .next (after s g i (guarded (s.slot g i) f.pn f.pred (body (s.slot g i)))) := runSlot_done t rfl

theorem floatOp_turn (f : FmtR) (t : turn s g i (rRegs f)) (res : Ty) (op : Slot → Word × BitVec 5) :
    floatOp f s res op = .next (after s g i (guarded (s.slot g i) f.pn f.pred
      (((s.slot g i).wr f.dst res (op (s.slot g i)).1).orFlags (op (s.slot g i)).2))) := scalarR_turn f t _

theorem immOp_turn (f : FmtI) (t : turn s g i (.p f.pred :: specRegs [f.dst, f.sa])) (op : Slot → Word) :
    immOp f s op = .next (after s g i (guarded (s.slot g i) f.pn f.pred ((s.slot g i).wrW f.dst (op (s.slot g i))))) := runSlot_done t rfl

theorem predOp_turn (f : FmtR) (t : turn s g i (rRegs f)) (op : Slot → BitVec 32) :
    predOp f s op = .next (after s g i ((s.slot g i).wrP f.dst ((s.slot g i).mask f.pn f.pred &&& op (s.slot g i)))) := runSlot_done t rfl

theorem vecOp_turn (f : FmtR) (t : turn s g i (rRegs f)) (op : Slot → Nat → Word × BitVec 5) :
    vecOp f s op = .next (after s g i (((s.slot g i).wrV f.dst (vmerge ((s.slot g i).mask f.pn f.pred) f.ty.size ((s.slot g i).oldV f.dst)
      (fun j => (op (s.slot g i) j).1))).orFlags
      (govFlags ((s.slot g i).mask f.pn f.pred) f.ty.size (128 / f.ty.size) (fun j => (op (s.slot g i) j).2)))) := runSlot_done t rfl

theorem branchIf_turn (f : FmtB) (t : turn s g i (bRegs f)) (cond : Slot → Bool) :
    branchIf f s cond = .next (if (s.slot g i).guard f.pn f.pred && cond (s.slot g i) then jumped s g i (s.slot g i) (relTarget (s.slot g i).pc f.disp)
      else after s g i (s.slot g i)) := by
  by_cases h : ((s.slot g i).guard f.pn f.pred && cond (s.slot g i)) = true
  · rw [if_pos h]; exact runSlot_jump t (by simp only [h]; rfl)
  · rw [if_neg h]; exact runSlot_done t (by simp only [h]; rfl)

theorem branchMask_turn (f : FmtB) (t : turn s g i (bRegs f)) (cond : Slot → BitVec 32 → Bool) :
    branchMask f s cond = .next (if cond (s.slot g i) ((s.slot g i).mask f.pn f.pred) then
      jumped s g i (s.slot g i) (relTarget (s.slot g i).pc f.disp) else after s g i (s.slot g i)) := by
  by_cases h : cond (s.slot g i) ((s.slot g i).mask f.pn f.pred) = true
  · rw [if_pos h]; exact runSlot_jump t (by simp only [h]; rfl)
  · rw [if_neg h]; exact runSlot_done t (by simp only [h]; rfl)

theorem pcNext_eq : s.pcNext g i = after s g i (s.slot g i) := rfl

theorem guardedM_on (f : FmtM) {uses : List RegName} (t : turn s g i (uses ++ mRegs f)) (h : (s.slot g i).guard f.pn f.pred = true)
    (go : CoreId → SlotId → Slot → State) : guardedM f s uses go = .next (go g i (s.slot g i)) := by
  rw [guardedM, runCore_turn t, if_pos h]

theorem guardedM_off (f : FmtM) {uses : List RegName} (t : turn s g i (uses ++ mRegs f)) (h : (s.slot g i).guard f.pn f.pred = false)
    (go : CoreId → SlotId → Slot → State) : guardedM f s uses go = .next (after s g i (s.slot g i)) := by
  rw [guardedM, runCore_turn t, h]; rfl

/-! ## Accesses to memory -/

/-- An access that nothing holds back traps with the first of its early failures (R94). -/
theorem issue_bad {m : MemOp} (h : unheld s g i m) {b : BadSpot} (hb : worst (earlyBad s g i m) = some b) (op : HeldOp) (dest : LoadDest)
    (go : State → Bool → List Elem → State) : s.issue g i m op dest go = raise s g i ⟨b.code, b.va.setWidth 64, 0⟩ := by
  obtain ⟨h0, h1, h2, h3, h4⟩ := h
  unfold earlyBad at hb
  simp only [State.issue, h0, h1, h2, h3, h4, hb, Bool.false_or, Bool.false_eq_true, ↓reduceIte]

/-- An access that is clear is performed on the places of its elements, now or later. -/
theorem issue_clearAs {m : MemOp} {t : State} {es : List Elem} {late : Bool} (h : clearAs s g i m t es late) (op : HeldOp) (dest : LoadDest)
    (go : State → Bool → List Elem → State) : s.issue g i m op dest go = go t late es := by
  obtain ⟨⟨h0, h1, h2, h3, h4⟩, ⟨hb, hp⟩, hm, hl⟩ := h
  unfold earlyBad at hb
  have hm : (!es.isEmpty && (s.core g).heldMeets (s.slot g i).dom m.whole m.exts (m.places es)) = false := by
    rcases hm with rfl | hm <;> simp_all
  simp only [State.issue, h0, h1, h2, h3, h4, hb, hp, hm, hl, worst, Bool.false_or, Bool.false_eq_true, ↓reduceIte]

/-- An access that is clear is performed by its instruction. -/
theorem issue_clear {m : MemOp} {t : State} {es : List Elem} (h : clear s g i m t es) (op : HeldOp) (dest : LoadDest)
    (go : State → Bool → List Elem → State) : s.issue g i m op dest go = go t false es := issue_clearAs h op dest go

/-- An access whose page is pulled or migrated waits, counted, and its slot goes on (R225, R365; log 79). -/
theorem issue_held {m : MemOp} {t : State} {es : List Elem} (h : unheld s g i m) (hb : worst (earlyBad s g i m) = none)
    (hp : s.placeAll g (s.slot g i).dom m.acc (s.slot g i).isU (some (g, i, (s.slot g i).task.act)) m.spots = (t, es, [], true))
    (op : HeldOp) (dest : LoadDest) (go : State → Bool → List Elem → State) : s.issue g i m op dest go = t.hold g i m op dest es := by
  obtain ⟨h0, h1, h2, h3, h4⟩ := h
  unfold earlyBad at hb
  simp only [State.issue, h0, h1, h2, h3, h4, hb, hp, worst, Bool.false_or, Bool.true_or, Bool.false_eq_true, ↓reduceIte]

/-- An access behind one that waits for its pages and has a byte in common waits with it (R207, R208). -/
theorem issue_behind {m : MemOp} {t : State} {es : List Elem} (h : unheld s g i m) (hp : placed s g i m t es) (ne : es ≠ [])
    (hm : (s.core g).heldMeets (s.slot g i).dom m.whole m.exts (m.places es) = true)
    (op : HeldOp) (dest : LoadDest) (go : State → Bool → List Elem → State) : s.issue g i m op dest go = t.hold g i m op dest es := by
  obtain ⟨h0, h1, h2, h3, h4⟩ := h
  obtain ⟨hb, hp⟩ := hp
  unfold earlyBad at hb
  have hm : (false || !es.isEmpty && (s.core g).heldMeets (s.slot g i).dom m.whole m.exts (m.places es)) = true := by simp [hm, ne]
  simp only [State.issue, h0, h1, h2, h3, h4, hb, hp, hm, worst, Bool.or_self, Bool.false_eq_true, ↓reduceIte]

/-- An access of several tiles that is under way goes on with what remains of it (R351). -/
theorem issue_tile {m : MemOp} {x : TileStep} (h : (s.slot g i).tile = some x) (op : HeldOp) (dest : LoadDest)
    (go : State → Bool → List Elem → State) : s.issue g i m op dest go = go s false x.elems := by
  simp only [State.issue, h]

/-- An access with no element in scratch or a tile that meets none under way is performed by its instruction: it joins those in flight
there. -/
theorem lateness_mem {d : Dom} {m : MemOp} {es : List Elem} (h : es.all (fun e => !e.loc.near) = true)
    (hm : (s.core g).nearMeets d (m.places es) = false) : s.lateness g d m es = some false := by
  have : es.any (fun e => e.loc.near) = false := by simp only [List.any_eq_false]; simp only [List.all_eq_true] at h; simpa using h
  simp [State.lateness, State.mayDefer, this, hm]

/-- An element in a scratch bank of the domain is at its offset in the window, and nothing changes (R163). -/
theorem place_scratch {va : VA} (d : Dom) (a : Acc) (u : Bool) (who : Option (CoreId × SlotId × Nat)) (h : inScratch va.toNat = true)
    (hb : (s.core g).bankOk d va.toNat = true) : s.place g d a u who va = (s, .ok (.scratch (va.toNat - scratchBase))) := by
  simp [State.place, h, hb]

theorem placeAll_scratch (d : Dom) (a : Acc) (u : Bool) (who : Option (CoreId × SlotId × Nat)) :
    ∀ (l : List Spot), (∀ x ∈ l, inScratch x.va.toNat = true ∧ (s.core g).bankOk d x.va.toNat = true) →
      s.placeAll g d a u who l = (s, scratchElems l, [], false)
  | [], _ => rfl
  | x :: l, h => by
    have hx := h x (List.mem_cons_self ..)
    have hl := placeAll_scratch d a u who l (fun y hy => h y (List.mem_cons_of_mem _ hy))
    simp only [State.placeAll, place_scratch d a u who hx.1 hx.2, hl, scratchElems, List.map_cons]

/-- An access to scratch that is clear is performed by its instruction. -/
theorem issue_here {m : MemOp} (h : clearHere s g i m) (op : HeldOp) (dest : LoadDest) (go : State → Bool → List Elem → State) :
    s.issue g i m op dest go = go s false (scratchElems m.spots) :=
  issue_clear ⟨h.1, ⟨h.2.1, placeAll_scratch _ _ _ _ _ h.2.2.1⟩, h.2.2.2⟩ op dest go

/-! ## Tile commands -/

theorem runCmd_turn {q : QueueId} {m : Cmd} (t : engineTurn s g q m) (f : CoreId → QueueId → Cmd → State) :
    runCmd s f = .next (f g q m) := by
  obtain ⟨ha, hc, hr, hp⟩ := t
  simp only [runCmd, ha, hc, hr, hp, Bool.and_self, ↓reduceIte]

/-! ## Frames -/

theorem ownerByte_setSlot (sl : Slot) (pa : Nat) : (s.setSlot g i sl).ownerByte pa = s.ownerByte pa := by
  have h : ∀ o : CoreId, ((s.setSlot g i sl).core o).ownedByte pa = (s.core o).ownedByte pa ∧
      ((s.setSlot g i sl).core o).shadow pa = (s.core o).shadow pa := by
    intro o
    by_cases e : o = g
    · subst e; simp [Core.ownedByte, Core.shadow, Core.setSlot]
    · rw [core_setSlot_ne _ _ _ _ _ e]; exact ⟨rfl, rfl⟩
  simp only [State.ownerByte, h]; rfl

/-- A change of registers alone changes nothing outside the slot. -/
theorem onlySlot_setSlot (sl : Slot) : onlySlot s (s.setSlot g i sl) g i := by
  refine ⟨?_, fun _ => rfl, fun pa => ?_, fun h => ?_⟩
  · obtain ⟨cores, _⟩ := s
    simp [State.setSlot, State.setCore, State.core, State.slot, Core.setSlot]
    exact Vector.set_getElem_self g.isLt
  · simp only [State.cohByte, ownerByte_setSlot]; rfl
  · by_cases e : h = g
    · subst e; simp [Core.setSlot]
    · rw [core_setSlot_ne _ _ _ _ _ e]; exact ⟨rfl, rfl⟩

end Sys2Proof.Machine
end

