-- ==== Sys2Proof/Tests/Slice0.lean ====
section
/-! SUPPORT. Tests: words written out from the spec's encodings, terms that the checks refuse, single steps with results worked out by hand from the
spec's tables, and for each statement a state and operands that meet its hypotheses. -/

namespace Sys2Proof.Tests

open Sys2Proof Sys2Proof.Machine

set_option maxRecDepth 20000
set_option Elab.async false

/-! ## Words written out field by field (R79 to R86, R99, R100)

Format R: OP [63:56], DST [55:48], SA [47:40], SB [39:32], SC [31:24], PRED [23:20], TYPE [19:16] and the rest as R82 gives them; a specifier is
KIND [7:6] and INDEX [5:0]: x is 01, k and p 00, v 10, literal 11 (R80). -/

-- ADD.n64 x5, x5, x6: OP 10, DST 45, SA 45, SB 46, type n64
theorem test_decode_add : decode 0x1045454600070000 = .ok (.add ⟨.x 5, .x 5, .x 6, .none, false, 0, .n64, .rne, false, 0⟩) := by decide +kernel
-- ADDI x4, x0, #1: OP 20, DST 44, SA 40, IMM32 1
theorem test_decode_addi : decode 0x2044400000000001 = .ok (.addi ⟨.x 4, .x 0, false, 0, 1⟩) := by decide +kernel
theorem test_decode_li : decode 0x2948000000FF0F03 = .ok (.li ⟨.x 8, .none, false, 0, 0x00FF0F03⟩) := by decide +kernel
theorem test_decode_fcvti : decode 0x4A464700000A2002 = .ok (.fcvti ⟨.x 6, .x 7, .none, .none, false, 0, .f32, .rtz, false, 2⟩) := by
  decide +kernel
theorem test_decode_viota : decode 0x790146C100070000 = .ok (.viota ⟨.v 1, .x 6, .lit 1, .none, false, 0, .n64, .rne, false, 0⟩) := by
  decide +kernel
theorem test_decode_stv : decode 0x930145000030F000 = .ok (.stv ⟨.v 1, .x 5, .none, false, 0, .plain, .slot, 3, 15, 0⟩) := by decide +kernel
theorem test_decode_amoadd : decode 0xA04745460DB00000 = .ok (.amoadd ⟨.x 7, .x 5, .x 6, false, 0, .acqrel, .die, 3, 0, 0⟩) := by decide +kernel
theorem test_decode_sendr : decode 0xB200494350000004 = .ok (.sendr ⟨.none, .x 9, .x 3, .x 16, 4⟩) := by decide +kernel
theorem test_decode_gate : decode 0xB300454650000702 = .ok (.gate ⟨.none, .x 5, .x 6, .x 16, 0x702⟩) := by decide +kernel
theorem test_decode_enqt : decode 0xBB454C0000000001 = .ok (.enqt ⟨.x 5, .x 12, .none, .none, 1⟩) := by decide +kernel
theorem test_decode_csrw : decode 0xC240450000000002 = .ok (.csrw ⟨.x 0, .x 5, .none, .none, 2⟩) := by decide +kernel
theorem test_decode_tlbinv : decode 0xC500454600000304 = .ok (.tlbinv ⟨.none, .x 5, .x 6, .none, 0x304⟩) := by decide +kernel
theorem test_decode_domset : decode 0xCE4948000000000E = .ok (.domset ⟨.x 9, .x 8, .none, .none, 14⟩) := by decide +kernel
theorem test_decode_bkpt : decode 0xCF00000000000007 = .ok (.bkpt ⟨.none, .none, .none, .none, 7⟩) := by decide +kernel
-- an MMA whose first word is 4000_0000_2405_0603: OPN 16, TIDA 5, TIDB 6
theorem test_decode_mma : (match decodeTcw ⟨0x4000000024050603, 0, 0, 0⟩ with
    | .ok (.mma c) => c.tida == 5 && c.tidb == 6
    | _ => false) = true := by decide +kernel
-- a word above the last opcode, and one whose DST is x32 (R80, R93)
theorem test_decode_reserved : decode 0xD000000000000000 = .error .reservedOpcode := by decide +kernel
theorem test_decode_badSpec : (match decode 0x1060454600070000 with
    | .ok _ => false
    | .error _ => true) = true := by decide +kernel

/-! ## Ill-formed terms that the checks refuse (R93, R101, R282) -/

/-- A well-formed ADD, changed below. -/
def okAdd : FmtR := ⟨.x 5, .x 5, .x 6, .none, false, 0, .n64, .rne, false, 0⟩
/-- A well-formed LD, changed below. -/
def okLd : FmtM := ⟨.x 8, .x 5, .none, false, 0, .plain, .slot, 3, 0, 0⟩
/-- A well-formed header. -/
def okHdr : Hdr := ⟨false, false, 0, 0, 0⟩

theorem test_wf_ok : (Instr.add okAdd).wf = true ∧ (Instr.ld okLd).wf = true ∧ (Instr.copy ⟨okHdr, 0, 64, 64⟩).wf = true := by decide +kernel
-- a destination of the wrong kind, a source that must be absent, a type, a mode, an immediate, and a predicate field that the entry does not take
theorem test_wf_add : (Instr.add { okAdd with dst := .v 1 }).wf = false ∧ (Instr.add { okAdd with sc := .x 1 }).wf = false ∧
    (Instr.add { okAdd with ty := .f32 }).wf = false ∧ (Instr.add { okAdd with mode := .rtz }).wf = false ∧
    (Instr.add { okAdd with imm := 1 }).wf = false ∧ (Instr.mulh { okAdd with sat := true, ty := .s64 }).wf = false := by decide +kernel
theorem test_wf_formI : (Instr.addi ⟨.v 1, .x 0, false, 0, 0⟩).wf = false ∧ (Instr.shli ⟨.x 1, .x 0, false, 0, 64⟩).wf = false ∧
    (Instr.li ⟨.x 1, .x 2, false, 0, 0⟩).wf = false := by decide +kernel
theorem test_wf_formB : (Instr.beq ⟨.v 1, .x 0, false, 0, 0⟩).wf = false ∧ (Instr.loop ⟨.x 0, .none, false, 0, 0⟩).wf = false ∧
    (Instr.j ⟨.x 1, .none, false, 0, 0⟩).wf = false := by decide +kernel
theorem test_wf_imm : (Instr.fcmp ⟨.x 1, .x 2, .x 3, .none, false, 0, .f32, .rne, false, 0x400⟩).wf = false ∧
    (Instr.extr { okAdd with imm := 0x40 }).wf = false ∧ (Instr.pnot ⟨.c 2, .none, .none, .none, false, 0, .n32, .rne, false, 8⟩).wf = false ∧
    (Instr.pand ⟨.c 0, .none, .none, .none, false, 0, .n32, .rne, false, 0⟩).wf = false := by decide +kernel
theorem test_wf_memory : (Instr.ld { okLd with base := .lit 0 }).wf = false ∧ (Instr.ld { okLd with len := 2 }).wf = false ∧
    (Instr.ld { okLd with ord := .rel }).wf = false ∧ (Instr.ld { okLd with scope := .pod }).wf = false ∧
    (Instr.ld { okLd with aux := .x 1 }).wf = false ∧ (Instr.amoadd { okLd with aux := .x 1, sz := 1 }).wf = false ∧
    (Instr.fence ⟨0, 1, .slot⟩).wf = false := by decide +kernel
theorem test_wf_formS : (Instr.spawn ⟨.none, .x 3, .x 27, .none, 0⟩).wf = false ∧ (Instr.send ⟨.none, .x 9, .x 3, .x 16, 1⟩).wf = false ∧
    (Instr.baraFree ⟨.x 1, .x 2, .none, .none, 2⟩).wf = false ∧ (Instr.enq ⟨.x 1, .x 30, .none, .none, 0⟩).wf = false ∧
    (Instr.ident ⟨.x 1, .none, .none, .none, 12⟩).wf = false ∧ (Instr.csrr ⟨.x 1, .none, .none, .none, 0⟩).wf = false ∧
    (Instr.tlbinv ⟨.none, .x 5, .x 6, .none, 4⟩).wf = false ∧ (Instr.yieldWatch ⟨.none, .x 1, .x 2, .none, 2⟩).wf = false := by decide +kernel
theorem test_wf_commands : (Instr.copy ⟨okHdr, 0, 64, 0⟩).wf = false ∧ (Instr.copy ⟨{ okHdr with bar := 9 }, 0, 64, 64⟩).wf = false ∧
    (Instr.copy2 ⟨okHdr, 0xFFFF, 0xFFFF, 0, 0, 0, 0⟩).wf = false ∧ (Instr.accum ⟨okHdr, .f32, 2, 0, 0, 0, 4⟩).wf = false ∧
    (Instr.accumOrdered ⟨okHdr, .f32, 0, 0, 2, 2, 4⟩).wf = false ∧ (Instr.mzero ⟨okHdr, 0⟩).wf = false ∧ (Instr.msave ⟨okHdr, 0, 32⟩).wf = false ∧
    (Instr.gsum ⟨okHdr, false, .f32, 3, 0, 0, 0, 0⟩).wf = false ∧ (Instr.dispatch ⟨okHdr, 8⟩).wf = false := by decide +kernel


/-! ## Small states -/

/-- Slot 0 of core 0 runs a task of domain 0 at the address that `withFetchWord` uses; the low 8 GiB of memory are mapped. -/
def ran : State := { (State.reset.withFetchWord 64 0) with agent := .slot 0 0, agenda := [] }

/-- Registers of that slot given values. -/
def State.withX (s : State) (l : List (BitVec 5 × Word)) : State :=
  s.modSlot 0 0 (fun sl => l.foldl (fun sl p => sl.wrW (.x p.1) p.2) sl)

/-- x5 points into scratch, x6 into memory, x7 is 3 and x9 is the most negative number, x10 minus one, x11 not a multiple of 8. -/
def ranX : State := State.withX ran [(5, 0xFFFFFFF80000), (6, 0x2000), (7, 3), (9, 0x8000000000000000), (10, 0xFFFFFFFFFFFFFFFF), (11, 0x2001)]

/-- The same task at level U, of domain 1. -/
def ranU : State := ranX.modSlot 0 0 (fun sl => { sl with dom := 1 })

theorem turn_ran (uses : List RegName) : turn ran 0 0 uses :=
  ⟨by decide +kernel, by decide +kernel, by simp [Core.awaits, show (ran.core 0).pend = [] by decide +kernel]⟩

theorem turn_ranX (uses : List RegName) : turn ranX 0 0 uses :=
  ⟨by decide +kernel, by decide +kernel, by simp [Core.awaits, show (ranX.core 0).pend = [] by decide +kernel]⟩

theorem turn_ranU (uses : List RegName) : turn ranU 0 0 uses :=
  ⟨by decide +kernel, by decide +kernel, by simp [Core.awaits, show (ranU.core 0).pend = [] by decide +kernel]⟩

/-! ## States and operands that meet the hypotheses of the statements, one theorem a statement -/

theorem wit_EncodingsDecode : ((Instr.add okAdd).WellFormed ∧ encode (.add okAdd) = .word 0x1045454600070000) ∧
    (Instr.fill ⟨okHdr, 64, 0xFF, 8⟩).WellFormed ∧ encode (.fill ⟨okHdr, 64, 0xFF, 8⟩) = .tile ⟨0x0C00000000000000, 64, 0xFF, 8⟩ := by decide +kernel
theorem wit_WordsReadWhole : decode 0x2044400000000001 = .ok (.addi ⟨.x 4, .x 0, false, 0, 1⟩) ∧ 0xD0 ≤ (opOf 0xFF00000000000000).toNat ∧
    0x10 ≤ (opOf 0x1060454600070000).toNat ∧ (opOf 0x1060454600070000).toNat < 0x90 ∧ (0x1060454600070000 : Word).extractLsb' 53 3 = 3 := by
  decide +kernel

/-- An ADD, a COPY and an event are next. -/
def nextAdd : State := State.reset.withFetchWord 64 0x1045454600070000
/-- A FILL is next: operation 3, of queue 0. -/
def nextFill : State := State.reset.withFetchWord 256 (8 * 2 ^ 192 + 0xFF * 2 ^ 128 + 64 * 2 ^ 64 + 0x0C00000000000000)

theorem wit_StepRunsInstructions : nextAdd.agenda = [.issue 0 0] ∧ nextAdd.dev.phase = 0x10 ∧ (nextAdd.die (0 : CoreId).die).powered = true ∧
    (nextAdd.slot 0 0).status = .running ∧ ({ nextAdd with agenda := [], agent := .slot 0 0 } : State).overBudget 0 0 = false ∧
    (({ nextAdd with agenda := [], agent := .slot 0 0 } : State).fetch 0 0).2 = .word 0x1045454600070000 ∧
    decode 0x1045454600070000 = .ok (.add okAdd) := by decide +kernel
theorem wit_StepRunsInstructions_pipe : (nextAdd.pipeTurn 0 0 0x1045454600070000).isSome = true ∧
    ((nextAdd.modSlot 0 1 (fun _ => nextAdd.slot 0 0)).pipeTurn 0 0 0x1045454600070000).isSome = true ∧
    ((nextAdd.modSlot 0 1 (fun _ => nextAdd.slot 0 0)).pipeTurn 0 1 0x1045454600070000).isSome = false := by decide +kernel
theorem wit_PipeSelection : (ran.core 0).entryOf (ran.slot 0 0).dom = some 0 ∧
    (match ran.pipeChoice 0 0 [0] with
    | some (q, i) => i == 0 && q.last[(2 : Fin 3)][(0 : PartId)] == 0
    | none => false) = true := by decide +kernel
theorem wit_StepRunsInstructions_trap : (({ State.reset.withFetchWord 64 0xD000000000000000 with agenda := [], agent := .slot 0 0 } : State).fetch 0 0).2 =
    .word 0xD000000000000000 ∧ decode 0xD000000000000000 = .error .reservedOpcode := by decide +kernel
theorem wit_StepRunsInstructions_command : nextFill.agenda = [.work 0 0 0] ∧ nextFill.dev.phase = 0x10 ∧
    ((nextFill.core 0).cmdAt 0 0).map (fun m => decodeTcw m.tcw) = some (.ok (.fill ⟨okHdr, 64, 0xFF, 8⟩)) := by decide +kernel
theorem wit_StepRunsInstructions_piece : ({ nextFill with agenda := [.piece 0 0 0 1] } : State).agenda = [.piece 0 0 0 1] ∧
    nextFill.dev.phase = 0x10 ∧ ((nextFill.core 0).cmdAt 0 0).map (fun m => decodeTcw m.tcw) = some (.ok (.fill ⟨okHdr, 64, 0xFF, 8⟩)) := by
  decide +kernel
theorem wit_StepRunsInstructions_event : encode (.debugUnlock true) = .event := by decide +kernel
/-- A store of the slot to the word at its PC waits for its line. -/
def storing : State := { ran with agent := .slot 0 0 }.pushPend 0 0 (.waitStore [(0x1000, 0)]) [⟨0, (ran.slot 0 0).pc, .mem 0x1000 0 0⟩] [] .discard
  (contigOp okLd (ran.slot 0 0) true [⟨0, (ran.slot 0 0).pc⟩])

theorem wit_FetchReadsMemory : (ran.core 0).fetchWaits (ran.slot 0 0).task.act (ran.slot 0 0).dom (ran.slot 0 0).pc (.mem 0x1000 0 0) = false ∧
    inScratch (ran.slot 0 0).pc.toNat = false ∧
    (∃ pa mt gr, (ran.place 0 (ran.slot 0 0).dom .fetch (ran.slot 0 0).isU (some (0, 0, (ran.slot 0 0).task.act)) (ran.slot 0 0).pc).2 = .ok (.mem pa mt gr)) ∧
    ((storing.core 0).fetchWaits (storing.slot 0 0).task.act (storing.slot 0 0).dom (storing.slot 0 0).pc (.mem 0x1000 0 0) = true) ∧
    (ran.place 0 (ran.slot 0 0).dom .fetch (ran.slot 0 0).isU (some (0, 0, (ran.slot 0 0).task.act)) (ran.slot 0 0).pc).1.poison = [] :=
  ⟨by decide +kernel, by decide +kernel, ⟨0x1000, 0, 0, rfl⟩, by decide +kernel, by decide +kernel⟩

/-- A load into x8 is in flight. -/
def loading : State := { ranX with agent := .slot 0 0 }.pushPend 0 0 (.cp .read) [⟨0, 0x2000, .mem 0x2000 0 0⟩] [] (.x 8 false)
  (contigOp okLd (ranX.slot 0 0) false [⟨0, 0x2000⟩])

theorem wit_IssueHeldBack : loading.agent = .slot 0 0 ∧ (loading.core 0).awaits 0 (rRegs { okAdd with dst := .x 8 }) = true ∧
    (loading.core 0).awaits 0 (.p 0 :: specRegs [.x 8, .x 0]) = true ∧ (loading.core 0).awaits 0 (bRegs ⟨.x 8, .none, false, 0, 0⟩) = true ∧
    (loading.core 0).awaits 0 (mRegs okLd) = true := by decide +kernel
theorem wit_IssueHeldBack_halted : ({ ran with dev := { ran.dev with phase := 0x20 } } : State).dev.phase ≠ 0x10 ∧
    ({ ran with dev := { ran.dev with phase := 0x20 } } : State).agenda = [] := by decide +kernel
theorem wit_IssueHeldBack_starting : State.reset.dev.phase ≠ 0x10 ∧ State.reset.starting ≠ none ∧
    ({ ran with dev := { ran.dev with phase := 0x20 } } : State).starting = none := by decide +kernel
theorem wit_GuardedOffDoesNothing : turn ran 0 0 (rRegs okAdd) ∧ turn ran 0 0 (ldkRegs okLd ++ mRegs okLd) ∧ (ran.slot 0 0).guard true 0 = false :=
  ⟨turn_ran _, turn_ran _, by decide +kernel⟩
theorem wit_RegisterFrame : turn ran 0 0 (rRegs okAdd) ∧ (∃ t, exec (.add okAdd) ran = .next t) ∧
    (regTarget (ranX.slot 0 0) ⟨.x 6, .none, false, 0, 0⟩).toNat % 8 = 0 := ⟨turn_ran _, ⟨_, rfl⟩, by decide +kernel⟩
theorem wit_NarrowRegisters : (1 : BitVec 5) ≠ 0 ∧ (31 : BitVec 5) ≠ 0 := by decide
theorem wit_WrapAndClamp : ∀ t ∈ [Ty.s8, .s16, .s32, .s64, .n8, .n16, .n32, .n64], t.isInt = true := by decide
theorem wit_IntegerResults : turn ranX 0 0 (rRegs { okAdd with sa := .x 9, sb := .x 10, ty := .s64 }) ∧
    intOf .s64 ((ranX.slot 0 0).src (.x 9) .s64) = -((2 ^ 63 : Nat) : Int) ∧ intOf .s64 ((ranX.slot 0 0).src (.x 10) .s64) = -1 ∧
    intOf .s64 ((ranX.slot 0 0).src (.x 8) .s64) = 0 := ⟨turn_ranX _, by decide +kernel, by decide +kernel, by decide +kernel⟩
theorem wit_BitwiseAndShiftResults : turn ran 0 0 (rRegs okAdd) := turn_ran _
theorem wit_ImmediateResults : turn ran 0 0 (.p 0 :: specRegs [.x 4, .x 0]) := turn_ran _
theorem wit_BitResults : turn ran 0 0 (rRegs okAdd) ∧ (0x50 : Nat) < 2 ^ 8 := ⟨turn_ran _, by decide⟩
theorem wit_PredicateResults : turn ran 0 0 (rRegs ⟨.c 2, .none, .none, .none, false, 0, .n32, .rne, false, 0x23⟩) := turn_ran _
theorem wit_RngResult : turn ran 0 0 (specRegs [.x 10, .x 11, .c 12]) := turn_ran _
theorem wit_IdentityAndClock : turn ran 0 0 [] ∧ turn ran 0 0 (specRegs [.x 1]) ∧ (ran.slot 0 0).level = 2 ∧ (ranU.slot 0 0).level ≠ 2 ∧ turn ranU 0 0 [] :=
  ⟨turn_ran _, turn_ran _, by decide +kernel, by decide +kernel, turn_ranU _⟩
theorem wit_TransferResults : turn ranX 0 0 (bRegs ⟨.x 6, .none, false, 0, 0⟩) ∧ (ranX.slot 0 0).guard false 0 = true ∧
    (((ranX.slot 0 0).srcW (.x 6)).setWidth 48).toNat % 8 = 0 ∧ (((ranX.slot 0 0).srcW (.x 11)).setWidth 48).toNat % 8 ≠ 0 :=
  ⟨turn_ranX _, by decide +kernel, by decide +kernel, by decide +kernel⟩
theorem wit_RoundsToNeighbour : roundMag (stdGrid .f32) .rne false false 0x1000001 0 false = (.idx 0x4B800000, fNX) ∧ fNX &&& fOF = 0 ∧
    (stdGrid .f32).maxK = 0x7F7FFFFF ∧ (roundStd .f32 .rtz false (.fin true 1 128 false)).2 = fOF ||| fNX ∧
    (0x3F800000 : Word).toNat < 2 ^ Ty.f32.width ∧ (decodeStd .f32 0x3F800000).isNan = false := by decide +kernel
theorem wit_FloatResults : turn ran 0 0 (rRegs { okAdd with ty := .f32 }) := turn_ran _
theorem wit_NanResults : (decodeStd .f32 0x7F800001).isNan = true ∧ (decodeStd .f32 0x7F800001).isSig = true ∧ (decodeStd .f32 0x7FC00000).isNan = true ∧
    (decodeStd .f32 0x3F800000).isNan = false := by decide +kernel
theorem wit_VectorElements : (8 : Nat) ∈ [1, 2, 4, 8] ∧ 15 < 128 / 8 := by decide
theorem wit_VectorIntegerResults : turn ran 0 0 (rRegs ⟨.v 1, .v 2, .v 3, .none, false, 0, .s32, .rne, false, 0⟩) := turn_ran _
theorem wit_VectorFloatResults : turn ran 0 0 (rRegs ⟨.v 1, .v 2, .v 3, .none, false, 0, .f32, .rne, false, 0⟩) := turn_ran _
theorem wit_VectorCompares : turn ran 0 0 (rRegs ⟨.c 1, .v 2, .v 3, .none, false, 0, .f64, .rne, false, 0⟩) := turn_ran _
theorem wit_VectorConversions : turn ran 0 0 (rRegs ⟨.v 1, .v 2, .none, .none, false, 0, .f32, .rne, false, 4⟩) ∧ (4 : Nat) ∈ [4, 6, 8] :=
  ⟨turn_ran _, by decide⟩
theorem wit_LaneMoves : turn ran 0 0 (rRegs ⟨.v 1, .v 2, .x 7, .none, false, 0, .n8, .rne, false, 0⟩) ∧ gov 0xFFFFFFFF 1 127 = true ∧ gov 0 1 0 = false :=
  ⟨turn_ran _, by decide +kernel, by decide +kernel⟩
theorem wit_ReductionResults : turn ran 0 0 (rRegs ⟨.x 1, .v 2, .none, .none, false, 0, .f32, .rne, false, 0⟩) := turn_ran _

/-- LD x8, [x5] in scratch, and in memory. -/
def ldS : FmtM := okLd
def ldM : FmtM := { okLd with base := .x 6 }
/-- A vector access of 4 elements of 8 bytes from v1, contiguous. -/
def vS : FmtM := ⟨.v 1, .x 5, .none, false, 0, .plain, .slot, 3, 3, 0⟩
def vM : FmtM := { vS with base := .x 6 }
/-- The access of a form to one place. -/
def oneOp (s : State) (f : FmtM) (st : Bool) : MemOp := contigOp f (s.slot 0 0) st [⟨0, (s.slot 0 0).memVa f 0⟩]
/-- Nothing holds it back, its early checks pass, and it lies in scratch banks of the domain. -/
def scratchOk (s : State) (m : MemOp) : Prop := clearHere s 0 0 m ∧ m.spots ≠ []
/-- The access is put off instead, in a turn of that kind. -/
def putOff (s : State) (m : MemOp) : Prop := unheld s 0 0 m ∧ worst (earlyBad s 0 0 m) = none ∧ inBanks s 0 0 m.spots ∧
  unmet { s with later := true } { s with later := true } 0 0 m (scratchElems m.spots) true
/-- It is clear, and every element lies in memory. -/
def memOk (s : State) (m : MemOp) : Prop := ∃ t es, flying s 0 0 m t es ∧ es ≠ [] ∧ t.poison = []

/-- An element lies in memory, as a Bool. -/
def inMem (e : Elem) : Bool :=
  match e.loc with
  | .mem .. => true
  | _ => false

theorem inMem_of (es : List Elem) (h : es.all inMem = true) : ∀ e ∈ es, ∃ pa mt gr, e.loc = .mem pa mt gr := by
  intro e he
  have := List.all_eq_true.mp h e he
  unfold inMem at this
  split at this
  · exact ⟨_, _, _, by assumption⟩
  · cases this

/-- Its elements are placed in memory, with no poison about, and meet no access that waits. -/
def lies (s : State) (m : MemOp) (n : Nat) (p : Elem → Bool) : Bool :=
  let r := s.placeAll 0 (s.slot 0 0).dom m.acc (s.slot 0 0).isU (some (0, 0, (s.slot 0 0).task.act)) m.spots
  r.2.2.1.isEmpty && !r.2.2.2 && r.2.1.length == n && r.1.poison.isEmpty && r.2.1.all inMem && r.2.1.all p &&
    !(s.core 0).heldMeets (s.slot 0 0).dom m.whole m.exts (m.places r.2.1) && r.1.lateness 0 (s.slot 0 0).dom m r.2.1 == some false

theorem lies_of (s : State) (m : MemOp) (n : Nat) (p : Elem → Bool) (hu : unheld s 0 0 m) (hb : worst (earlyBad s 0 0 m) = none)
    (h : lies s m n p = true) : ∃ t es, flying s 0 0 m t es ∧ es.length = n ∧ t.poison = [] ∧ ∀ e ∈ es, p e = true := by
  unfold lies at h
  rcases hr : s.placeAll 0 (s.slot 0 0).dom m.acc (s.slot 0 0).isU (some (0, 0, (s.slot 0 0).task.act)) m.spots with ⟨t, es, bad, w⟩
  rw [hr] at h
  simp only [Bool.and_eq_true, beq_iff_eq, List.isEmpty_iff, Bool.not_eq_true'] at h
  obtain ⟨⟨⟨⟨⟨⟨⟨rfl, rfl⟩, h3⟩, h4⟩, h5⟩, h6⟩, h7⟩, h8⟩ := h
  exact ⟨t, es, .inr ⟨⟨hu, ⟨hb, hr⟩, .inr h7, h8⟩, inMem_of _ h5⟩, h3, h4, List.all_eq_true.mp h6⟩

theorem memOk_of (s : State) (m : MemOp) (n : Nat) (hu : unheld s 0 0 m) (hb : worst (earlyBad s 0 0 m) = none)
    (h : lies s m (n + 1) (fun _ => true) = true) : memOk s m := by
  obtain ⟨t, es, hf, hl, hp, _⟩ := lies_of s m _ _ hu hb h
  exact ⟨t, es, hf, by rintro rfl; simp at hl, hp⟩

/-- It may be performed in flight, and has one element, of which p holds. -/
def memOne (s : State) (m : MemOp) (p : Elem → Bool) : Prop := ∃ t x, flying s 0 0 m t [x] ∧ t.poison = [] ∧ p x = true

theorem memOne_of (s : State) (m : MemOp) (p : Elem → Bool) (hu : unheld s 0 0 m) (hb : worst (earlyBad s 0 0 m) = none)
    (h : lies s m 1 p = true) : memOne s m p := by
  obtain ⟨t, es, hf, hl, hp, he⟩ := lies_of s m _ _ hu hb h
  obtain ⟨x, rfl⟩ := List.length_eq_one_iff.mp hl
  exact ⟨t, x, hf, hp, he x (List.mem_singleton_self x)⟩

theorem wit_LoadDestinations : (4 : Nat) ∈ [1, 2, 4, 8] ∧ (31 : BitVec 5) ≠ 0 ∧ (7 : BitVec 3) ≠ 0 ∧ 31 < 128 / 4 := by decide
theorem wit_ScratchLoads : turn ranX 0 0 (mRegs ldS) ∧ turn ranX 0 0 (ldkRegs ⟨.c 60, .x 5, .none, false, 0, .plain, .slot, 3, 3, 0⟩ ++ mRegs ldS) ∧
    (ranX.slot 0 0).guard false 0 = true ∧ scratchOk ranX (oneOp ranX ldS false) ∧ scratchOk ranX (vecContig vS (ranX.slot 0 0) false) := by
  refine ⟨turn_ranX _, turn_ranX _, by decide +kernel, ?_, ?_⟩ <;> unfold scratchOk clearHere unheld inBanks unmet <;> decide +kernel
theorem wit_ScratchStores : Memory.wf zeroByte (ranX.core 0).scratch = true ∧ scratchOk ranX (oneOp ranX ldS true) ∧
    scratchOk ranX (vecContig vS (ranX.slot 0 0) true) := by
  refine ⟨by decide +kernel, ?_, ?_⟩ <;> unfold scratchOk clearHere unheld inBanks unmet <;> decide +kernel
theorem wit_AccessesInFlight : turn ranX 0 0 (mRegs ldM) ∧ memOk ranX (oneOp ranX ldM false) ∧ memOk ranX (oneOp ranX ldM true) ∧
    memOk ranX (vecContig vM (ranX.slot 0 0) true) := by
  refine ⟨turn_ranX _, memOk_of _ _ 0 ?_ ?_ ?_, memOk_of _ _ 0 ?_ ?_ ?_, memOk_of _ _ 3 ?_ ?_ ?_⟩ <;> (try unfold unheld) <;> decide +kernel
theorem wit_AccessesInFlight_late : putOff ranX (oneOp ranX ldS false) ∧ putOff ranX (oneOp ranX ldS true) := by
  refine ⟨?_, ?_⟩ <;> unfold putOff unheld inBanks unmet <;> decide +kernel
theorem wit_AccessTraps : turn ranX 0 0 (mRegs okLd) ∧ unheld ranX 0 0 (oneOp ranX { okLd with base := .x 11 } false) ∧
    ((ranX.slot 0 0).memVa { okLd with base := .x 11 } 0).toNat % 8 ≠ 0 ∧
    unheld ranU 0 0 (oneOp ranU okLd false) ∧ inScratch ((ranU.slot 0 0).memVa okLd 0).toNat = true ∧
    (ranU.core 0).bankOk (ranU.slot 0 0).dom ((ranU.slot 0 0).memVa okLd 0).toNat = false := by
  unfold unheld
  exact ⟨turn_ranX _, by decide +kernel, by decide +kernel, by decide +kernel, by decide +kernel, by decide +kernel⟩
theorem wit_AtomicResults : turn ranX 0 0 (mRegs ldS) ∧ (ranX.slot 0 0).guard false 0 = true ∧ mSize ldS ∈ [4, 8] ∧
    scratchOk ranX (atomOp { ldS with aux := .x 7 } (ranX.slot 0 0) false .both) := by
  refine ⟨turn_ranX _, by decide +kernel, by decide +kernel, ?_⟩
  unfold scratchOk clearHere unheld inBanks unmet; decide +kernel
theorem wit_AtomicsInFlight : ∀ m ∈ ([atomOp { ldM with aux := .x 7 } (ranX.slot 0 0) false .both, atomOp ldM (ranX.slot 0 0) false .read,
    atomOp ldM (ranX.slot 0 0) false .write] : List MemOp), memOne ranX m (fun x => !x.loc.remote) := by
  simp only [List.mem_cons, List.not_mem_nil, or_false, forall_eq_or_imp, forall_eq]
  refine ⟨?_, ?_, ?_⟩ <;> refine memOne_of _ _ _ ?_ ?_ ?_ <;> (try unfold unheld) <;> decide +kernel
theorem wit_AtomicsInFlight_point : loading.poison = [] ∧ (loading.core 0).pend.all (fun p => loading.pointReady 0 p &&
    p.elems == [⟨0, 0x2000, .mem 0x2000 0 0⟩] && (loading.core 0).slotOf p.act == some p.slot) = true ∧ (loading.core 0).pend ≠ [] ∧
    loading.resvFull (some (0, homeSlice 0x2000)) = false := by decide +kernel

/-- The page at 2^33 is fabric memory of type MT 11, and x12 points to it. -/
def ranFar : State := State.withX (ranX.homeWrite 8 (bytesOf 8 0x10000000000021B7)) [(12, 0x200000000)]

/-- An access of one element beyond the device. -/
def farM : FmtM := { ldM with base := .x 12 }

theorem wit_AtomicsInFlight_beyond : ∀ m ∈ ([atomOp { farM with aux := .x 7 } (ranFar.slot 0 0) false .both,
    atomOp farM (ranFar.slot 0 0) false .read, atomOp farM (ranFar.slot 0 0) false .write] : List MemOp), memOne ranFar m (fun x => x.loc.remote) := by
  simp only [List.mem_cons, List.not_mem_nil, or_false, forall_eq_or_imp, forall_eq]
  refine ⟨?_, ?_, ?_⟩ <;> refine memOne_of _ _ _ ?_ ?_ ?_ <;> (try unfold unheld) <;> decide +kernel
theorem wit_LoadReserveStoreConditional : turn ranX 0 0 (mRegs ldS) ∧ (ranX.core 0).resvBusy (ranX.slot 0 0).task.act = false ∧ scratchOk ranX (atomOp ldS (ranX.slot 0 0) false .read) ∧
    scratchOk ranX (atomOp ldS (ranX.slot 0 0) false .write) := by
  refine ⟨turn_ranX _, by decide +kernel, ?_, ?_⟩ <;> unfold scratchOk clearHere unheld inBanks unmet <;> decide +kernel
theorem wit_VectorAtomics : scratchOk ranX { vecScatter { vS with aux := .v 2 } (ranX.slot 0 0) true (gatherVa { vS with aux := .v 2 } (ranX.slot 0 0)) with acc := .both } ∧
    memOk ranX { vecScatter { vM with aux := .v 2 } (ranX.slot 0 0) true (gatherVa { vM with aux := .v 2 } (ranX.slot 0 0)) with acc := .both } := by
  refine ⟨by unfold scratchOk clearHere unheld inBanks unmet; decide +kernel, ?_⟩
  refine memOk_of _ _ 3 ?_ ?_ ?_ <;> (try unfold unheld) <;> decide +kernel

/-- A page of tiles at 2^33: the second leaf of the root has EXIST, entry 0 of the region table at 0x3000 is a region of 64 tiles of 512 bytes with its manifest
at 0x4000 and its tile map at 0x5000; entry 0 of the tensor table at 0x6000 is a narrow tensor of 4-bit codes (R33, R37, R191). x12 is 2^33, x13 512. -/
def tiled : State :=
  let words : List (Nat × Word) := [(8, 0x2837), (0x3000, 0x0080000200000000), (0x3008, 0x8000), (0x3018, 0x4000), (0x3020, 0x5000),
    (0x6000, 0x7000), (0x6008, 0x1090), (0x6010, 0x8000000040), (0x6018, 0x800000000040)]
  let s := words.foldl (fun (s : State) e => s.homeWrite e.1 (bytesOf 8 e.2.toNat)) ranX
  State.withX (s.modDom 0 (fun x => { x with regiontab := 0x3000, tidtab := 0x6000 })) [(12, 0x200000000), (13, 512)]

/-- The page of an address is found with its tile, and n tiles from it are. -/
def tilesFound (s : State) (a : Acc) (va n : Nat) : Bool :=
  match s.tileOf 0 0 a false none va with
  | (s1, .ok t) => va % t.region.tile == 0 && (match (s1.tilesFrom 0 0 a false none t.region.tile n va).2 with
    | .ok _ => true
    | _ => false)
  | _ => false

/-- The pages of an extent of tiles lie in one region, and every tile of it is found. -/
def erasable (s : State) (va len : Nat) : Bool :=
  match s.regionPages 0 0 .write false none none (pageSteps va len) with
  | (s1, .ok (t :: _)) => va % t.region.tile == 0 && len % t.region.tile == 0 &&
    (match (s1.tilesFrom 0 0 .write false none t.region.tile (len / t.region.tile) va).2 with
    | .ok _ => true
    | _ => false)
  | _ => false

theorem turn_tiled (uses : List RegName) : turn tiled 0 0 uses :=
  ⟨by decide +kernel, by decide +kernel, by simp [Core.awaits, show (tiled.core 0).pend = [] by decide +kernel]⟩

/-- FLUSH of memory at x6. -/
def flushM : FmtM := ⟨.none, .x 6, .none, false, 0, .plain, .slot, 3, 0, 0⟩

theorem wit_CacheAndFence_flush : (longOp flushM (ranX.slot 0 0) false).bad = [] ∧
    (ranX.core 0).sbHolds (ranX.slot 0 0).dom false (longOp flushM (ranX.slot 0 0) false).exts = false ∧
    (let m := longOp flushM (ranX.slot 0 0) true
     (ranX.core 0).sbHolds (ranX.slot 0 0).dom true m.exts = false ∧ (ranX.core 0).acquiring (ranX.slot 0 0).task.act = false ∧
     (ranX.slot 0 0).cnt.st ≠ 63 ∧ worst (m.bad ++ ranX.reservedPtes 0 (ranX.slot 0 0).dom m.spots ++ misaligned m.size m.spots) = none ∧
     (match ranX.lookPages 0 (ranX.slot 0 0).dom (some (0, 0, (ranX.slot 0 0).task.act)) (pageParts 0x2000 8) with
     | (t, es, bad, waits) => bad.isEmpty && !waits && !es.isEmpty && !t.l1Waits 0 (memRuns 1 es) &&
         !(ranX.core 0).heldMeets (ranX.slot 0 0).dom false m.exts (runPlaces (memRuns 1 es))) = true) := by decide +kernel
/-- A PREF that nothing holds up, and one whose bytes a store has queued for. -/
theorem wit_CacheAndFence_pref : (let rs := (ranX.prefRuns 0 (ranX.slot 0 0).dom (ranX.slot 0 0).isU (pageParts 0x2000 8)).2
    !rs.isEmpty && !(ranX.core 0).l1Queued (rs.map (fun x => x.1)) &&
      !(ranX.core 0).heldMeets (ranX.slot 0 0).dom false [] (runPlaces (rs.map (fun x => x.1)))) = true ∧
    ((longOp flushM (ranX.slot 0 0) false).spots.length * (longOp flushM (ranX.slot 0 0) false).size = 8) ∧
    ((storing.core 0).l1Queued [⟨0x1000, 8⟩] = true) := by decide +kernel
theorem wit_CacheAndFence_tiles : turn tiled 0 0 (mRegs ⟨.x 8, .x 12, .none, false, 0, .plain, .slot, 3, 1, 0⟩) ∧
    tilesFound tiled .read 0x200000000 2 = true ∧ erasable tiled 0x200000000 512 = true ∧ erasable tiled 0x200000000 1024 = true ∧
    (tiled.core 0).released (tiled.slot 0 0).task.act (tiled.slot 0 0).acq false = true :=
  ⟨turn_tiled _, by decide +kernel, by decide +kernel, by decide +kernel, by decide +kernel⟩
theorem wit_CacheAndFence_step : ((tiled.setTile 0 0 ⟨[⟨0, 0x200000000, .tile 0 0 0⟩], [], []⟩).slot 0 0).tile =
    some ⟨[⟨0, 0x200000000, .tile 0 0 0⟩], [], []⟩ := by decide +kernel
theorem wit_CacheAndFence_pool : (tiled.slot 0 0).isU = false ∧ (tiled.core 0).released (tiled.slot 0 0).task.act (tiled.slot 0 0).acq true = true ∧
    (match (tiled.poolTiles 0 0 512 1 0x10000).2 with
    | .ok _ => true
    | _ => false) = true ∧ 0x10000 % 2 ^ (9 + 0) = 0 := by decide +kernel
theorem wit_CacheAndFence_fence : turn ran 0 0 [] ∧ (ran.core 0).loadsDone 0 0 = true ∧ (loading.core 0).loadsDone (loading.slot 0 0).task.act 0 = false :=
  ⟨turn_ran _, by decide +kernel, by decide +kernel⟩

/-- The records of x16 to x21 go to the handler in x3, or to the core in x14; in its domain core 0 is virtual core 0; gate 0 stands at 0x8000, one
continuation frame at 0x22000, the fault queue at 0xA000. -/
def sender : State :=
  let words : List (Nat × Word) := [(0x8000, 0x8000000000002000), (0x8008, 0x8000000000000000), (0x8010, 0x100), (0x8018, 0x8000000000000000), (0x9000, 0x80000000)]
  let s := words.foldl (fun (s : State) e => s.homeWrite e.1 (bytesOf 8 e.2.toNat)) tiled
  State.withX (s.modDom 0 (fun x => { x with gateBase := 0x8000, gateLen := 1, coremap := 0x9000, fpBase := 0x20000, fpNf := 1, fpFree := 1, fqBase := 0xA000, fqSize := 1 }))
    [(3, 0x4000)]

theorem turn_sender (uses : List RegName) : turn sender 0 0 uses :=
  ⟨by decide +kernel, by decide +kernel, by simp [Core.awaits, show (sender.core 0).pend = [] by decide +kernel]⟩

/-- A SPAWN, or SEND and SENDR, or a gate call with the reply at x3. -/
def spawnF : FmtS := ⟨.none, .x 3, .x 16, .none, 0⟩
def sendF : FmtS := ⟨.none, .x 14, .x 3, .x 16, 0⟩

theorem wit_SpawnAndSends : (sender.slot 0 0).isU = false ∧ ((sender.slot 0 0).srcW spawnF.sa).toNat % 8 = 0 ∧
    (sender.core 0).released (sender.slot 0 0).task.act (sender.slot 0 0).acq false = true ∧ (sender.core 0).entryOf (sender.slot 0 0).dom = some 0 ∧
    (sender.core 0).acquiring (sender.slot 0 0).task.act = false ∧ (sender.pushBottom 0 0 ⟨sender.spawnRec 0 (sender.slot 0 0) spawnF, false, false⟩).2 = true ∧ sender.eightHeld 0 0 = false ∧
    (sender.core 0).sendFull (sender.slot 0 0).dom = false ∧ sender.mapTarget 0 ((sender.slot 0 0).srcW sendF.sa) = some (.local_ 0) := by decide +kernel
theorem wit_SpawnAndSends_grant : (({ (sender.slot 0 0).task.grant with valid := true } : Grant).consumed = false) ∧
    sender.mapTarget 0 ((0 : BitVec 10).setWidth 64) = some (.local_ 0) := by decide +kernel
theorem wit_SpawnAndSends_gate : (0 : BitVec 8).toNat < (sender.dom 0).gateLen.toNat ∧ (sender.slot 0 0).cnt.ld ≠ 63 ∧
    (match sender.devRead 0 0 ((sender.dom 0).gateBase.setWidth 48 + BitVec.ofNat 48 (32 * (0 : BitVec 8).toNat)) 4 with
    | (s1, .ok ws) => gateOk ws 0 0 ((sender.slot 0 0).srcW sendF.sa) (sendF.sb != Spec.none) &&
        decide (s1.mapTarget 0 ((sender.slot 0 0).srcW sendF.sa) = some (.local_ 0)) && !(s1.core 0).sendFull 0 &&
        decide ((s1.gateRec 0 (sender.slot 0 0) sendF ws 0 0).handler.toNat % 8 = 0)
    | _ => false) = true := by decide +kernel

theorem wit_EndYieldWait : (sender.slot 0 0).status = .running ∧ ((sender.commit 0 0).slot 0 0).cnt.ld = 0 ∧ ((sender.commit 0 0).slot 0 0).cnt.sd = 0 ∧
    ((loading.commit 0 0).slot 0 0).cnt.ld ≠ 0 := by decide +kernel
theorem wit_EndYieldWait_watch : ((ranX.slot 0 0).srcW (.x 6)).toNat % 8 = 0 ∧ inScratch ((ranX.slot 0 0).srcW (.x 6)).toNat = false ∧
    (match (ranX.place 0 0 .read false (some (0, 0, (ranX.slot 0 0).task.act)) 0x2000).2 with
    | .ok (.mem _ mt _) => mt == 0
    | _ => false) = true ∧ ranX.reservedPtes 0 0 [⟨0, 0x2000⟩] = [] := by decide +kernel

/-- Quad barrier 0 of domain 0 expects two arrivals and has one, its name is in x15; barrier 2, named in x8, is at rest; the other barriers are free. -/
def barred : State := State.withX ((sender.setBar (.quad 0 0 0) ⟨some 0, none, 2, 1, 0⟩).setBar (.quad 0 0 2) ⟨some 0, none, 2, 0, 5⟩) [(15, 0x200), (4, 2), (8, 0x202)]

theorem wit_BarrierInstructions : turn barred 0 0 (specRegs [.x 20, .x 15]) ∧
    barOf 0 (barred.slot 0 0).task.teamBar ((barred.slot 0 0).srcW (.x 15)) = some (.quad 0 0 0) ∧ (barred.bar (.quad 0 0 0)).owner = some 0 ∧
    ((barred.commit 0 0).core 0).released (barred.slot 0 0).task.act (barred.slot 0 0).acq false = true ∧ ((barred.commit 0 0).barArrive (.quad 0 0 0)).2 = 0 ∧
    BarRef.isQuad (.quad 0 0 0) = true ∧ BarRef.isPod (.quad 0 0 0) = false ∧ (barred.bar (.quad 0 0 0)).a + 1 = (barred.bar (.quad 0 0 0)).e :=
  ⟨⟨by decide +kernel, by decide +kernel, by simp [Core.awaits, show (barred.core 0).pend = [] by decide +kernel]⟩, by decide +kernel, by decide +kernel,
    by decide +kernel, by decide +kernel, by decide +kernel, by decide +kernel, by decide +kernel⟩
theorem wit_BarrierInstructions_names : barred.freeBarOf 0 2 = some (.quad 0 0 1, 1) ∧ (barred.slot 0 0).level ≠ 0 ∧
    barOf 0 none ((barred.slot 0 0).srcW (.x 8)) = some (.quad 0 0 2) ∧ (barred.bar (.quad 0 0 2)).team = none ∧ barred.barUsed (.quad 0 0 2) = false ∧
    ((barred.slot 0 0).srcW (.x 4)).toNat = 2 ∧ ((barred.slot 0 0).srcW (.x 15)).extractLsb' 11 53 = 0 := by decide +kernel

/-- x24 to x27 hold a FILL of 8 bytes of scratch. -/
def filler : State := State.withX sender [(24, 0x0C00000000000000), (25, 0xFFFFFFF80000), (26, 0xFF), (27, 8)]

theorem wit_EnqueueAndQseq : turn filler 0 0 (specRegs [.x 20] ++ quadRegs (.x 24)) ∧
    (let t := (filler.slot 0 0).tcw (.x 24)
     tcwQueue t.op 0 = true ∧ t.w0.extractLsb' 48 6 = 0 ∧ t.hdr.ok = true ∧ t.hdr.ntfy = false ∧
     (match filler.tidFetchAll 0 0 (tcwTids t), decodeTcw t with
     | (s1, .ok tids), .ok c => tensorsOk c tids && decide (s1.domainFail 0 0 t (cmdRanges c tids) = none) &&
         !(s1.core 0).enqFull 0 (filler.slot 0 0).cnt (cmdRanges c tids).length
     | _, _ => false) = true) :=
  ⟨⟨by decide +kernel, by decide +kernel, by simp [Core.awaits, show (filler.core 0).pend = [] by decide +kernel]⟩, by decide +kernel⟩

theorem wit_CsrInstructions : csrDefined 0x100 = true ∧ (csrRead 0x100).toNat ≤ (sender.slot 0 0).level.toNat ∧ csrDefined 0x7F = false ∧
    csrDenied 0x110 (sender.slot 0 0).level = none ∧ csrRefused 0x110 5 5 = false ∧
    (match sender.csrSet 0 0 0x110 5 with
    | .ok t => t.csrGet 0 0 0x110 == 5
    | _ => false) = true ∧ csrDenied 0x110 0 = some .priv := by decide +kernel
theorem wit_PrivilegeTraps : turn ranU 0 0 (specRegs [.x 14, .x 14]) ∧ (ranU.slot 0 0).level = 0 ∧
    ((ranU.slot 0 0).srcW (.x 14)).toNat + ((ranU.slot 0 0).srcW (.x 14)).toNat ≤ 2 ^ 48 ∧ ranU.scrubRefused 9 = false ∧
    (match domAsk 0 (ranU.slot 0 0) ⟨.x 1, .x 20, .none, .none, 1⟩ with
    | some q => !(ranU.core q.t).domRefused q || (!q.wa && !q.wb)
    | none => false) = true := ⟨turn_ranU _, by decide +kernel, by decide +kernel, by decide +kernel, by decide +kernel⟩


/-- A context is saved. -/
def savedOk (r : State × SaveRes) : Bool :=
  match r.2 with
  | .saved _ => true
  | _ => false

theorem wit_EndYieldWait_park : savedOk (((sender.commit 0 0).pcNext 0 0).trySave 0 0 (.park .now none) (((sender.commit 0 0).pcNext 0 0).slot 0 0).pc 0 .now) = true := by
  decide +kernel

/-- A suspended task of domain 0 in the frame at 0x22000, whose S3 holds KIND 1 (R319). -/
def suspended : State :=
  let s := (sender.homeWrite 0x20000 [1]).homeWrite 0x2433F [0x40]
  { s with conts := [⟨0, 0, 0x22000, 0, .now, 0, 0, 0, true, false, false, 0, (sender.slot 0 0).task, [], none, 0⟩] }

/-- The FILL of x24 to x27 in queue 0: running, and its engine's turn; and stopped. -/
def queued : State := { (filler.enqueue 0 0 0 ((filler.slot 0 0).tcw (.x 24)) [] []) with agent := .cmd 0 0 0 }
def stopped : State := queued.modCmd 0 0 0 (fun m => { m with st := .stopped .page 0x40 })

theorem wit_SystemResults : (suspended.slot 0 0).level = 2 ∧ resumeDom sendF = 0 ∧ (suspended.core 0).storesDone (suspended.slot 0 0).task.act = true ∧
    (match suspended.frameTask 0 0 0x22000 with
    | .task c x => x.legal && !x.busy && (suspended.resumeTarget 0 c x.s17 none).isSome && (match suspended.resumeImage 0 c with
      | .got _ => true
      | _ => false)
    | _ => false) = true ∧
    (match suspended.frameTask 0 0 0x21000 with
    | .bad => true
    | _ => false) = true := by decide +kernel
theorem wit_SystemResults_command : ((stopped.core 0).cmdAt 0 0).all (fun m => (stopped.stoppedCmd 0 (stopped.handleOf 0 0 m)).isSome) = true ∧
    ((stopped.core 0).cmdAt 0 0).isSome = true := by decide +kernel
theorem wit_SystemResults_tlbinv : (tiled.tlbInv 0 3 ⟨0, 0, 0x1000, 1, false⟩).inFlight 0 3 ⟨0, 0, 0x1000, 1, false⟩ = false ∧ inScope 3 0 0 = true ∧
    inScope 1 0 1 = false := by decide +kernel

/-- The entry's place is in memory, for reads and writes. -/
def tidOk (s : State) (tid : Byte) (reads writes : Bool) : Bool :=
  match (s.tidPlace 0 0 tid reads writes (some (0, 0, (s.slot 0 0).task.act))).2 with
  | .ok (.mem ..) => true
  | _ => false

theorem wit_TensorInstructions : unheld tiled 0 0 (tidOp true 64) ∧ unheld tiled 0 0 (tidOp false 8) ∧ tidOk tiled 0 false true = true ∧
    tidOk tiled 0 true false = true := by unfold unheld; decide +kernel
theorem wit_TensorInstructions_codes : (match tiled.tidFetch 0 0 0 (tiled.slot 0 0).task.act (some (0, 0, (tiled.slot 0 0).task.act)) with
    | (s1, .ok ws) => (match tidOf ws with
      | some e => (match e.fmt with
        | .narrow _ => tidOk s1 0 false true
        | _ => false)
      | none => false)
    | _ => false) = true ∧ (tiled.slot 0 0).cnt.st ≠ 63 ∧
    ((List.range (128 / Ty.f32.size)).any (gov ((tiled.slot 0 0).mask false 0) Ty.f32.size)) = true := by decide +kernel

theorem wit_ScrubAndDomset : (ranX.slot 0 0).level = 2 ∧ ranX.scrubRefused 9 = false ∧ (ranX.core 0).released (ranX.slot 0 0).task.act (ranX.slot 0 0).acq false = true ∧
    (match domAsk 0 (ranX.slot 0 0) ⟨.x 1, .x 20, .none, .none, 1⟩ with
    | some q => !q.wa && !q.wb
    | none => false) = true := by decide +kernel
/-- Word B of entry 1 of core 0 stays EMPTY (R41). -/
theorem wit_ScrubAndDomset_write : (match domAsk 0 (ranX.slot 0 0) ⟨.x 1, .x 20, .none, .none, 9⟩ with
    | some q => let p := (ranX.core q.t).part[q.e]
      q.wb && !(ranX.core q.t).domRefused q && !q.saves p && !q.restores p
    | none => false) = true := by decide +kernel

theorem wit_TrapsTaken : (sender.slot 0 0).status = .running ∧ TrapCode.illegal.cls ≠ 1 ∧ TrapCode.page.cls = 1 ∧
    (let u := ((sender.dropLoads 0 0).dropUncommitted 0 (sender.slot 0 0).task.act).dropReservation 0 0
     (u.fqTry 0 0 (u.faultOf 0 0 ⟨.illegal, 0, 0⟩ 0 0x1000 0 0)).2) = .put ∧
    (match sender.trySave 0 0 (.suspend ⟨.page, 0x40, 0⟩ 0x1000 0 none) 0x1000 1 .now with
    | (s1, .saved fr) => let s2 := (s1.addCont 0 0 fr .now true).modSlot 0 0 (fun x => { x with task := { x.task with act := 0 } })
      (s2.fqTry 0 (s1.slot 0 0).dom (s1.faultOf 0 0 ⟨.page, 0x40, 0⟩ 1 0x1000 0 fr)).2 == .put
    | _ => false) = true := by decide +kernel
theorem wit_TrapRecords : TrapCode.illegal ≠ .sendqfull ∧ (sender.slot 0 0).task.tr.replay ≠ 3 ∧ ((sender.slot 0 0).task.tr.withReplay 3).replay = 3 ∧
    ({ (sender.slot 0 0).task with source := .deque } : Task).source = .deque ∧ (sender.core 0).entryOf (sender.slot 0 0).task.tr.dom = some 0 ∧
    (sender.pushTop 0 0 ⟨(sender.slot 0 0).task.tr, false, false⟩).2 = true := by decide +kernel

/-- What an engine's run gave ends with `done`. -/
def EngOut.isDone : EngOut → Bool
  | .done => true
  | _ => false

/-- The command of `queued`, with a tensor entry of narrow codes, its progress and what it has read. -/
def cmdOf (progress : Nat) (buf : List Byte) : Cmd :=
  match (queued.core 0).cmdAt 0 0 with
  | some m => { m with progress := progress, buf := buf, tids := [(0x6000, #v[0x7000, 0x1090, 0x8000000040, 0x800000000040, 0, 0, 0, 0]), (0x6000, #v[0x7000, 0x1090, 0x8000000040, 0x800000000040, 0, 0, 0, 0])] }
  | none => ⟨0, ⟨0, 0, 0, 0⟩, 0, 0, 0, 0, 0, 0, none, 0, none, 0, 0, 0, [], [], .running, progress, 0, 0, buf, []⟩
/-- That command in its queue, at its engine's turn. -/
def works (progress : Nat) (buf : List Byte) : State := queued.modCmd 0 0 0 (fun _ => cmdOf progress buf)

theorem wit_CommandsComplete_turn : queued.agent = .cmd 0 0 (cmdOf 0 []).pos ∧ ((works 0 []).core 0).cmdAt 0 (cmdOf 0 []).pos = some (cmdOf 0 []) ∧
    ((works 0 []).core 0).cmdReady 0 (cmdOf 0 []) = true ∧ (works 0 []).agent = .cmd 0 0 (cmdOf 0 []).pos := by decide +kernel

abbrev scrVa : Nat := 0xFFFFFFF80000

theorem wit_CommandsComplete_copies : EngOut.isDone ((works 0 []).copyRun 0 0 (cmdOf 0 []) scrVa (scrVa + 256) 8 0 []).2.2.2 = true ∧
    EngOut.isDone ((works 0 []).copyRows 0 0 (cmdOf 0 []) ⟨okHdr, 1, 7, 0xFFFFFFF80000, 0xFFFFFFF80100, 16, 8⟩ 2 0 []).2.2.2 = true ∧
    EngOut.isDone ((works 0 []).engWriteRun 0 0 (cmdOf 0 []) ((works 0 []).pieceCap 1) scrVa ((works 0 []).turnFuel 8) (fillBytes 0xFF 0 8)).2.2 = true ∧
    EngOut.isDone ((works 0 []).accumPieces 0 0 (cmdOf 0 []) ⟨okHdr, .f32, 0xFFFFFFF80000, 0x3800, 0, 0, 8⟩ (pieceFuel 8) 0 []).2.2.2 = true ∧
    EngOut.isDone ((works 8 []).sendContribs 0 0 (cmdOf 8 []) ⟨okHdr, .f32, 0, 0x2000, 2, 0, 8⟩ (pieceFuel 8) 8 []).2.2.2 = true := by decide +kernel
theorem wit_CommandsComplete_xcopy : (match (works 0 []).xcopyCheck 0 0 (cmdOf 0 []) false ⟨okHdr, 0x200000000, 0x200000200, 512⟩ with
    | (s1, .done) => EngOut.isDone (s1.xcopyGo 0 0 (cmdOf 0 []) false ⟨okHdr, 0x200000000, 0x200000200, 512⟩ ((works 0 []).turnFuel 512) 0 0 []).2.2.2.2
    | _ => false) = true := by decide +kernel
theorem wit_CommandsComplete_matrix : ((cmdOf 1 []).tensors.length = 2) ∧
    (match (cmdOf 1 []).tensors with
    | [a, _] => let A : MOperand := ⟨a, 0, 0, false⟩
      EngOut.isDone ((works 1 []).mmaBlocks 0 0 (cmdOf 1 []) ⟨okHdr, 0, false, false, false, 0, 0, 0, 0, 0, 0, 0, 0⟩ A A 1 0 0 []).2.2.2.2 &&
        EngOut.isDone ((works 1 []).mmaSkips 0 0 (cmdOf 1 []) 0 0).2 && EngOut.isDone ((works 0 []).operandOk 0 (cmdOf 0 []) a (A.pages 1)).2
    | _ => false) = true ∧
    EngOut.isDone ((works 16384 []).engWriteRun 0 0 (cmdOf 16384 []) 512 scrVa (pieceFuel 16384) []).2.2 = true ∧
    EngOut.isDone ((works 16384 []).readSome 0 0 (cmdOf 16384 []) (fun _ => true) 4 scrVa (pieceFuel 16384) 0).2.2 = true := by decide +kernel
theorem wit_CommandsComplete_rows : (match (cmdOf 0 []).tensors with
    | [a, _] => let b : Block := ⟨0, 64, 0, 64⟩
      EngOut.isDone ((works 0 []).readBlock 0 0 (cmdOf 0 []) a b (63 * a.span b)).2.2 && EngOut.isDone ((works 0 []).mstaStats 0 0 { cmdOf 0 [] with tids := [] } 0).2 && EngOut.isDone ((works 0 []).writeRows 0 0 (cmdOf 0 []) a b (fun _ _ => 0) 1 0).2.2
    | _ => false) = true := by decide +kernel
theorem wit_CommandsComplete_gather : (let c : GatherCmd := ⟨okHdr, false, .f32, 4, 0x2000, 0xFFFFFFF80000, 0, 0xFFFFFFF80100⟩
    let m := cmdOf 0 []
    let w := works 0 []
    let row := gRow c
    EngOut.isDone (w.entries 0 0 m c (fun s i j off => s.gatherRow 0 0 m (gTblVa c j) (gDenseVa c i) row (w.turnFuel row) off) 1 0 none).2.2 &&
      EngOut.isDone (w.entries 0 0 m c (fun s i j off => s.scatterRow 0 0 m (gDenseVa c i) (gTblVa c j) row (w.turnFuel row) off) 1 0 none).2.2 &&
      EngOut.isDone (w.entries 0 0 m c (fun s i j off => s.addRow 0 0 m .f32 (gDenseVa c i) (gTblVa c j) row (w.turnFuel (2 * row)) off) 1 0 none).2.2) = true := by decide +kernel
theorem wit_CommandsComplete_gsum : (let c : GatherCmd := ⟨okHdr, false, .f32, 4, 0x2000, 0x3800, 0, 0xFFFFFFF80100⟩
    let r := (works 0 []).sums 0 0 (cmdOf 0 []) c 1 ⟨0, 0, none⟩
    EngOut.isDone r.2.2 && r.2.1.run.isNone) = true := by decide +kernel
theorem wit_CommandsComplete_signal : ((queued.core 0).queues[(0 : QueueId)].takeWhile (fun x => x.pos != (cmdOf 0 []).pos)) = [] := by decide +kernel
theorem wit_CopiesInScratch : (works 0 []).piece = 0 ∧ (cmdOf 0 []).progress = 0 ∧ (cmdOf 0 []).buf = [] ∧ Memory.wf zeroByte ((works 0 []).core 0).scratch = true ∧
    scrVa + 8 ≤ 2 ^ 48 ∧ (List.range 8).all (fun k => inScratch (scrVa + k) && ((works 0 []).core 0).bankOk (cmdOf 0 []).dom (scrVa + k)) = true := by
  decide +kernel

/-- Messages of the coherence network under way; die 1 holds the grain at 0x2000 of die 0 as a visitor. -/
def noisy : State :=
  let s := ({ loading with net := [.fillResp 0 0 0x2000 [1] true [], .hbmRead 0 0 ⟨0x2000, 8⟩, .fwdRead 1 0 0 ⟨0x2000, 8⟩, .regAck 0 0 ⟨0x2000, 8⟩, .recall 0 ⟨0x2000, 8⟩,
    .fillReq 0 0 ⟨0x2000, 8⟩ 0, .reg 1 0 ⟨0x2000, 8⟩ 0, .writeBack 2 0x2000 [1] true false none [], .dereg 3 ⟨0x2000, 8⟩ false, .rds 2 0 ⟨0x4000, 32⟩, .rdown 2 0 ⟨0x4000, 32⟩,
    .rdna 200 0 1 ⟨0x4000, 32⟩, .cp 0 (ran.nextPend), .posted 0 0 none, .fillReq 200 0 ⟨0x2040, 8⟩ 0, .farRead 200 0 ⟨0x2000, 8⟩ 0, .through 5 0 0x2000 [1]] } : State)
  s.modDie 1 (fun d => { d with visitors := [⟨0x2000, List.replicate 32 0, .e, 0⟩] })

theorem wit_CoherenceEvents : noisy.net[0]? = some (.fillResp 0 0 0x2000 [1] true []) ∧ noisy.portTurn 0 ⟨0x2000, 1⟩ = true ∧ noisy.net[1]? = some (.hbmRead 0 0 ⟨0x2000, 8⟩) ∧
    noisy.net[2]? = some (.fwdRead 1 0 0 ⟨0x2000, 8⟩) ∧ noisy.net[3]? = some (.regAck 0 0 ⟨0x2000, 8⟩) ∧ noisy.net[4]? = some (.recall 0 ⟨0x2000, 8⟩) ∧
    noisy.net[5]? = some (.fillReq 0 0 ⟨0x2000, 8⟩ 0) ∧ noisy.inOrder 5 0 0x2000 = true ∧
    ((noisy.die (0 : CoreId).die).sliceQ[homeSlice 0x2000]).length < 32 ∧ noisy.fillLacks 0 ⟨0x2000, 8⟩ 0 = [] ∧
    noisy.net[6]? = some (.reg 1 0 ⟨0x2000, 8⟩ 0) ∧ noisy.inOrder 6 1 0x2000 = true ∧ noisy.regNeeds 1 (((noisy.core 1).pendOf 0).elim 0 (fun p => p.dom)) ⟨0x2000, 8⟩ 0 = none ∧
    noisy.net[7]? = some (.writeBack 2 0x2000 [1] true false none []) ∧ noisy.inOrder 7 2 0x2000 = true ∧
    noisy.net[8]? = some (.dereg 3 ⟨0x2000, 8⟩ false) ∧ noisy.inOrder 8 3 0x2000 = true := by decide +kernel
theorem wit_CoherenceEvents_far : noisy.net[14]? = some (.fillReq 200 0 ⟨0x2040, 8⟩ 0) ∧ noisy.inOrder 14 200 0x2040 = true ∧
    noisy.fillLacks 200 ⟨0x2040, 8⟩ 0 ≠ [] ∧ noisy.l2ways (200 : CoreId).die 0 ≠ 0 ∧ noisy.net[15]? = some (.farRead 200 0 ⟨0x2000, 8⟩ 0) ∧
    noisy.fillLacks 200 ⟨0x2000, 8⟩ 0 = [] ∧ noisy.net[16]? = some (.through 5 0 0x2000 [1]) ∧ noisy.inOrder 16 5 0x2000 = true := by decide +kernel
theorem wit_CoherenceEvents_grains : noisy.net[9]? = some (.rds 2 0 ⟨0x4000, 32⟩) ∧ noisy.grainBusy ⟨0x4000, 32⟩ = false ∧
    ((noisy.die 2).grain ⟨0x4000, 32⟩).isSome = false ∧ (noisy.dropMsg 9).oddGrain ⟨0x4000, 32⟩ = false ∧ (noisy.dropMsg 9).dirGet ⟨0x4000, 32⟩ = none ∧
    noisy.net[10]? = some (.rdown 2 0 ⟨0x4000, 32⟩) ∧ (noisy.die 2).ownsGrain ⟨0x4000, 32⟩ = false ∧ noisy.oddGrain ⟨0x4000, 32⟩ = false ∧ noisy.dirGet ⟨0x4000, 32⟩ = none ∧
    noisy.net[11]? = some (.rdna 200 0 1 ⟨0x4000, 32⟩) ∧ (noisy.dropMsg 11).dirGet ⟨0x4000, 32⟩ = none ∧ ((noisy.die 1).grain ⟨0x2000, 32⟩).isSome = true ∧
    (noisy.die 1).visitors[0]? = some ⟨0x2000, List.replicate 32 0, .e, 0⟩ := by decide +kernel
theorem wit_CoherenceEvents_snoop : (let s : State := { noisy with net := [.snoop 1 (.rds 0) 2 ⟨0x2000, 32⟩, .inval 1 ⟨0x2000, 32⟩] }
    s.net[0]? = some (.snoop 1 (.rds 0) 2 ⟨0x2000, 32⟩) ∧ s.net[1]? = some (.inval 1 ⟨0x2000, 32⟩) ∧ (((s.dropMsg 0).die 1).grain ⟨0x2000, 32⟩).isSome = true) := by
  decide +kernel
/-- Of the messages only the load's request is under way; and with it, for an LR, a full table whose entries are old. -/
def pointing (op : CpOp) (n : Nat) : State :=
  let s := { noisy with net := [.cp 0 ran.nextPend], cycle := 2000, resv := List.replicate n ⟨1, 0, 0, 0, 8, .scratch 0, 0, some (0, homeSlice 0x2000)⟩ }
  s.modCore 0 (fun c => { c with pend := c.pend.map (fun p => { p with kind := .cp op }) })

/-- The access of `pointing` is performed. -/
def points (op : CpOp) (n : Nat) (evict : Bool) : Bool :=
  let s := pointing op n
  match (s.core 0).pendOf ran.nextPend with
  | some p => p.kind == .cp op && !s.pointWaits 0 p op && s.pointAccepted 0 0 p && s.pointNeeds 0 p op == ([], []) &&
    (((p.step.1.filterMap (s.elemSlice 0 p.dom)).eraseDups.foldl (fun (s : State) x => s.modDie x.1 (fun y => y.sliceCount x.2 0)) (s.dropMsg 0)).performPoint
      0 p op evict).isSome
  | none => false

theorem wit_CoherenceEvents_point : points .read 0 false = true ∧ points .lr 0 false = true ∧ points .lr 512 true = true ∧
    noisy.net[13]? = some (.posted 0 0 none) := by decide +kernel
theorem wit_CoherenceEvents_accepts : noisy.accepts (1 : CoreId).die 0x2000 = true ∧ noisy.accepts (3 : CoreId).die 0x2000 = true ∧
    noisy.accepts (200 : CoreId).die 0x2000 = true ∧ noisy.homeAccepts ⟨0x4000, 32⟩ = true ∧
    ({ noisy with net := [.writeBack 2 0x2000 [1] true true none []] } : State).inOrderBytes 0 2 ⟨0x2000, 1⟩ = true ∧
    visited (1 : CoreId).die 0x2000 = false ∧ visited (200 : CoreId).die 0x2000 = true ∧ noisy.l2ways (200 : CoreId).die 0 ≠ 0 ∧
    (noisy.registerVisitor 200 0 ⟨0x2000, 8⟩ 0).2 = true := by decide +kernel
/-- A directory entry of the grain at 0x4000, shared, or owned by die 1. -/
def shared (owner : Option DieId) (st : DirState) (dies : BitVec 6) : State := noisy.dirPut ⟨0x4000, 32⟩ dies owner st
theorem wit_CoherenceEvents_dir : (((shared none .s 1).dropMsg 9).dirGet ⟨0x4000, 32⟩).all (fun e => e.st == .s) = true ∧
    (((shared none .s 1).dropMsg 9).dirGet ⟨0x4000, 32⟩).isSome = true ∧
    (((shared (some 1) .em 2).dropMsg 9).dirGet ⟨0x4000, 32⟩).map (fun e => (e.st, e.owner)) = some (.em, some 1) ∧
    ((shared (some 1) .em 2).dirGet ⟨0x4000, 32⟩).map (fun e => (diesOf e.dies).filter (fun h => h != 2 && some h != e.owner)) = some [] ∧
    ((shared none .s 8).dirGet ⟨0x4000, 32⟩).map (fun e => (diesOf e.dies).filter (fun h => h != 2 && some h != e.owner)) = some [3] := by decide +kernel
theorem wit_CoherenceEvents_migration : (ran.migrationOf 0 0 0x200000000).isSome = true ∧ ran.migrations = [] := by decide +kernel

/-- A pull of the page at 0x200000 is under way since time 0. -/
def pulling (t : Nat) : State :=
  ({ ran with time := t } : State).modDie 0 (fun d => { d with pulltab := 0x7001, pulls := [⟨0, 0, 0x200000, 4096, 1, 0, 0, 0, [], []⟩] })

theorem wit_CoherenceEvents_pull : (pulling 0).pullAt 0 = some (0, ⟨0, 0, 0x200000, 4096, 1, 0, 0, 0, [], []⟩) ∧
    ((pulling 0).pullWord 0 0 3).extractLsb' 4 4 = 0 ∧ (pulling 20000).time = 0 + 20000 ∧
    (let s := (pulling 20000).homeWrite 0x7018 [0x31]
     ((s.pullWord 0 0 3).extractLsb' 4 4).toNat = 3) := by decide +kernel


/-- A record that may be stolen, of level H in domain 0, with its handler at 0x4000. -/
def task0 : TaskRec := ⟨mkDw0 true true 0 false 0 0x4000, #v[0, 0, 0, 0, 0, 0], mkDw7 1 0 0 0, false⟩
/-- The task of slot 0 of core 0 parks until cycle 0; a record stands in the deque; a request of core 1 and an answer for core 0 are under way. -/
def busy : State :=
  let s := sender.modPart 0 0 (fun p => { p with deque := [⟨task0, false, false⟩], slice := .opened 1000 1000, egressWin := 5, egressUsed := 2 })
  { s with
    steals := [.ask 1 0 0, .answer 0 0 (some task0)]
    conts := [⟨7, 0, 0x22000, 0, .cycles 0, 0, 0, 0, false, false, false, 0, (sender.slot 0 0).task, [], none, 0⟩]
    watches := [⟨7, 0, 0x2000, .mem 0x2000 0 0, 1, some 0, (0, 0)⟩] }

theorem wit_SchedulingEvents_start : (busy.slot 0 1).status = .free ∧ (∀ j < (1 : SlotId), busy.wantsStart 0 j = false) ∧ busy.owedFor 0 1 = none ∧
    busy.pickEntry 0 1 = some 0 ∧ (busy.itemAfter 0 0).2.isSome = true ∧
    ((busy.modDie 0 (fun d => { d with owed := [⟨0, task0, 0, none, false⟩] })).owedFor 0 1).isSome = true := by decide +kernel
theorem wit_SchedulingEvents_steals : busy.steals[0]? = some (.ask 1 0 0) ∧ (busy.core 0).entryOf 0 = some 0 ∧
    (let p := ((busy.modPart 0 0 (fun p => { p with deque := [⟨task0, false, false⟩, ⟨task0, false, false⟩] })).core 0).part[(0 : PartId)]
     p.live.find? (fun x => x.tr.stl) = some ⟨task0, false, false⟩ ∧ p.live.length ≠ 1) ∧ busy.steals[1]? = some (.answer 0 0 (some task0)) ∧
    ((busy.dropSteal 1).takeStolen 0 0 task0).2 = true := by decide +kernel
theorem wit_SchedulingEvents_round : (let s := sender.modPart 0 0 (fun p => { p with slice := .opened 1000 1000 })
    (s.core 0).steal.asking = none ∧ (s.core 0).steal.wait ≤ s.cycle ∧ s.idle 0 = true ∧ s.stealEntry 0 = some 0) ∧ (sender.core 0).roundDue sender.cycle = true := by
  decide +kernel
theorem wit_SchedulingEvents_slices : (({ (busy.core 0).part[(0 : PartId)] with slice := .opened 0 1000 } : Part).closeDue busy.cycle = true) ∧
    (let p := { (busy.core 0).part[(0 : PartId)] with slice := .deferred 1000 }
     p.overrun = none ∧ p.freedAt + 1 ≤ ({ busy with cycle := 1 } : State).cycle ∧ p.freedAt + 1 < 1000 ∧
       ({ p with overrun := some 0 } : Part).closeDue 1000 = true ∧ ({ p with overrun := some 0 } : Part).openDeferred 1000 = none) ∧ (busy.core 0).part[(0 : PartId)].egressWin ≠ busy.windowNow ∧
    (busy.slot 0 0).status = .running ∧ (let s : State := { busy with cycle := 2000000 }
      (s.slot 0 0).task.budget < s.cycle - (s.slot 0 0).task.since) := by decide +kernel
theorem wit_SchedulingEvents_wakes : (busy.conts[0]?).all (fun c => decide (c.wake = .cycles 0) && decide (c.since + 0 ≤ busy.cycle) && !c.startable && !c.suspended) = true ∧
    (busy.conts[0]?).isSome = true ∧ (busy.watches[0]?).isSome = true ∧
    (busy.watches[0]?).all (fun w => decide (w.reread = some 0) && (match busy.conts.find? (fun c => c.id == w.cont) with
      | some c => (busy.watchedWord c.home w.dom w.va w.loc).2.isSome
      | none => false)) = true := by decide +kernel
/-- Entry 1 of core 1 is in DRAIN. -/
def draining : State := sender.modPart 1 1 (fun p => { p with a := 0xFFFFFFFFFFFFFF05, b := 0x8000000000000000 })
theorem wit_SchedulingEvents_drain : (draining.core 1).part[(1 : PartId)].state = 2 ∧ draining.tasksGone 1 (draining.core 1).part[(1 : PartId)].dom = true ∧
    draining.stealing 1 (draining.core 1).part[(1 : PartId)].dom = false ∧ draining.conts.isEmpty = true ∧ (draining.core 1).sendBuf = [] ∧
    (List.finRange 4).all (fun q : QueueId => (draining.core 1).queues[q].isEmpty) = true ∧
    (match sender.poolWrite 0 0 none true 64 with
    | .ok _ => true
    | _ => false) = true := by decide +kernel

/-- A committed message of core 0 is to leave for core 0; domain 0 takes it in; one is on its way, and one waits outside every share. -/
def posting : State :=
  let s := sender.modCore 0 (fun c => { c with
    sendBuf := [⟨0, 1, 0, .local_ 0, task0, true, 0, 0⟩, ⟨0, 1, 0, .peer 5 3, task0.withReplay 1, true, 0, 0⟩]
    outside := [⟨0, 0, 0, .vcore 0, task0, true, 0, 0⟩] })
  { s with transit := [⟨0, 0, task0, false⟩] }

/-- There is room for a message. -/
def roomYes (r : State × Room) : Bool :=
  match r.2 with
  | .yes => true
  | _ => false

theorem wit_MessageEvents : posting.mayLeave 0 0 ⟨0, 1, 0, .local_ 0, task0, true, 0, 0⟩ = true ∧ roomYes (posting.roomFor 0 task0) = true ∧
    (posting.core 0).outside[0]? = some ⟨0, 0, 0, .vcore 0, task0, true, 0, 0⟩ ∧ posting.mapTarget 0 0 = some (.local_ 0) ∧
    posting.transit[0]? = some ⟨0, 0, task0, false⟩ ∧ posting.mayPlace 0 task0 = true ∧ (posting.placeMessage 0 task0 false).2 = true := by decide +kernel
theorem wit_MessageEvents_peer : (let s := posting.modCore 0 (fun c => { c with sendBuf := [⟨0, 1, 0, .peer 5 3, task0, true, 0, 0⟩] })
    s.mayLeave 0 0 ⟨0, 1, 0, .peer 5 3, task0, true, 0, 0⟩ = true ∧ (s.core 0).sendBuf[0]? = some ⟨0, 1, 0, .peer 5 3, task0, true, 0, 0⟩) ∧
    (let n : NodeEntry := ⟨.peer, 0, [], 1, 0⟩
     n.cls = .peer ∧ n.mask.getLsbD (TaskRec.ofWords task0.words false).dom.toNat = true) ∧ finOf 768 0 = some (0 : CoreId) ∧
    (sender.mayPlace 0 (TaskRec.ofWords task0.words false)) = true ∧ (sender.placeMessage 0 (TaskRec.ofWords task0.words false) false).2 = true := by decide +kernel
/-- A tuple spills, a slot waits for a frame, and a notice and a task wait for the fault queue of domain 0. -/
def waiting : State :=
  let r := sender.noticeOf 0 7 0 0 0 0 0 0 0
  let s := (sender.setRank 0 ⟨0, false, 3, true, [], [], 1⟩).modSlot 0 1 (fun sl => { sl with status := .frameWait (.park .now none) 0 false, dom := 0 })
  (s.modSlot 0 2 (fun sl => { sl with status := .faultWait r .suspended 0 })).modDom 0 (fun x => { x with fqWait := [.notice r], fqRetry := 0 })

theorem wit_MessageEvents_waits : ((waiting.core 0).rank 0 false).spilling = true ∧ ((waiting.core 0).rank 0 false).retry ≤ waiting.cycle + 1 ∧
    ((({ waiting with cycle := 1 } : State).core 0).rank 0 false).retry ≤ 1 ∧ ((waiting.core 0).rank 0 false).retry ≠ 0 ∧
    (waiting.slot 0 1).status = .frameWait (.park .now none) 0 false ∧ (waiting.dom (waiting.slot 0 1).dom).fpFree ≠ 0 ∧
    (waiting.dom 0).fqFull = false ∧ (waiting.dom 0).fqRetry = 0 ∧ (waiting.fqPut 0 0 (sender.noticeOf 0 7 0 0 0 0 0 0 0)).2 = .put ∧
    (waiting.slot 0 2).status = .faultWait (sender.noticeOf 0 7 0 0 0 0 0 0 0) .suspended 0 := by decide +kernel
/-- A dead letter of domain 0 waits; its two pages stand at 0xC000. -/
def lettered : State := sender.modDom 0 (fun x => { x with deadq := 0xC002, dlWait := [⟨task0, sender.noticeOf 0 7 0 0 0 0 0 0 0, 0, none, none, none⟩] })
theorem wit_MessageEvents_dead : (lettered.deadWrite 0).isSome = true := by decide +kernel
theorem wit_MessageEvents_pod : ((sender.setBar (.pod 0) ⟨some 0, none, 2, 0, 0⟩).podBar[(0 : Fin 8)].owner).isSome = true := by decide +kernel

/-- A descriptor of one team of one task of domain 0, with its completion record at 0x3C00, all for die 0 (R26). -/
def desc0 : List Word := [0x4000, 1 + 2 ^ 32, 1 + 2 ^ 32, 1, 0x3C00, 0, 0, 0] ++ List.replicate 56 0
/-- It is the next packet of queue 0 of domain 0, and node 5 is the manager's. -/
def launching : State :=
  let s := (sender.setNode 5 ⟨.mgmt, 0, [], 0, 0⟩).modDom 0 (fun x => { x with lq := x.lq.set 0 ⟨true, false, 1, 0, [.desc desc0]⟩ })
  { s with fePtr := 767 }

theorem wit_LaunchEvents_doorbell : launching.dev.phase = 0x10 ∧ (launching.dom 0).vf.toNat = 0 ∧ mayWindow (launching.node 5) 0 = true ∧
    (launching.dom 0).lq[(0 : Fin 4)].en = true ∧ (launching.dom 0).lq[(0 : Fin 4)].packets.length < 64 ∧ desc0.length = 64 ∧ (launching.node 5).cls = .mgmt ∧
    (0x3000 : Word).extractLsb' 48 16 = 0 := by decide +kernel
theorem wit_LaunchEvents_acceptance : launching.dieLost 0 = false ∧ launching.sourceNext (.queue 0 0) = true ∧
    (match launching.takeDesc desc0 0 (launching.queueLevel 0 0) 0x3FF with
    | .yes .. => true
    | _ => false) = true := by decide +kernel
/-- A DISPATCH of the descriptor at 0x3000 stands at the front-end port of core 0. -/
def porting : State :=
  let s := (sender.modCore 0 (fun c => c.setQueue 3 [⟨0, ⟨0xC0 <<< 56, 0x3800, 0, 0⟩, 0, 0, 2, 1, 0, 0, none, 0, none, 1, 0, 0, [], [], .issued, 0, 0, 0, [], []⟩])).homeWrite 0x3800
    (wordsBytes desc0)
  { s with fePtr := 1791 }
theorem wit_LaunchEvents_port : porting.dieLost 0 = false ∧ porting.sourceNext (.port 0) = true ∧
    (match (porting.core 0).portHead with
    | some m => (match porting.engReadRun 0 3 m (m.tcw.w1.extractLsb' 0 48).toNat 8 512 with
      | (s1, .ok bs) => (match s1.takeDesc (bytesWords 64 bs) m.dom m.level (s1.ownNumber m.dom 0) with
        | .yes .. => true
        | _ => false)
      | _ => false)
    | none => false) = true := by decide +kernel
/-- The launch with its one team placed and ended, not yet retired; and retired. -/
def launched (retired : List (Nat × DieId)) : State :=
  let s := sender.modDie 0 (fun d => { d with deliveries := [⟨0, 1, task0, 0, none, false⟩] })
  { s with
    launches := [⟨1, desc0, 0, 1, retired, [(0, 1)], [(0, ⟨0, 1, none⟩)], 0x3FF, 0, 0, false, 0⟩]
    contribs := [⟨0, 0, 0, 0x2000, .mem 0x2000 0 0, 0, .f32, 2, 0, [0, 0, 0, 0], (0, 0), 0, false⟩]
    refused := [⟨0, 0, 0, 0x2000, .mem 0x2000 0 0, 0, .f32, 2, 0, [0, 0, 0, 0], (0, 0), 0, false⟩] }
theorem wit_LaunchEvents_teams : ((launched []).die 0).stopped = false ∧ ((launched []).die 0).deliveries[0]? = some ⟨0, 1, task0, 0, none, false⟩ ∧
    (((launched []).die 0).inTurn 0 ⟨0, 1, task0, 0, none, false⟩) = true ∧
    ((launched []).launches[0]?).all (fun l => decide (l.ranges.find? (fun x => x.2.has 0) = some (0, ⟨0, 1, none⟩)) && !l.hasRetired 0 &&
      decide (teamSize l.desc 0 ≤ l.endedOf 0) && (launched []).teamQuiet 0 l.lid 0) = true ∧ ((launched []).launches[0]?).isSome = true ∧
    (launched []).dieLost 0 = false := by decide +kernel
theorem wit_LaunchEvents_completion : ((launched [(0, 0)]).launches[0]?).all (fun l => decide (l.teams ≤ l.retired.length + (launched [(0, 0)]).lostTeams l) &&
      decide (l.remote = 0) && decide (descBmva l.desc = 0) &&
      ((launched [(0, 0)]).frontReady l.dom (((launched [(0, 0)]).recordWrites l).map (fun x => x.1))).2) = true ∧
    ((launched [(0, 0)]).launches[0]?).isSome = true := by decide +kernel
theorem wit_LaunchEvents_others : (List.finRange 6).all (fun h => ({ sender with edges := sender.edges &&& ~~~(1#7 <<< (0 : Fin 7).val) } : State).dieLost h == sender.dieLost h) = true ∧
    (let s := queued.modCmd 0 0 0 (fun m => { m with st := .done stOk 0 })
     ((s.core 0).cmdAt 0 (Fin.ofNat 32 0)).any (fun m => decide (m.st = .done stOk 0) && decide (m.tcw.hdr.cscope ≠ 3)) = true) ∧
    ((launched []).contribs[0]?).any (fun c => !(launched []).contribBehind c && !c.stale) = true ∧
    ((launched []).refused[0]?).any (fun c => decide (c.retry ≤ (launched []).cycle)) = true := by decide +kernel

theorem wit_ControlEvents : (let s := sender.modCore 0 (fun c => { c with l1ctl := 1 })
    (s.core 0).l1ctl.getLsbD 0 = true) ∧ ((sender.modDie 0 (fun d => { d with forceBusy := true })).die 0).forceBusy = true ∧
    eventCode ((1 : Word).extractLsb' 0 16).toNat = true ∧ 0x2000 < memEnd ∧ 0x2000 + 8 ≤ memEnd ∧ reaches (launching.node 5) 0x2000 8 = true ∧
    launching.poisonedAt 0x2000 8 = false ∧ isFabric 0x8000000000000 = true ∧ sender.hostGrain 0x8000000000000 = none ∧ sender.dev.warmFail ≠ 3 ∧
    ((List.finRange 6).foldl (fun (s : State) d => s.modDie d (fun x => { x with stopped := true })) sender).isFlushed = true ∧ (sender.modDie 0 (fun d => { d with stopped := true, forced := true })).gateReady 0 = true ∧
    (0 : BitVec 7).toNat = (0 : Fin 96).val ∧ 0 < planOf [(3, 1)] 3 := by decide +kernel
/-- A start at a step of it. -/
def starts (k : Byte) (x : Starting) : State := { State.reset with dev := { State.reset.dev with phase := k }, starting := some x }
theorem wit_ControlEvents_starts : (starts 2 ⟨true, ⟨false, false, false, some 2⟩⟩).startStep.dev.phase = 0xFF ∧
    (starts 5 ⟨false, ⟨true, true, true, none⟩⟩).startStep.dev.phase = 7 ∧ (starts 5 ⟨true, ⟨false, false, false, none⟩⟩).startStep.dev.phase = 6 ∧
    (starts 7 ⟨false, ⟨true, true, true, none⟩⟩).startStep.dev.phase = 0x10 ∧ (starts 6 ⟨true, ⟨false, false, false, none⟩⟩).startStep.dev.phase = 7 ∧
    (List.range 9).all (fun j => !decide (7 < j) || Starting.skips ⟨false, ⟨true, true, true, none⟩⟩ j) = true := by decide +kernel
theorem wit_ControlEvents_tag : L1Entry.run ⟨2, 0, [0, 0], .ownedDirty, 0, 0, 0, 0, []⟩ = ⟨0x2000, 2⟩ ∧ (⟨0x2000, 2⟩ : Run).meets ⟨0x2001 / 32 * 32, 32⟩ = true := by decide
theorem wit_StoresReadBack : memoriesOk (State.reset.homeWrite 0x2000 [1, 2, 3]) :=
  homeWrite_memoriesOk _ _ _ ⟨by decide +kernel, by decide +kernel, fun g => by simp [State.reset, State.core, Core.reset, Memory.wf, cellsFrom]⟩
theorem wit_PcStaysAligned : (ranX.slot 0 0).pc.toNat % 8 = 0 ∧ (regTarget (ranX.slot 0 0) ⟨.none, .x 6, false, 0, 0⟩).toNat % 8 = 0 := by decide +kernel

/-! ## Results worked out by hand, most of them the spec's own worked examples -/

/-- The conversion of an f32 pattern with scale exponent e. -/
def enc (f : Byte) (mode : RMode) (sat : Bool) (e : Int) (x : Word) : Nat × BitVec 5 × Nat := (Narrow.ofByte f).encode mode sat e (decodeStd .f32 x)

-- the table of worked conversions after R117: 3.3, 62.0 (three times), 61.97 and 58.0; FFLAGS is NX 1, UF 2, OF 4, DZ 8, NV 16 (R96)
theorem test_conversions : enc 0x20 .rne false 0 0x40533333 = (0x4D, 1, 0) ∧ enc 0x20 .rne false (-2) 0x42780000 = (0x80, 5, 0) ∧
    enc 0x20 .rne true (-2) 0x42780000 = (0x7F, 5, 0) ∧ enc 0x20 .rtz false (-2) 0x42780000 = (0x7F, 1, 0) ∧
    enc 0x20 .rne false (-2) 0x4277E148 = (0x7F, 1, 0) ∧ enc 0x22 .rne false (-2) 0x42680000 = (0x7F, 5, 0) := by decide +kernel
-- 0.05, -0.01, a NaN and -1.5 of the same table
theorem test_conversions_small : enc 0x58 .rne false 0 0x3D4CCCCD = (0x02, 3, 0) ∧ enc 0x59 .rne false 0 0xBC23D70A = (0x20, 3, 0) ∧
    enc 0x91 .rne false 7 0x7FC00000 = (0, 16, 1) ∧ enc 0x24 .rne false 0 0xBFC00000 = (0xFF, 16, 0) := by decide +kernel

/-- v7 holds 0.6, -1.3, a quiet NaN and 5.0 in f32 (the conversion worked at the end of the vector file). -/
def v7 : Slot := (ranX.slot 0 0).wrV (.v 7) 0x40A000007FC00000BFA666663F19999A
theorem test_vcvtq : (match tidOf [0x7000, 0x1090, 0x2000000001, 0x80FF00000010, 0, 0, 0, 0] with
    | some t => (match t.fmt with
      | .narrow n =>
        let r := vcvtqSlot ⟨.v 12, .v 7, .none, .none, false, 0, .f32, .rne, false, 6⟩ v7 t n
        r.1.readV 12 == 0x88F4 && r.1.fflags == 5 && r.2.1 == 0x40A00000 && r.2.2 == 1
      | _ => false)
    | none => false) = true := by decide +kernel
-- MMA: an accumulator of 1.0 and products 2^25, 1 and -2^25 give 2.0 (block summation, R123); merging slices of 2^24 and 1.0 into 1.0 in order (R271)
theorem test_mma_element : mmaElem false 0x3F800000 (fun k => decodeStd .bf16 (if k = 0 then 0x4600 else if k = 1 then 0x3F80 else if k = 2 then 0x4600 else 0))
    (fun k => decodeStd .bf16 (if k = 0 then 0x4580 else if k = 1 then 0x3F80 else if k = 2 then 0xC580 else 0)) = 0x40000000 := by decide +kernel
theorem test_ordered_sum : (addStd .f32 .rne false (addStd .f32 .rne false 0x3F800000 0x4B800000).1 0x3F800000).1 = 0x4B800000 ∧
    (addStd .f32 .rne false (addStd .f32 .rne false 0x3F800000 0x3F800000).1 0x4B800000).1 = 0x4B800001 := by decide +kernel
-- the home of PA 0x0000_0040_0012_3600 is slice 1 of D1 (R181)
theorem test_home : dieOf 0x4000123600 = 1 ∧ homeSlice 0x4000123600 = 1 := by decide +kernel
-- the level-1 leaf of the example after R191: PA 0x0000_0040_0012_0000, R, W, U, A and D, MT 00, GRAIN 01
theorem test_leaf : pteAddr 0x0000800024002237 = 0x4000120000 ∧ pteMt 0x0000800024002237 = 0 ∧ pteGrain 0x0000800024002237 = 1 ∧ ptePointer 0x0000800024002237 = false ∧
    permOk 0x0000800024002237 .both true = true ∧ permOk 0x0000800024002237 .fetch true = false := by decide +kernel
-- dw0 of the fault record worked out in the traps file: PAGE, class 1, level U, slot 5, virtual core 9, domain 3
theorem test_fault_dw0 : faultDw0 TrapCode.page.num TrapCode.page.cls 0 5 9 3 0 = 0x0545024003000000 := by decide +kernel
-- the gate call worked out after R298: k5, k6 and k7 of the callee, and the reply's k7
theorem test_gate_record : mkDw7 4 4 (BitVec.ofNat 16 (2 * 256 + 3)) 0 >>> 32 = 0x10040203 ∧ mkDw7 3 9 (BitVec.ofNat 16 (2 * 256 + 7)) 0 >>> 32 = 0x0C090207 := by
  decide +kernel

/-- The value that a step leaves in a register, its FFLAGS and its PC. -/
def seen (e : Instr) (s : State) (r : BitVec 5) : Option (Word × BitVec 5 × VA) :=
  match exec e s with
  | .next t => some ((t.slot 0 0).readX r, (t.slot 0 0).fflags, (t.slot 0 0).pc)
  | _ => none

/-- ADD and its like of x9, the most negative number, and x10, minus one. -/
def opF (ty : Ty) (sat : Bool) : FmtR := ⟨.x 1, .x 9, .x 10, .none, false, 0, ty, .rne, sat, 0⟩

-- wrapping, clamping at the most negative number, and the carry-free difference (R129)
theorem test_add : (seen (.add (opF .n64 false)) ranX 1).map (fun x => x.1) = some 0x7FFFFFFFFFFFFFFF ∧
    (seen (.add (opF .s64 true)) ranX 1).map (fun x => x.1) = some 0x8000000000000000 ∧ (seen (.sub (opF .n64 false)) ranX 1).map (fun x => x.1) = some 0x8000000000000001 := by
  decide +kernel
-- quotient and remainder of the most negative number by minus one, and by zero (R129)
theorem test_div : (seen (.div (opF .s64 false)) ranX 1).map (fun x => x.1) = some 0x8000000000000000 ∧ (seen (.rem (opF .s64 false)) ranX 1).map (fun x => x.1) = some 0 ∧
    (seen (.div { opF .n64 false with sb := .x 0 }) ranX 1).map (fun x => x.1) = some 0xFFFFFFFFFFFFFFFF ∧
    (seen (.rem { opF .n64 false with sb := .x 0 }) ranX 1).map (fun x => x.1) = some 0x8000000000000000 := by decide +kernel
-- x0 discards what is written, and the PC moves on (R73)
theorem test_x0 : (seen (.add { opF .n64 false with dst := .x 0 }) ranX 0).map (fun x => x.1) = some 0 ∧
    (seen (.add { opF .n64 false with dst := .x 0 }) ranX 0).map (fun x => x.2.2) = some ((ranX.slot 0 0).pc + 8) := by decide +kernel
-- 1.0 / 3.0 in f32 is 0x3EAA_AAAB and inexact; 1.0 / 0 is infinite with DZ (R111, R120)
theorem test_fdiv : (let s := State.withX ranX [(1, 0x3F800000), (2, 0x40400000)]
    (seen (.fdiv ⟨.x 3, .x 1, .x 2, .none, false, 0, .f32, .rne, false, 0⟩) s 3).map (fun x => (x.1, x.2.1)) = some (0x3EAAAAAB, 1) ∧
    (seen (.fdiv ⟨.x 3, .x 1, .x 0, .none, false, 0, .f32, .rne, false, 0⟩) s 3).map (fun x => (x.1, x.2.1)) = some (0x7F800000, 8)) := by decide +kernel
-- BEQ x0, #0 is taken four words on from itself, BNE is not ; LOOP counts x7 down and goes back (R128)
theorem test_branches : (seen (.beq ⟨.x 0, .lit 0, false, 0, 4⟩) ranX 0).map (fun x => x.2.2) = some ((ranX.slot 0 0).pc + 32) ∧
    (seen (.bne ⟨.x 0, .lit 0, false, 0, 4⟩) ranX 0).map (fun x => x.2.2) = some ((ranX.slot 0 0).pc + 8) ∧
    (seen (.loop ⟨.x 7, .none, false, 0, 0xFFFFFFFB⟩) ranX 7).map (fun x => (x.1, x.2.2)) = some (2, (ranX.slot 0 0).pc - 40) := by decide +kernel
-- the scatter of the example after R249, into scratch at x5: 1.0 and 2^24 at offset 0, 2.0 at 4, 0.5 at 8
theorem test_vamofadd : (let s := ranX.modSlot 0 0 (fun sl => ((sl.wrV (.v 3) 0x3F0000004B800000400000003F800000).wrV (.v 4) 0x00000008000000000000000400000000).writeP 1 0xF)
    (match exec (.vamofadd ⟨.v 3, .x 5, .v 4, false, 1, .plain, .slot, 2, 3, 0⟩) s with
    | .next t => bytesWords 2 ((t.core 0).scratchRead 0 16) == [0x400000004B800000, 0x3F000000]
    | _ => false) = true) := by decide +kernel
-- a store and a load of scratch: the lowest byte lies at the lowest address (R163)
theorem test_scratch : (let s := State.withX ranX [(1, 0x1122334455667788)]
    (match exec (.st ⟨.x 1, .x 5, .none, false, 0, .plain, .slot, 3, 0, 8⟩) s with
    | .next t => (t.core 0).scratchRead 8 2 == [0x88, 0x77] &&
        (match exec (.ld ⟨.x 2, .x 5, .none, false, 0, .plain, .slot, 1, 0, 8⟩) t with
        | .next u => (u.slot 0 0).readX 2 == 0x7788
        | _ => false)
    | _ => false) = true) := by decide +kernel

end Sys2Proof.Tests
end

section
/-! PROOFS. The choice of a pipe (R66): the class, the entry by deficit and WEIGHT, and the slot within it. -/

namespace Sys2Proof.Machine

/-- A vector read at a `Fin` index after a write at another. -/
theorem vector_set_fin {α : Type} {n : Nat} (v : Vector α n) (i j : Fin n) (x : α) : (v.set i x)[j] = if j = i then x else v[j] := by
  by_cases h : j = i
  · subst h; simp
  · have : i.val ≠ j.val := fun e => h (Fin.ext e.symm)
    simp [h, this]

/-! ## The slot within an entry -/

/-- The place of a slot in the order that starts after another is how far it lies behind that one. -/
theorem slot_after_eq_iff (l i : SlotId) (k : Nat) (h : k < 16) : l + 1 + Fin.ofNat 16 k = i ↔ k = (i - (l + 1)).val := by
  revert l i
  interval_cases k <;> decide

/-- The slot chosen is ready, and no ready one comes sooner after the last that issued. -/
theorem pipe_slot_spec {p : Pipe} {c : Fin 3} {e : PartId} {ready : SlotId → Bool} {i : SlotId} (h : p.slot c e ready = some i) :
    ready i = true ∧ ∀ j, ready j = true → (i - (p.last[c][e] + 1)).val ≤ (j - (p.last[c][e] + 1)).val := by
  rw [Pipe.slot, List.find?_map, Option.map_eq_some_iff] at h
  obtain ⟨k, hk, hi⟩ := h
  obtain ⟨hr, hk, hmin⟩ := List.find?_range_eq_some.mp hk
  have hk := (slot_after_eq_iff _ i k (List.mem_range.mp hk)).mp hi
  refine ⟨hi ▸ hr, fun j hj => ?_⟩
  by_contra hlt
  have := hmin _ (hk ▸ Nat.lt_of_not_le hlt)
  rw [Function.comp, (slot_after_eq_iff _ j _ (Fin.isLt _)).mpr rfl, hj] at this
  contradiction

/-- Where a slot of the entry is ready, one is chosen. -/
theorem pipe_slot_of_ready (p : Pipe) (c : Fin 3) (e : PartId) {ready : SlotId → Bool} {i : SlotId} (h : ready i = true) :
    ∃ j, p.slot c e ready = some j := by
  rw [← Option.isSome_iff_exists, Pipe.slot, List.find?_isSome]
  refine ⟨i, List.mem_map.mpr ⟨(i - (p.last[c][e] + 1)).val, List.mem_range.mpr (Fin.isLt _), ?_⟩, h⟩
  exact (slot_after_eq_iff _ i _ (Fin.isLt _)).mpr rfl

/-! ## The entry of a class -/

/-- The entry at a pipe's position in a class. -/
def Pipe.entry (p : Pipe) (c : Fin 3) : PartId := p.pos[c]

/-- The deficit of an entry in a class. -/
def Pipe.credit (p : Pipe) (c : Fin 3) (x : PartId) : Nat := p.deficit[c][x]

variable {c : Fin 3} {ready : PartId → Bool} {weight : PartId → Nat}

/-- The entry at the position issues: it is ready and has deficit left. -/
def Pipe.stays (p : Pipe) (c : Fin 3) (ready : PartId → Bool) : Bool := ready (p.entry c) && p.credit c (p.entry c) ≠ 0

/-- The pipe whose position has moved on by one entry. -/
def Pipe.pass (p : Pipe) (c : Fin 3) (ready : PartId → Bool) (weight : PartId → Nat) : Pipe :=
  let e := p.entry c
  let f : PartId := e + 1
  let d := p.deficit[c].set e (if ready e then p.credit c e else 0)
  { p with deficit := p.deficit.set c (d.set f (if ready f then d[f] + weight f + 1 else 0)), pos := p.pos.set c f }

/-- An issue of the entry at the position takes one from its deficit. -/
def Pipe.pay (p : Pipe) (c : Fin 3) : Pipe :=
  { p with deficit := p.deficit.set c (p.deficit[c].set (p.entry c) (p.credit c (p.entry c) - 1)) }

theorem seek_stays {p : Pipe} (n : Nat) (h : p.stays c ready = true) : p.seek c ready weight (n + 1) = some (p.pay c, p.entry c) := by
  rw [Pipe.seek]; exact if_pos h

theorem seek_passes {p : Pipe} (n : Nat) (h : p.stays c ready = false) :
    p.seek c ready weight (n + 1) = (p.pass c ready weight).seek c ready weight n := by
  rw [Pipe.seek]; exact if_neg (Bool.not_eq_true _ ▸ h)

@[simp] theorem pass_entry (p : Pipe) : (p.pass c ready weight).entry c = p.entry c + 1 := by simp [Pipe.pass, Pipe.entry]
@[simp] theorem pay_entry (p : Pipe) : (p.pay c).entry c = p.entry c := rfl

@[simp] theorem pay_credit (p : Pipe) (x : PartId) : (p.pay c).credit c x = if x = p.entry c then p.credit c x - 1 else p.credit c x := by
  simp only [Pipe.pay, Pipe.credit, vector_set_fin, if_true]
  by_cases h : x = p.entry c
  · rw [if_pos h, if_pos h, h]
  · rw [if_neg h, if_neg h]

theorem entry_next_ne (a : PartId) : a + 1 ≠ a := by revert a; decide

/-- Moving on from an entry that does not issue: the next one gains WEIGHT + 1 if it is ready and loses all else, the one left has nothing,
the others keep theirs. -/
theorem pass_credit {p : Pipe} (h : p.stays c ready = false) (x : PartId) : (p.pass c ready weight).credit c x =
    if x = p.entry c + 1 then (if ready x then p.credit c x + weight x + 1 else 0) else if x = p.entry c then 0 else p.credit c x := by
  have left : (if ready (p.entry c) then p.credit c (p.entry c) else 0) = 0 := by
    split
    · next r => simpa [Pipe.stays, r] using h
    · rfl
  simp only [Pipe.pass, left]
  simp only [Pipe.credit, vector_set_fin, entry_next_ne, if_true, if_false]
  by_cases h1 : x = p.entry c + 1
  · rw [h1, if_pos rfl]
  · rw [if_neg h1, if_neg h1]

/-- What a search that leaves the entry at the position comes to: the next ready entry `e` and the pipe `q`. -/
structure Pipe.MovesTo (p : Pipe) (c : Fin 3) (ready : PartId → Bool) (weight : PartId → Nat) (q : Pipe) (e : PartId) : Prop where
  isReady : ready e = true
  entry : q.entry c = e
  last : q.last = p.last
  next : ∀ f, ready f = true → (e - (p.entry c + 1)).val ≤ (f - (p.entry c + 1)).val
  gain : q.credit c e = (if e = p.entry c then 0 else p.credit c e) + weight e
  rest : ∀ x, x ≠ e → q.credit c x = if (x - (p.entry c + 1)).val < (e - (p.entry c + 1)).val ∨ x = p.entry c then 0 else p.credit c x

/-- An entry other than the next is one nearer once the position has moved on. -/
theorem entry_nearer (a f : PartId) (h : f ≠ a + 1) : (f - (a + 1)).val = (f - (a + 1 + 1)).val + 1 := by revert a f; decide

/-- The next entry is ready: it issues. -/
theorem movesTo_next {p : Pipe} (h : p.stays c ready = false) (r : ready (p.entry c + 1) = true) :
    p.MovesTo c ready weight ((p.pass c ready weight).pay c) (p.entry c + 1) := by
  have apart := entry_next_ne (p.entry c)
  refine ⟨r, by simp, rfl, fun f _ => ?_, ?_, fun x hx => ?_⟩
  · simp
  · simp [pass_credit h, r, apart]
  · simp [pass_credit h, hx]

/-- The next entry is not ready: the search goes on from it. -/
theorem movesTo_step {p q : Pipe} {e : PartId} (h : p.stays c ready = false) (r : ready (p.entry c + 1) = false)
    (m : (p.pass c ready weight).MovesTo c ready weight q e) : p.MovesTo c ready weight q e := by
  obtain ⟨hr, hpos, hlast, hnext, hgain, hrest⟩ := m
  rw [pass_entry] at hnext hgain hrest
  have ne : ∀ {f}, ready f = true → f ≠ p.entry c + 1 := fun hf e => by rw [e, r] at hf; contradiction
  refine ⟨hr, hpos, hlast, fun f hf => ?_, ?_, fun x hx => ?_⟩
  · have := hnext f hf
    rw [entry_nearer _ e (ne hr), entry_nearer _ f (ne hf)]; omega
  · simpa [ne hr, pass_credit h] using hgain
  · rw [hrest x hx, entry_nearer _ e (ne hr), pass_credit h]
    by_cases h1 : x = p.entry c + 1
    · simp [h1]
    · rw [entry_nearer _ x h1]
      by_cases h2 : x = p.entry c <;> simp [h1, h2]

/-- A search that does not stay at the position finds the next ready entry, where the fuel reaches one. -/
theorem seek_movesTo : ∀ (n : Nat) (p : Pipe), p.stays c ready = false → (∃ f, ready f = true ∧ (f - (p.entry c + 1)).val < n) →
    ∃ q e, p.seek c ready weight (n + 1) = some (q, e) ∧ p.MovesTo c ready weight q e
  | 0, _, _, ⟨_, _, hf⟩ => absurd hf (Nat.not_lt_zero _)
  | n + 1, p, h, ⟨f, hf, hn⟩ => by
    rw [seek_passes _ h]
    by_cases r : ready (p.entry c + 1) = true
    · have s : (p.pass c ready weight).stays c ready = true := by simp [Pipe.stays, pass_credit h, r]
      rw [seek_stays _ s, pass_entry]
      exact ⟨_, _, rfl, movesTo_next h r⟩
    · have r : ready (p.entry c + 1) = false := by simpa using r
      have s : (p.pass c ready weight).stays c ready = false := by simp [Pipe.stays, r]
      have ne : f ≠ p.entry c + 1 := fun e => by rw [e, r] at hf; contradiction
      have nearer := entry_nearer _ f ne
      obtain ⟨q, e, hq, m⟩ := seek_movesTo n _ s ⟨f, hf, by rw [pass_entry]; omega⟩
      exact ⟨q, e, hq, movesTo_step h r m⟩

/-! ## The class, and the choice -/

/-- The first class that has a ready slot: no ready slot is of a higher one. -/
theorem class_found {ready : List SlotId} {rank : SlotId → Fin 3} {k : Fin 3}
    (h : (List.finRange 3).find? (fun k => ready.any (fun i => rank i == k)) = some k) :
    (∃ i ∈ ready, rank i = k) ∧ ∀ j ∈ ready, k ≤ rank j := by
  obtain ⟨hk, n, hn, rfl, hmin⟩ := List.find?_eq_some_iff_getElem.mp h
  refine ⟨by simpa using hk, fun j hj => ?_⟩
  by_contra hlt
  have hlt : (rank j).val < n := by simpa [Fin.lt_def] using Fin.not_le.mp hlt
  have := hmin _ hlt
  simp at this
  exact this j hj rfl

theorem class_of_ready {ready : List SlotId} (rank : SlotId → Fin 3) (h : ready ≠ []) :
    ∃ k, (List.finRange 3).find? (fun k => ready.any (fun i => rank i == k)) = some k := by
  obtain ⟨i, hi⟩ := List.exists_mem_of_ne_nil _ h
  rw [← Option.isSome_iff_exists, List.find?_isSome]
  exact ⟨rank i, List.mem_finRange _, List.any_eq_true.mpr ⟨i, hi, by simp⟩⟩

/-- A slot is ready, of a class and of an entry. -/
def State.readyOf (s : State) (g : CoreId) (ready : List SlotId) (k : Fin 3) (e : PartId) (i : SlotId) : Bool :=
  ready.contains i && prioRank (s.slot g i).task.tr == k && (s.core g).entryOf (s.slot g i).dom == some e

theorem readyOf_iff {s : State} {g : CoreId} {ready : List SlotId} {k : Fin 3} {e : PartId} {i : SlotId} : s.readyOf g ready k e i = true ↔
    i ∈ ready ∧ prioRank (s.slot g i).task.tr = k ∧ (s.core g).entryOf (s.slot g i).dom = some e := by
  simp [State.readyOf, and_assoc]

/-- An entry is ready in a class: a slot of it is. -/
def State.entryReady (s : State) (g : CoreId) (ready : List SlotId) (k : Fin 3) (e : PartId) : Bool := ready.any (s.readyOf g ready k e)

theorem entryReady_iff {s : State} {g : CoreId} {ready : List SlotId} {k : Fin 3} {e : PartId} :
    s.entryReady g ready k e = true ↔ ∃ i, s.readyOf g ready k e i = true := by
  simp only [State.entryReady, List.any_eq_true]
  exact ⟨fun ⟨i, _, h⟩ => ⟨i, h⟩, fun ⟨i, h⟩ => ⟨i, (readyOf_iff.mp h).1, h⟩⟩

/-- The entry at the position issues where it has a ready slot and deficit left. -/
theorem stays_iff {s : State} {g : CoreId} {ready : List SlotId} {k : Fin 3} {p : Pipe} : p.stays k (s.entryReady g ready k) = true ↔
    (∃ j, s.readyOf g ready k (p.entry k) j = true) ∧ p.credit k (p.entry k) ≠ 0 := by
  rw [Pipe.stays, Bool.and_eq_true, decide_eq_true_eq, entryReady_iff]

/-- A search found an entry: it stays at the position, or moves on. -/
def Pipe.Finds (p : Pipe) (c : Fin 3) (ready : PartId → Bool) (weight : PartId → Nat) (q : Pipe) (e : PartId) : Prop :=
  (p.stays c ready = true ∧ q = p.pay c ∧ e = p.entry c) ∨ (p.stays c ready = false ∧ p.MovesTo c ready weight q e)

theorem finds_ready {p q : Pipe} {e : PartId} (h : p.Finds c ready weight q e) : ready e = true := by
  rcases h with ⟨h, _, rfl⟩ | ⟨_, m⟩
  · exact (Bool.and_eq_true_iff.mp h).1
  · exact m.isReady

theorem finds_entry {p q : Pipe} {e : PartId} (h : p.Finds c ready weight q e) : q.entry c = e := by
  rcases h with ⟨_, rfl, rfl⟩ | ⟨_, m⟩
  · rfl
  · exact m.entry

theorem finds_last {p q : Pipe} {e : PartId} (h : p.Finds c ready weight q e) : q.last = p.last := by
  rcases h with ⟨_, rfl, _⟩ | ⟨_, m⟩
  · rfl
  · exact m.last

/-- Where the entry at the position issues, it pays one. -/
theorem finds_stays {p q : Pipe} {e : PartId} (h : p.Finds c ready weight q e) (st : p.stays c ready = true) :
    e = p.entry c ∧ q.credit c e + 1 = p.credit c e := by
  rcases h with ⟨_, rfl, rfl⟩ | ⟨h, _⟩
  · have : p.credit c (p.entry c) ≠ 0 := by simpa using (Bool.and_eq_true_iff.mp st).2
    refine ⟨rfl, ?_⟩
    rw [pay_credit, if_pos rfl]; omega
  · rw [st] at h; contradiction

/-- Where the entry at the position does not issue, the next ready one does. -/
theorem finds_moves {p q : Pipe} {e : PartId} (h : p.Finds c ready weight q e) (st : p.stays c ready = false) :
    p.MovesTo c ready weight q e := by
  rcases h with ⟨h, _⟩ | ⟨_, m⟩
  · rw [st] at h; contradiction
  · exact m

/-- Where an entry is ready, one is found. -/
theorem seek_of_ready (p : Pipe) {f : PartId} (hf : ready f = true) : ∃ q e, p.seek c ready weight 8 = some (q, e) ∧ p.Finds c ready weight q e := by
  by_cases h : p.stays c ready = true
  · exact ⟨_, _, seek_stays 7 h, .inl ⟨h, rfl, rfl⟩⟩
  · have h : p.stays c ready = false := by simpa using h
    obtain ⟨q, e, hq, m⟩ := seek_movesTo (weight := weight) 7 p h ⟨f, hf, by omega⟩
    exact ⟨q, e, hq, .inr ⟨h, m⟩⟩

/-- What a pipe with a ready slot chooses: the highest class that has one, the entry that the search finds, and a slot of both. -/
theorem pipeChoice_of_ready {s : State} {g : CoreId} (p : Fin 2) {ready : List SlotId} (ne : ready ≠ [])
    (admitted : ∀ i ∈ ready, ((s.core g).entryOf (s.slot g i).dom).isSome = true) :
    ∃ k q e i, (∀ j ∈ ready, k ≤ prioRank (s.slot g j).task.tr) ∧
      (s.core g).pipes[p].Finds k (s.entryReady g ready k) (fun e => (s.core g).part[e].weight) q e ∧
      q.slot k e (s.readyOf g ready k e) = some i ∧ s.pipeChoice g p ready = some (q.noteLast k e i, i) := by
  obtain ⟨k, hk⟩ := class_of_ready (fun i => prioRank (s.slot g i).task.tr) ne
  obtain ⟨⟨j, hj, hjk⟩, hmin⟩ := class_found hk
  obtain ⟨f, hf⟩ := Option.isSome_iff_exists.mp (admitted j hj)
  have hready : s.entryReady g ready k f = true := entryReady_iff.mpr ⟨j, readyOf_iff.mpr ⟨hj, hjk, hf⟩⟩
  obtain ⟨q, e, seek, found⟩ := seek_of_ready (c := k) (weight := fun e => (s.core g).part[e].weight) (s.core g).pipes[p] hready
  obtain ⟨i0, hi0⟩ := entryReady_iff.mp (finds_ready found)
  obtain ⟨i, slot⟩ := pipe_slot_of_ready q k e hi0
  refine ⟨k, q, e, i, hmin, found, slot, ?_⟩
  unfold State.entryReady State.readyOf at seek
  unfold State.readyOf at slot
  simp only [State.pipeChoice, hk, seek, slot, Option.map_some]

theorem pipeChoice_nil (s : State) (g : CoreId) (p : Fin 2) : s.pipeChoice g p [] = none := rfl

theorem noteLast_last (p : Pipe) (c : Fin 3) (e : PartId) (i : SlotId) : (p.noteLast c e i).last[c][e] = i := by
  simp only [Pipe.noteLast, vector_set_fin, if_true]

end Sys2Proof.Machine

open Sys2Proof Sys2Proof.Machine

/-- Settles O5: the search of the class's entries by `seek_of_ready`, the slot by `pipe_slot_spec`. -/
theorem pipeSelection : Obligations.PipeSelection := by
  intro s g p ready c class_ admitted
  refine ⟨fun ne => ?_, fun q i chosen => ?_⟩
  · obtain ⟨k, q, e, i, _, _, _, h⟩ := pipeChoice_of_ready p ne admitted
    exact ⟨_, _, h⟩
  have ne : ready ≠ [] := by rintro rfl; rw [pipeChoice_nil] at chosen; contradiction
  obtain ⟨k, q0, e0, i0, hmin, found, hslot, h⟩ := pipeChoice_of_ready p ne admitted
  obtain ⟨rfl, rfl⟩ := Prod.mk.inj (Option.some.inj (chosen.symm.trans h))
  obtain ⟨hready, hfirst⟩ := pipe_slot_spec hslot
  obtain ⟨hmem, rfl, hentry⟩ := readyOf_iff.mp hready
  refine ⟨hmem, hmin, fun e he => ?_⟩
  obtain rfl : e0 = e := Option.some.inj (hentry.symm.trans he)
  have position := finds_entry found
  refine ⟨position, noteLast_last .., fun ⟨j, hj⟩ d => ?_, fun stuck => ?_, fun j hj => ?_⟩
  · have paid := finds_stays found (stays_iff.mpr ⟨⟨j, readyOf_iff.mpr hj⟩, d⟩)
    exact paid
  · have leaves : (s.core g).pipes[p].stays (class_ i) (s.entryReady g ready (class_ i)) = false := by
      refine Bool.eq_false_iff.mpr fun st => ?_
      obtain ⟨⟨j, hj⟩, d⟩ := stays_iff.mp st
      exact stuck.elim (fun h => h j (readyOf_iff.mp hj)) d
    obtain ⟨_, _, _, next, gain, rest⟩ := finds_moves found leaves
    refine ⟨by rw [← Nat.add_assoc]; exact congrArg (· + 1) gain, fun f j hj => ?_, fun f hf => ?_, fun idle => ?_⟩
    · exact next f (entryReady_iff.mpr ⟨j, readyOf_iff.mpr hj⟩)
    · exact (rest f (by rintro rfl; exact Nat.lt_irrefl _ hf)).trans (if_pos (.inl hf))
    · refine (rest _ ?_).trans (if_pos (.inr rfl))
      rintro rfl
      exact idle i (readyOf_iff.mp hready)
  · rw [finds_last found] at hfirst
    exact hfirst j (readyOf_iff.mpr hj)
end

section
/-! PROOFS. The conversions of vectors and the packing of narrow codes (R34, R152, R153). -/

namespace Sys2Proof.Machine

/-! ## Fields side by side -/

/-- A number made of n fields of b bits has b * n bits. -/
theorem packFields_lt (b : Nat) (f : Nat → Nat) : ∀ n, packFields b f n < 2 ^ (b * n)
  | 0 => by simp [packFields]
  | n + 1 => by
    have low := packFields_lt b f n
    have top : f n % 2 ^ b + 1 ≤ 2 ^ b := Nat.mod_lt _ (Nat.two_pow_pos b)
    calc packFields b f n + f n % 2 ^ b * 2 ^ (b * n) < (f n % 2 ^ b + 1) * 2 ^ (b * n) := by rw [Nat.add_mul]; omega
      _ ≤ 2 ^ b * 2 ^ (b * n) := Nat.mul_le_mul_right _ top
      _ = 2 ^ (b * (n + 1)) := by rw [← Nat.pow_add, Nat.mul_succ, Nat.add_comm]

theorem packFields_mod (b : Nat) (f : Nat → Nat) {n w : Nat} (h : b * n ≤ w) : packFields b f n % 2 ^ w = packFields b f n :=
  Nat.mod_eq_of_lt (Nat.lt_of_lt_of_le (packFields_lt b f n) (Nat.pow_le_pow_right Nat.zero_lt_two h))

/-- Field j of a number made of fields, reduced to its bits. -/
theorem packFields_field (b : Nat) (f : Nat → Nat) (j : Nat) : ∀ n, j < n → packFields b f n / 2 ^ (b * j) % 2 ^ b = f j % 2 ^ b
  | n + 1, h => by
    have pos := Nat.two_pow_pos (b * j)
    rcases Nat.lt_succ_iff_lt_or_eq.mp h with h | rfl
    · obtain ⟨d, rfl⟩ : ∃ d, n = j + 1 + d := ⟨n - (j + 1), by omega⟩
      have shift : f (j + 1 + d) % 2 ^ b * 2 ^ (b * (j + 1 + d)) = 2 ^ (b * j) * (2 ^ b * (f (j + 1 + d) % 2 ^ b * 2 ^ (b * d))) := by
        rw [show b * (j + 1 + d) = b * j + (b + b * d) by ring, Nat.pow_add, Nat.pow_add]; ring
      rw [packFields, shift, Nat.add_mul_div_left _ _ pos, Nat.add_mul_mod_self_left]
      exact packFields_field b f j _ h
    · rw [packFields, Nat.add_mul_div_right _ _ pos, Nat.div_eq_of_lt (packFields_lt b f j), Nat.zero_add, Nat.mod_mod]

/-- A number is made of its own fields, as far as they go. -/
theorem packFields_fields (b x : Nat) : ∀ n, packFields b (fun j => x / 2 ^ (b * j) % 2 ^ b) n = x % 2 ^ (b * n)
  | 0 => by simp [packFields, Nat.mod_one]
  | n + 1 => by rw [packFields, packFields_fields b x n, Nat.mod_mod, Nat.mul_succ, Nat.pow_add, Nat.mod_mul, Nat.mul_comm (_ % _)]

/-! ## Packed codes -/

/-- Codes that fit a register make the number of their fields. -/
theorem packCodes_toNat {k n : Nat} (h : k * n ≤ 1024) (c : Nat → Nat) : (packCodes k n c).toNat = packFields k c n := by
  simp only [packCodes, BitVec.toNat_ofNat, packFields_mod k c h]

theorem packedCode_packCodes {k n j : Nat} (h : k * n ≤ 1024) (hj : j < n) (c : Nat → Nat) : packedCode k (packCodes k n c) j = c j % 2 ^ k := by
  rw [packedCode, packCodes_toNat h, packFields_field k c j n hj]

theorem packCodes_lt {k n : Nat} (h : k * n ≤ 1024) (c : Nat → Nat) : (packCodes k n c).toNat < 2 ^ (k * n) :=
  packCodes_toNat h c ▸ packFields_lt k c n

theorem packCodes_packedCode {k n : Nat} (h : k * n ≤ 1024) (r : VReg) (hr : r.toNat < 2 ^ (k * n)) : packCodes k n (packedCode k r) = r := by
  apply BitVec.eq_of_toNat_eq
  calc (packCodes k n (packedCode k r)).toNat = r.toNat % 2 ^ (k * n) := (packCodes_toNat h _).trans (packFields_fields k r.toNat n)
    _ = r.toNat := Nat.mod_eq_of_lt hr

/-! ## The instructions at their turn -/

variable {s : State} {g : CoreId} {i : SlotId}

/-- VCVT writes the converted elements and the flags of the governed-on ones (R152). -/
theorem vcvt_turn (f : FmtR) (t : turn s g i (rRegs f)) :
    let sl := s.slot g i
    let m := sl.mask f.pn f.pred
    let big := max f.ty.size (resultTy f).size
    let r := fun j => convert f.ty (resultTy f) (sl.modeOf f.mode) f.sat (sl.vsrc f.sa f.ty j)
    exec (.vcvt f) s = .next (after s g i ((sl.wrV f.dst (vbuild (resultTy f).size (128 / big)
      (fun j => if gov m big j then (r j).1 else elemOf (sl.oldV f.dst) (resultTy f).size j))).orFlags
      (govFlags m big (128 / big) (fun j => (r j).2)))) := by
  change execVcvt f s = _
  unfold execVcvt
  exact runSlot_done t rfl

/-- VPACK writes the governed-on codes from the bytes of its source, the others as they were (R153). -/
theorem vpack_turn (f : FmtR) (t : turn s g i (rRegs f)) :
    let sl := s.slot g i
    exec (.vpack f) s = .next (after s g i (sl.wrV f.dst (packCodes (descWidth f) 128 (fun j =>
      if gov (sl.mask f.pn f.pred) 1 j then (sl.vsrc f.sa .n8 j).toNat else packedCode (descWidth f) (sl.oldV f.dst) j)))) := by
  change execVpack f s = _
  unfold execVpack
  exact runSlot_done t rfl

/-- VUNPK writes the codes of its source to the governed-on bytes (R153). -/
theorem vunpk_turn (f : FmtR) (t : turn s g i (rRegs f)) :
    let sl := s.slot g i
    exec (.vunpk f) s = .next (after s g i (sl.wrV f.dst (vmerge (sl.mask f.pn f.pred) 1 (sl.oldV f.dst)
      (fun j => BitVec.ofNat 64 (packedCode (descWidth f) (sl.vwhole f.sa) j))))) := by
  change execVunpk f s = _
  unfold execVunpk
  exact runSlot_done t rfl

end Sys2Proof.Machine

open Sys2Proof Sys2Proof.Machine

/-- Settles O27: VCVT, VPACK and VUNPK are what they do to the slot; narrow codes are fields side by side. -/
theorem vectorConversions : Obligations.VectorConversions := by
  refine ⟨fun s g i f t => ⟨vcvt_turn f t, vpack_turn f t, vunpk_turn f t⟩, fun k c hk => ?_⟩
  have fits : k * 128 ≤ 1024 := by
    have : k = 4 ∨ k = 6 ∨ k = 8 := by simpa using hk
    omega
  rw [Nat.mul_comm 128 k]
  exact ⟨fun j hj => packedCode_packCodes fits hj c, packCodes_lt fits c, packCodes_packedCode fits⟩
end

section
/-! PROOFS. SPAWN, SEND, SENDR and the gate instructions, and the fields of their records (R21, R135, R289, R293, R297, R298, R313). -/

namespace Sys2Proof.Machine

/-! ## Fields of a word made of shifted parts -/

section
variable {n : Nat} (x : BitVec n)

/-- A field below a shifted part is zero. -/
theorem field_shl_low {i k m : Nat} (h : i + k ≤ m) : (x.setWidth 64 <<< m).extractLsb' i k = 0 := by
  apply BitVec.eq_of_getLsbD_eq
  intro j hj
  have : i + j < m := by omega
  simp [this]

/-- A field above a shifted part is zero. -/
theorem field_shl_high {i k m : Nat} (h : m + n ≤ i) : (x.setWidth 64 <<< m).extractLsb' i k = 0 := by
  apply BitVec.eq_of_getLsbD_eq
  intro j hj
  have : n ≤ i + j - m := by omega
  simp [BitVec.getLsbD_of_ge _ _ this]

/-- The field at a shifted part is the part. -/
theorem field_shl_self {m : Nat} (h : m + n ≤ 64) : (x.setWidth 64 <<< m).extractLsb' m n = x := by
  apply BitVec.eq_of_getLsbD_eq
  intro j hj
  have : m + j < 64 := by omega
  have : j < 64 := by omega
  simp [*]

theorem field_wide_high {i k : Nat} (h : n ≤ i) : (x.setWidth 64).extractLsb' i k = 0 := by
  simpa using field_shl_high x (m := 0) (k := k) (by omega : 0 + n ≤ i)

theorem field_wide_self (h : n ≤ 64) : (x.setWidth 64).extractLsb' 0 n = x := by
  simpa using field_shl_self x (m := 0) (by omega)

end

/-! ## The fields of a record (R21) -/

section
variable (sup stl vn : Bool) (prio : BitVec 2) (d : Dom) (h : VA)

theorem mkDw0_handler : (mkDw0 sup stl prio vn d h).extractLsb' 0 48 = h := by
  simp (disch := omega) [mkDw0, BitVec.extractLsb'_or, field_shl_low, field_wide_self]

theorem mkDw0_dom : (mkDw0 sup stl prio vn d h).extractLsb' 48 8 = d := by
  simp (disch := omega) [mkDw0, BitVec.extractLsb'_or, field_shl_low, field_shl_self, field_wide_high]

theorem mkDw0_prio : (mkDw0 sup stl prio vn d h).extractLsb' 58 2 = prio := by
  simp (disch := omega) [mkDw0, BitVec.extractLsb'_or, field_shl_low, field_shl_self, field_shl_high, field_wide_high]

theorem mkDw0_replay : (mkDw0 sup stl prio vn d h).extractLsb' 60 2 = 0 := by
  simp (disch := omega) [mkDw0, BitVec.extractLsb'_or, field_shl_low, field_shl_high, field_wide_high]

theorem mkDw0_vn : (mkDw0 sup stl prio vn d h).getLsbD 57 = vn := by simp [mkDw0]
theorem mkDw0_stl : (mkDw0 sup stl prio vn d h).getLsbD 62 = stl := by simp [mkDw0]
theorem mkDw0_sup : (mkDw0 sup stl prio vn d h).getLsbD 63 = sup := by simp [mkDw0]

end

section
variable (origin : BitVec 6) (svc : BitVec 10) (lid : BitVec 16) (tidx : BitVec 32)

theorem mkDw7_origin : (mkDw7 origin svc lid tidx).extractLsb' 58 6 = origin := by
  simp (disch := omega) [mkDw7, BitVec.extractLsb'_or, field_shl_self, field_shl_high, field_wide_high]

theorem mkDw7_svc : (mkDw7 origin svc lid tidx).extractLsb' 48 10 = svc := by
  simp (disch := omega) [mkDw7, BitVec.extractLsb'_or, field_shl_low, field_shl_self, field_shl_high, field_wide_high]

theorem mkDw7_lid : (mkDw7 origin svc lid tidx).extractLsb' 32 16 = lid := by
  simp (disch := omega) [mkDw7, BitVec.extractLsb'_or, field_shl_low, field_shl_self, field_wide_high]

theorem mkDw7_tidx : (mkDw7 origin svc lid tidx).extractLsb' 0 32 = tidx := by
  simp (disch := omega) [mkDw7, BitVec.extractLsb'_or, field_shl_low, field_wide_self]

end

/-! ## Another REPLAY (R313) -/

section
variable (tr : TaskRec) (r : BitVec 2)

theorem withReplay_replay : (tr.withReplay r).replay = r := by
  have mask : (0xCFFFFFFFFFFFFFFF#64).extractLsb' 60 2 = 0 := by decide
  simp (disch := omega) [TaskRec.withReplay, TaskRec.replay, BitVec.extractLsb'_or, BitVec.extractLsb'_and, field_shl_self, mask]

/-- A field apart from REPLAY is as before. -/
theorem withReplay_field {i k : Nat} (mask : (0xCFFFFFFFFFFFFFFF#64).extractLsb' i k = BitVec.allOnes k) (h : i + k ≤ 60 ∨ 62 ≤ i) :
    (tr.withReplay r).dw0.extractLsb' i k = tr.dw0.extractLsb' i k := by
  have out : (r.setWidth 64 <<< 60).extractLsb' i k = 0 := h.elim (field_shl_low r) (field_shl_high r)
  simp [TaskRec.withReplay, BitVec.extractLsb'_or, BitVec.extractLsb'_and, mask, out]

theorem withReplay_bit {i : Nat} (mask : (0xCFFFFFFFFFFFFFFF#64).getLsbD i = true) (h : i < 60 ∨ 62 ≤ i) :
    (tr.withReplay r).dw0.getLsbD i = tr.dw0.getLsbD i := by
  have out : (r.setWidth 64 <<< 60).getLsbD i = false := by
    rcases h with h | h
    · simp [h]
    · simp [BitVec.getLsbD_of_ge r (i - 60) (by omega)]
  simp [TaskRec.withReplay, mask, out]

theorem withReplay_levelOf (d : Dom) : levelOf d (tr.withReplay r).dw0 = levelOf d tr.dw0 := by
  rw [levelOf, levelOf, withReplay_bit tr r (by decide) (by decide)]

end

/-! ## The instructions at their turn -/

theorem payload_get (sl : Slot) (d : Spec) (k : Fin 6) : (sl.payload d)[k] = sl.readX (xIndex d + BitVec.ofNat 5 k.val) := by
  simp [Slot.payload]

/-- A task above U, or one that asks for neither SUP nor the system class, meets no PRIV trap (R135, R289). -/
theorem not_denied {sl : Slot} {f : FmtS} (h : sl.isU = false ∨ (f.imm.getLsbD 3 = false ∧ f.imm.extractLsb' 1 2 ≠ 3)) :
    (sl.isU && (f.imm.getLsbD 3 || f.imm.extractLsb' 1 2 == 3)) = false := by
  rcases h with h | ⟨h, k⟩
  · rw [h, Bool.false_and]
  · rw [h, Bool.false_or, beq_eq_false_iff_ne.mpr k, Bool.and_false]

variable {s s1 : State} {g : CoreId} {i : SlotId} {f : FmtS}

/-- SPAWN that no check stops puts its record at the bottom of the deque (R135). -/
theorem spawn_turn (t : turn s g i (specRegs [f.sa] ++ payRegs f.sb))
    (plain : ((s.slot g i).isU && (f.imm.getLsbD 3 || f.imm.extractLsb' 1 2 == 3)) = false) (aligned : ((s.slot g i).srcW f.sa).toNat % 8 = 0)
    (released : (s.core g).released (s.slot g i).task.act (s.slot g i).acq false = true) {e : PartId}
    (entry : (s.core g).entryOf (s.slot g i).dom = some e) (pushed : s.pushBottom g e ⟨s.spawnRec g (s.slot g i) f, false, false⟩ = (s1, true)) :
    exec (.spawn f) s = .next (s1.pcNext g i) := by
  change execSpawn f s = _
  rw [execSpawn, runCore_turn t]
  simp only [plain, aligned, released, entry, pushed, ne_eq, not_true_eq_false, Bool.not_true, Bool.false_eq_true, if_false]

/-- SEND and SENDR that no check stops put their record into the send buffer (R289). -/
theorem sendOp_turn (reply : Bool) (t : turn s g i (specRegs [f.sa, f.sb] ++ payRegs f.sc)) (room : s.eightHeld g i = false)
    (plain : ((s.slot g i).isU && (f.imm.getLsbD 3 || f.imm.extractLsb' 1 2 == 3)) = false)
    (quiet : (s.core g).acquiring (s.slot g i).task.act = false) (share : (s.core g).sendFull (s.slot g i).dom = false)
    (aligned : ((s.slot g i).srcW f.sb).toNat % 8 = 0) {to_ : MsgTarget} (target : s.mapTarget (s.slot g i).dom ((s.slot g i).srcW f.sa) = some to_) :
    sendOp f s reply = .next ((s.putMessage g i to_ (s.sendRec g (s.slot g i) f reply)).pcNext g i) := by
  rw [sendOp, runCore_turn t]
  simp only [plain, aligned, room, quiet, share, target, ne_eq, not_true_eq_false, Bool.false_eq_true, if_false]

/-- SENDR gate with an unused grant answers the gate call, and the grant is consumed (R298). -/
theorem sendrGate_turn (t : turn s g i (payRegs f.sc)) (room : s.eightHeld g i = false) (valid : (s.slot g i).task.grant.valid = true)
    (fresh : (s.slot g i).task.grant.consumed = false) (quiet : (s.core g).acquiring (s.slot g i).task.act = false)
    (share : (s.core g).sendFull (s.slot g i).dom = false) {to_ : CoreId}
    (target : s.mapTarget (s.slot g i).task.grant.dom ((s.slot g i).task.grant.vcore.setWidth 64) = some (.local_ to_)) :
    let sl := s.slot g i
    let x := sl.task.grant
    let idx := sl.task.tr.lid.extractLsb' 8 8
    exec (.sendrGate f) s = .next (((s.setSlot g i { sl with task := { sl.task with grant := { x with consumed := true } } }).putMessage g i
      (.local_ to_) ⟨mkDw0 false false 0 true x.dom x.handler, sl.payload f.sc,
        mkDw7 3 (s.ownNumber sl.dom g) (BitVec.ofNat 16 (idx.toNat * 256 + sl.dom.toNat)) 0, true⟩).pcNext g i) := by
  change execSendrGate f s = _
  rw [execSendrGate, runCore_turn t]
  have unused : (!(s.slot g i).task.grant.valid || (s.slot g i).task.grant.consumed) = false := by rw [valid, fresh]; rfl
  simp only [room, unused, quiet, share, target, Bool.false_eq_true, if_false]
  rfl

/-- GATE whose entry passes every check puts its record into the send buffer (R297, R298). -/
theorem gate_turn (t : turn s g i (specRegs [f.sa, f.sb] ++ payRegs f.sc)) (room : s.eightHeld g i = false)
    (inTable : (f.imm.extractLsb' 0 8).toNat < (s.dom (f.imm.extractLsb' 8 8)).gateLen.toNat) (loads : (s.slot g i).cnt.ld ≠ 63)
    (quiet : (s.core g).acquiring (s.slot g i).task.act = false) {ws : List Word} {to_ : CoreId}
    (read : s.devRead g (f.imm.extractLsb' 8 8) ((s.dom (f.imm.extractLsb' 8 8)).gateBase.setWidth 48 +
      BitVec.ofNat 48 (32 * (f.imm.extractLsb' 0 8).toNat)) 4 = (s1, .ok ws))
    (passes : gateOk ws (f.imm.extractLsb' 8 8) (s.slot g i).dom ((s.slot g i).srcW f.sa) (f.sb != Spec.none) = true)
    (target : s1.mapTarget (f.imm.extractLsb' 8 8) ((s.slot g i).srcW f.sa) = some (.local_ to_))
    (share : (s1.core g).sendFull (s.slot g i).dom = false)
    (aligned : (s1.gateRec g (s.slot g i) f ws (f.imm.extractLsb' 8 8) (f.imm.extractLsb' 0 8)).handler.toNat % 8 = 0) :
    exec (.gate f) s = .next ((s1.putMessage g i (.local_ to_)
      (s1.gateRec g (s.slot g i) f ws (f.imm.extractLsb' 8 8) (f.imm.extractLsb' 0 8))).pcNext g i) := by
  change execGate f s = _
  rw [execGate, runCore_turn t]
  simp only [room, Nat.not_le.mpr inTable, loads, quiet, read, passes, target, share, aligned, decide_false, Bool.or_false, ne_eq,
    not_true_eq_false, Bool.false_eq_true, if_false]

end Sys2Proof.Machine

open Sys2Proof Sys2Proof.Machine

/-- Settles O40: each instruction where its checks pass, and the fields that `mkDw0` and `mkDw7` pack. -/
theorem spawnAndSends : Obligations.SpawnAndSends := by
  refine ⟨fun s s1 g i f => ⟨?_, ?_, ?_, ?_⟩, fun s g sl f tr r => ⟨?_, fun reply => ?_, ?_⟩⟩
  · exact fun t plain aligned released e entry pushed => spawn_turn t (not_denied plain) aligned released entry pushed
  · exact fun t room plain quiet share aligned to_ target =>
      ⟨sendOp_turn false t room (not_denied plain) quiet share aligned target, sendOp_turn true t room (not_denied plain) quiet share aligned target⟩
  · exact fun t room valid fresh quiet share to_ target => sendrGate_turn t room valid fresh quiet share target
  · exact fun t room inTable loads quiet ws to_ read passes target share aligned =>
      gate_turn t room inTable loads quiet read passes target share aligned
  · exact ⟨mkDw0_handler .., mkDw0_dom .., mkDw0_replay .., mkDw0_stl .., mkDw0_vn .., mkDw0_prio .., mkDw0_sup .., mkDw7_origin .., mkDw7_svc ..,
      mkDw7_lid .., mkDw7_tidx .., payload_get sl f.sb⟩
  · exact ⟨mkDw0_handler .., mkDw0_dom .., mkDw0_replay .., mkDw0_vn .., mkDw0_prio .., mkDw7_origin .., mkDw7_svc ..⟩
  · have field {i k : Nat} := withReplay_field tr r (i := i) (k := k)
    exact ⟨withReplay_replay tr r, field (by decide) (by decide), field (by decide) (by decide), withReplay_bit tr r (by decide) (by decide),
      field (by decide) (by decide), withReplay_bit tr r (by decide) (by decide), rfl, rfl, withReplay_levelOf tr r⟩
end

section
/-! PROOFS. The CSR instructions, and the registers of a domain read back (R95, R142). -/

namespace Sys2Proof.Machine

/-! ## Registers of a domain -/

/-- A write to one register of a domain leaves what the others read. -/
theorem domCsr_csrSet_ne (s : State) (g : CoreId) (d : Dom) {c n : Nat} (w : Word) (h : n ≠ c) (hn : n < 0x134) :
    (s.modDom d (fun x => x.csrSet c w)).domCsr g d n = s.domCsr g d n := by
  simp only [State.domCsr, dom_modDom, Domain.csrSet]
  repeat' split
  all_goals simp_all

/-- The registers of a domain that read back what is written, with the bits that they have. -/
def domainRegs : List (Nat × Word) :=
  [(0x100, 0xFFFFFFFFFFFFFFFF), (0x101, 0xFFFFFFFFFFC0), (0x102, 0xFFFF), (0x103, 0xFFFFFFFF), (0x104, 0xFFFFFFFF), (0x10C, 0xFFFFFFFFF000),
    (0x10D, 0xFFF), (0x110, 0xFFFFFFFFFFFF), (0x114, 0xFFFFFFFFFFE0), (0x115, 0x1FF), (0x118, 0xFFFFFFFFFFC0), (0x11C, 0xFFFFFFFFFFC0),
    (0x120, 0xFFFFFFFFFFFFFFFF), (0x121, 0xFFFFFFFFFFFFFFFF), (0x130, 0xFFFFFFFFFFFFFFFF)]

theorem domainRegs_range : ∀ c ∈ domainRegs, 0x100 ≤ c.1 ∧ c.1 < 0x134 ∧ c.1 ≠ 0x108 ∧ c.1 ≠ 0x109 := by decide

theorem domCsr_csrSet (s : State) (g : CoreId) (d : Dom) (w : Word) :
    ∀ c ∈ domainRegs, (s.modDom d (fun x => x.csrSet c.1 w)).domCsr g d c.1 = w &&& c.2 := by
  have whole : w &&& 0xFFFFFFFFFFFFFFFF#64 = w := BitVec.and_allOnes
  simp [domainRegs, State.domCsr, Domain.csrSet, whole]

/-! ## Registers of a slot and of its domain -/

/-- The low bits of a doubleword, under a mask. -/
theorem low_bits (w : Word) {n : Nat} (h : n < 64) : (w.setWidth n).setWidth 64 = w &&& BitVec.ofNat 64 (2 ^ n - 1) := by
  have small : 2 ^ n < 2 ^ 64 := Nat.pow_lt_pow_right (by decide) h
  apply BitVec.eq_of_toNat_eq
  rw [BitVec.toNat_and, BitVec.toNat_ofNat, Nat.mod_eq_of_lt (by omega : 2 ^ n - 1 < 2 ^ 64), Nat.and_two_pow_sub_one_eq_mod,
    BitVec.toNat_setWidth, BitVec.toNat_setWidth, Nat.mod_eq_of_lt (Nat.lt_trans (Nat.mod_lt _ (Nat.two_pow_pos n)) small)]

/-- FFLAGS and FRM read back the bits that they have (R96, R97). -/
theorem csrGet_fflags (s : State) (g : CoreId) (i : SlotId) (w : Word) :
    (s.modSlot g i (fun x => { x with fflags := w.setWidth 5 })).csrGet g i 1 = w &&& 0x1F := by
  simp only [State.csrGet, slot_modSlot]
  exact low_bits w (by decide)

theorem csrGet_frm (s : State) (g : CoreId) (i : SlotId) (w : Word) :
    (s.modSlot g i (fun x => { x with frm := w.setWidth 3 })).csrGet g i 2 = w &&& 7 := by
  simp only [State.csrGet, slot_modSlot]
  exact low_bits w (by decide)

/-- A register from 0x100 on, below the slice's debt, is one of the slot's domain. -/
theorem csrGet_domain (s : State) (g : CoreId) (i : SlotId) {n : Nat} (low : 0x100 ≤ n) (high : n < 0x134) :
    s.csrGet g i n = s.domCsr g (s.slot g i).dom n := by
  unfold State.csrGet
  split
  case h_7 => exact if_pos (by omega)
  all_goals omega

theorem csrSet_domain (s : State) (g : CoreId) (i : SlotId) (w : Word) {n : Nat} (low : 0x100 ≤ n) (high : n < 0x200) (base : n ≠ 0x108)
    (size : n ≠ 0x109) : s.csrSet g i n w = .ok (s.modDom (s.slot g i).dom (fun x => x.csrSet n w)) := by
  unfold State.csrSet
  split
  case h_5 => exact if_pos high
  all_goals omega

/-- A write to FFLAGS or FRM leaves every register of the domain. -/
theorem csrGet_modSlot (s : State) (g : CoreId) (i : SlotId) (f : Slot → Slot) (dom : (f (s.slot g i)).dom = (s.slot g i).dom) {n : Nat}
    (low : 0x100 ≤ n) (high : n < 0x134) : (s.modSlot g i f).csrGet g i n = s.csrGet g i n := by
  rw [csrGet_domain _ g i low high, csrGet_domain _ g i low high, slot_modSlot, dom]
  unfold State.domCsr
  split
  case h_23 => omega
  all_goals rfl

/-! ## The instructions at their turn -/

variable {s : State} {g : CoreId} {i : SlotId} {f : FmtS}

/-- CSRR of a register that is none. -/
theorem csrr_undefined (t : turn s g i (specRegs [f.dst])) (h : csrDefined (csrIndex f) = false) :
    exec (.csrr f) s = .next (raise s g i (trapOf .illegal)) := by
  change execCsrr f s = _
  rw [execCsrr, runCore_turn t]
  simp only [h, Bool.not_false, if_true]

/-- CSRR below the level that may read. -/
theorem csrr_below (t : turn s g i (specRegs [f.dst])) (h : csrDefined (csrIndex f) = true)
    (below : (s.slot g i).level.toNat < (csrRead (csrIndex f)).toNat) : exec (.csrr f) s = .next (raise s g i (trapOf .priv)) := by
  change execCsrr f s = _
  rw [execCsrr, runCore_turn t]
  simp only [h, below, Bool.not_true, Bool.false_eq_true, if_false, if_true]

/-- CSRR that is allowed. -/
theorem csrr_reads (t : turn s g i (specRegs [f.dst])) (h : csrDefined (csrIndex f) = true)
    (may : (csrRead (csrIndex f)).toNat ≤ (s.slot g i).level.toNat) :
    exec (.csrr f) s = .next ((s.putX g i f.dst (s.csrGet g i (csrIndex f))).pcNext g i) := by
  change execCsrr f s = _
  rw [execCsrr, runCore_turn t]
  simp only [h, Nat.not_lt.mpr may, Bool.not_true, Bool.false_eq_true, if_false]

/-- What the three writing instructions have in common: a denied index, a refused value, and the write (R95, R142). -/
theorem csrOp_turn (new : Word → Word → Word) (t : turn s g i (specRegs [f.dst, f.sa])) :
    let sl := s.slot g i
    let n := csrIndex f
    let old := s.csrGet g i n
    let w := new old (sl.srcW f.sa)
    (∀ x, csrDenied n sl.level = some x → csrOp f s new = .next (raise s g i ⟨x, 0, 0⟩)) ∧
    (csrDenied n sl.level = none → csrRefused n (sl.srcW f.sa) w = true → csrOp f s new = .next (raise s g i ⟨.illegal, 0, 0⟩)) ∧
    (∀ u, csrDenied n sl.level = none → csrRefused n (sl.srcW f.sa) w = false →
      (0x100 ≤ n → n < 0x400 → (s.core g).released sl.task.act sl.acq false = true) → s.csrSet g i n w = .ok u →
      csrOp f s new = .next ((u.putX g i f.dst old).pcNext g i)) := by
  intro sl n old w
  rw [csrOp, runCore_turn t]
  refine ⟨fun x denied => ?_, fun may refused => ?_, fun u may taken earlier set => ?_⟩
  · simp only [show csrDenied (csrIndex f) (s.slot g i).level = some x from denied, trapOf]
  · simp only [show csrDenied (csrIndex f) (s.slot g i).level = none from may,
      show csrRefused (csrIndex f) ((s.slot g i).srcW f.sa) (new (s.csrGet g i (csrIndex f)) ((s.slot g i).srcW f.sa)) = true from refused,
      if_true, trapOf]
  · have ready : (0x100 ≤ csrIndex f && csrIndex f < 0x400 && !(s.core g).released (s.slot g i).task.act (s.slot g i).acq false) = false := by
      simpa [and_imp] using earlier
    simp only [show csrDenied (csrIndex f) (s.slot g i).level = none from may, ready,
      show csrRefused (csrIndex f) ((s.slot g i).srcW f.sa) (new (s.csrGet g i (csrIndex f)) ((s.slot g i).srcW f.sa)) = false from taken,
      show s.csrSet g i (csrIndex f) (new (s.csrGet g i (csrIndex f)) ((s.slot g i).srcW f.sa)) = .ok u from set, Bool.false_eq_true, if_false]
    rfl

end Sys2Proof.Machine

open Sys2Proof Sys2Proof.Machine

/-- Settles O44: the instructions by their common form, the registers of a domain one by one against one another. -/
theorem csrInstructions : Obligations.CsrInstructions := by
  refine ⟨fun s g i f => ⟨fun t => ⟨csrr_undefined t, csrr_below t, csrr_reads t⟩, fun t => ?_⟩, fun s t g i w c hc set => ?_⟩
  · simp only [List.forall_mem_cons]
    exact ⟨csrOp_turn (fun _ w => w) t, csrOp_turn (fun old w => old ||| w) t, csrOp_turn (fun old w => old &&& ~~~w) t, List.forall_mem_nil _⟩
  · change c ∈ (1, 0x1F) :: (2, 7) :: domainRegs at hc
    rcases List.mem_cons.mp hc with rfl | hc
    · obtain rfl := CsrRes.ok.inj set
      exact ⟨csrGet_fflags s g i w, fun n low high _ => csrGet_modSlot s g i _ rfl low high⟩
    rcases List.mem_cons.mp hc with rfl | hc
    · obtain rfl := CsrRes.ok.inj set
      exact ⟨csrGet_frm s g i w, fun n low high _ => csrGet_modSlot s g i _ rfl low high⟩
    · obtain ⟨low, high, base, size⟩ := domainRegs_range c hc
      rw [csrSet_domain s g i w low (by omega) base size] at set
      obtain rfl := CsrRes.ok.inj set
      refine ⟨?_, fun n nlow nhigh ne => ?_⟩
      · rw [csrGet_domain _ g i low high]
        exact domCsr_csrSet s g _ w c hc
      · rw [csrGet_domain _ g i nlow nhigh, csrGet_domain _ g i nlow nhigh]
        exact domCsr_csrSet_ne s g _ w ne nhigh
end

section
/-! PROOFS. The privileged instructions below their level (R19, R43, R94, R142, R243, R333 to R338). -/

namespace Sys2Proof.Machine

variable {s : State} {g : CoreId} {i : SlotId} {f : FmtS}

/-! ## RESUME and ABORT at level U -/

theorem isU_of_level {sl : Slot} (h : sl.level = 0) : sl.isU = true := by rw [Slot.isU, h]; rfl

/-- U names its own domain, whatever the field (R334). -/
theorem domOperand_user {sl : Slot} (h : sl.level = 0) (field : BitVec 8) : domOperand sl field = some sl.dom := by simp [domOperand, h]

/-- What RESUME or ABORT comes to at level U: every trap but ILLEGAL, and every effect, is a PRIV trap (R94). -/
def State.userRes (s : State) (g : CoreId) (i : SlotId) : SupRes → State
  | .waits s1 => s1
  | .trap t => raise s g i (if t.code = .illegal then t else ⟨.priv, 0, 0⟩)
  | .done _ => raise s g i ⟨.priv, 0, 0⟩

theorem supOp_user {uses : List RegName} (t : turn s g i uses) (u : (s.slot g i).level = 0) (go : CoreId → Slot → Dom → SupRes) :
    supOp f s uses go = .next (s.userRes g i (go g (s.slot g i) (s.slot g i).dom)) := by
  rw [supOp, runCore_turn t]
  simp only [domOperand_user u, isU_of_level u, Bool.not_true, Bool.false_and, Bool.false_eq_true, if_false, if_true, Bool.true_and]
  cases go g (s.slot g i) (s.slot g i).dom with
  | waits s1 => rfl
  | done s1 => rfl
  | trap x => by_cases h : x.code = .illegal <;> simp [State.userRes, h, trapOf]

/-- RESUME of a frame that names no task (R94, R334). -/
theorem resumeTask_user_bad (t : turn s g i (specRegs [f.sa, f.sb])) (u : (s.slot g i).level = 0)
    (h : s.frameTask g (s.slot g i).dom (((s.slot g i).srcW f.sa).setWidth 48) = .bad) :
    exec (.resumeTask f) s = .next (raise s g i ⟨.illegal, 0, 0⟩) := by
  change execResumeTask f s = _
  rw [execResumeTask, supOp_user t u]
  simp only [h]
  rfl

/-- RESUME of a task whose frame was edited against the rules, or that is sent elsewhere while it is busy, is ILLEGAL; any other one needs a
higher level (R94, R319, R334). -/
theorem resumeTask_user (t : turn s g i (specRegs [f.sa, f.sb])) (u : (s.slot g i).level = 0) {c : Cont} {x : FrameLook}
    (h : s.frameTask g (s.slot g i).dom (((s.slot g i).srcW f.sa).setWidth 48) = .task c x) :
    exec (.resumeTask f) s = .next (if x.legal = true ∧
      ((if f.sb = Spec.none then none else some ((s.slot g i).srcW f.sb)).getD x.s17 = x.s17 ∨ x.busy = false) then
        raise s g i ⟨.priv, 0, 0⟩ else raise s g i ⟨.illegal, 0, 0⟩) := by
  change execResumeTask f s = _
  rw [execResumeTask, supOp_user t u]
  generalize (if f.sb = Spec.none then none else some ((s.slot g i).srcW f.sb)) = given
  simp only [h, isU_of_level u, if_true]
  have broken : (!x.legal || (given.getD x.s17 != x.s17 && x.busy)) = true ↔ ¬ (x.legal = true ∧ (given.getD x.s17 = x.s17 ∨ x.busy = false)) := by
    cases x.legal <;> simp
  by_cases ok : x.legal = true ∧ (given.getD x.s17 = x.s17 ∨ x.busy = false)
  · rw [if_pos ok, if_neg (fun b => broken.mp b ok)]
    cases s.resumeTarget (s.slot g i).dom c x.s17 given <;> rfl
  · rw [if_neg ok, if_pos (broken.mpr ok)]
    rfl

/-- ABORT of a frame that names no task, and of one that does (R94, R334). -/
theorem abortTask_user_bad (t : turn s g i (specRegs [f.sa])) (u : (s.slot g i).level = 0)
    (h : s.frameTask g (s.slot g i).dom (((s.slot g i).srcW f.sa).setWidth 48) = .bad) :
    exec (.abortTask f) s = .next (raise s g i ⟨.illegal, 0, 0⟩) := by
  change execAbortTask f s = _
  rw [execAbortTask, supOp_user t u]
  simp only [h]
  rfl

theorem abortTask_user (t : turn s g i (specRegs [f.sa])) (u : (s.slot g i).level = 0) {c : Cont} {x : FrameLook}
    (h : s.frameTask g (s.slot g i).dom (((s.slot g i).srcW f.sa).setWidth 48) = .task c x) :
    exec (.abortTask f) s = .next (raise s g i ⟨.priv, 0, 0⟩) := by
  change execAbortTask f s = _
  rw [execAbortTask, supOp_user t u]
  simp only [h]
  rfl

/-- RESUME and ABORT of a command: ILLEGAL where the handle names no stopped one (R286). -/
theorem stoppedCmd_user (t : turn s g i (specRegs [f.sa])) (u : (s.slot g i).level = 0) : ∀ e ∈ [Instr.resumeCmd f, Instr.abortCmd f],
    exec e s = .next (if (s.stoppedCmd (s.slot g i).dom ((s.slot g i).srcW f.sa)).isSome = true then raise s g i ⟨.priv, 0, 0⟩
      else raise s g i ⟨.illegal, 0, 0⟩) := by
  intro e he
  have he : e = .resumeCmd f ∨ e = .abortCmd f := by simpa using he
  rcases he with rfl | rfl
  · change execResumeCmd f s = _
    rw [execResumeCmd, supOp_user t u]
    cases s.stoppedCmd (s.slot g i).dom ((s.slot g i).srcW f.sa) <;> simp [State.userRes, trapOf]
  · change execAbortCmd f s = _
    rw [execAbortCmd, supOp_user t u]
    cases s.stoppedCmd (s.slot g i).dom ((s.slot g i).srcW f.sa) <;> simp [State.userRes, trapOf]

/-! ## The other privileged instructions -/

/-- TLBINV at level U, of a range that ends within the addresses (R336). -/
theorem tlbinv_user (t : turn s g i (specRegs [f.sa, f.sb])) (u : (s.slot g i).level = 0)
    (range : ((s.slot g i).srcW f.sa).toNat + ((s.slot g i).srcW f.sb).toNat ≤ 2 ^ 48) :
    exec (.tlbinv f) s = .next (raise s g i ⟨.priv, 0, 0⟩) := by
  have inside : ¬ 2 ^ 48 < (if f.imm.getLsbD 13 then 0 else ((s.slot g i).srcW f.sa).toNat) +
      (if f.imm.getLsbD 13 then 2 ^ 48 else ((s.slot g i).srcW f.sb).toNat) := by split <;> omega
  change execTlbinv f s = _
  rw [execTlbinv, runCore_turn t]
  simp only [inside, domOperand_user u, isU_of_level u, if_false, if_true]
  rfl

/-- POOLADD at level U, of a number of steps that is allowed (R243). -/
theorem pooladd_user (t : turn s g i (sRegs f)) (u : (s.slot g i).level = 0) (steps : ((s.slot g i).srcW f.sb).toNat ≤ 4096) :
    exec (.pooladd f) s = .next (raise s g i ⟨.priv, 0, 0⟩) := by
  change execPooladd f s = _
  rw [execPooladd, runCore_turn t]
  simp only [Nat.not_lt.mpr steps, isU_of_level u, if_false, if_true]
  rfl

/-- SCRUB below H, of a domain that it may name (R341). -/
theorem scrub_below (t : turn s g i (specRegs [f.dst, f.sa])) (below : (s.slot g i).level ≠ 2)
    (may : s.scrubRefused (((s.slot g i).srcW f.sa).setWidth 8) = false) : exec (.scrub f) s = .next (raise s g i ⟨.priv, 0, 0⟩) := by
  change execScrub f s = _
  rw [execScrub, runCore_turn t]
  simp only [may, below, ne_eq, not_false_eq_true, Bool.false_eq_true, if_false, if_true]
  rfl

/-- DOMSET below H, of an entry that it may write or that it only reads (R338, R339). -/
theorem domset_below {q : DomAsk} (t : turn s g i (specRegs [f.dst] ++ quadRegs f.sa)) (below : (s.slot g i).level ≠ 2)
    (ask : domAsk g (s.slot g i) f = some q) (may : (s.core q.t).domRefused q = false ∨ (q.wa = false ∧ q.wb = false)) :
    exec (.domset f) s = .next (raise s g i ⟨.priv, 0, 0⟩) := by
  change execDomset f s = _
  rw [execDomset, runCore_turn t]
  simp only [ask, below, ne_eq, not_false_eq_true, if_true]
  by_cases reads : (!q.wa && !q.wb) = true
  · rw [if_pos reads]; rfl
  · have writes : (s.core q.t).domRefused q = false := may.resolve_right (by simpa using reads)
    simp only [reads, writes, Bool.false_eq_true, if_false]
    rfl

end Sys2Proof.Machine

open Sys2Proof Sys2Proof.Machine

/-- Settles O45: RESUME and ABORT by what they come to at level U, the others by their first checks. -/
theorem privilegeTraps : Obligations.PrivilegeTraps := by
  intro s g i f
  refine ⟨fun u => ⟨fun t => ⟨resumeTask_user_bad t u, fun c x h => resumeTask_user t u h⟩,
      fun t => ⟨stoppedCmd_user t u, abortTask_user_bad t u, fun c x h => abortTask_user t u h⟩,
      fun t => tlbinv_user t u, fun t => pooladd_user t u⟩,
    fun below => ⟨fun t => scrub_below t below, fun q t => domset_below t below⟩⟩
end

section
/-! PROOFS. The instructions on tensor entries, VCVTQ and VCVTX (R35, R36, R154, R155, R263 to R265). -/

namespace Sys2Proof.Machine

variable {s t : State} {g : CoreId} {i : SlotId}

/-! ## The place of an entry -/

/-- An entry that is found lies in the device's own memory (R263). -/
theorem entryPlace_ok {d : Dom} {va : VA} {reads writes : Bool} {who : Option (CoreId × SlotId × Nat)} {l : Loc}
    (h : s.entryPlace g d va reads writes who = (t, .ok l)) : ∃ pa gr, l = .mem pa 0 gr := by
  unfold State.entryPlace at h
  repeat' split at h
  all_goals simp only [Prod.mk.injEq, PlaceRes.ok.injEq, reduceCtorEq, and_false] at h
  all_goals exact ⟨_, _, h.2.symm⟩

/-- None of the elements of an access to such an entry lies beyond the device. -/
theorem tidFlight_here (op : HeldOp) (va : VA) (pa gr : Nat) : (tidFlight op va (.mem pa 0 gr)).2.any (fun e => e.loc.remote) = false := by
  cases op <;> simp [tidFlight, tidElem, Loc.remote]

/-! ## An access to an entry that nothing holds back -/

/-- An instruction on an entry names no address, so nothing of R94 stops it before it looks for the entry. -/
theorem tidOp_clear {isStore : Bool} {size : Nat} (h : unheld s g i (tidOp isStore size)) : clear s g i (tidOp isStore size) s [] := by
  refine ⟨h, ⟨rfl, rfl⟩, .inl rfl, lateness_mem rfl ?_⟩
  simp [Core.nearMeets, placesMeet, MemOp.places]

/-- An access at its instruction joins those in flight at its coherence point, and the PC moves on. -/
theorem flyPoint_now (sl : Slot) (m : MemOp) (op : CpOp) (dest : LoadDest) (es : List Elem) (h : es.any (fun e => e.loc.remote) = false) :
    t.flyPoint g (.now i sl) m op dest es = ((t.pushPend g i (.cp op) es [] dest m).pcNext g i).toPoint g t.nextPend := by
  rw [State.flyPoint, h, Bool.and_false]
  rfl

/-- An instruction on an entry, its place found and no earlier access that waits for its page in the way, flies to the entry's home (R208, R263
to R265). -/
theorem tidGo_flies {tid : Byte} {reads writes isStore : Bool} {size : Nat} {op : HeldOp} {dest : LoadDest} {also : State → State} {l : Loc}
    (h : unheld s g i (tidOp isStore size))
    (place : s.tidPlace g (s.slot g i).dom tid reads writes (some (g, i, (s.slot g i).task.act)) = (t, .ok l))
    (free : (t.core g).heldMeets (s.slot g i).dom false []
      ((tidOp isStore size).places (tidFlight op (s.tidVa (s.slot g i).dom tid) l).2) = false) :
    s.tidGo g i tid reads writes isStore size op dest also =
      also (((t.pushPend g i (.cp (tidFlight op (s.tidVa (s.slot g i).dom tid) l).1) (tidFlight op (s.tidVa (s.slot g i).dom tid) l).2 [] dest
        (tidOp isStore size)).pcNext g i).toPoint g t.nextPend) := by
  rw [State.tidGo, issue_clear (tidOp_clear h)]
  simp only [place, free, Bool.false_eq_true, if_false]
  obtain ⟨pa, gr, rfl⟩ := entryPlace_ok place
  rw [flyPoint_now _ _ _ _ _ (tidFlight_here ..)]

/-- A conversion whose entry is fetched, valid and narrow goes on with it (R154 to R156). -/
theorem withTid_ok {tid : Byte} {go : State → Tid → Narrow → State} {s1 : State} {ws : List Word} {e : Tid} {n : Narrow}
    (fetch : s.tidFetch g (s.slot g i).dom tid (s.slot g i).task.act (some (g, i, (s.slot g i).task.act)) = (s1, .ok ws))
    (valid : tidOf ws = some e) (narrow : e.fmt = .narrow n) : s.withTid g i tid go = go s1 e n := by
  simp only [State.withTid, fetch, valid, narrow]

section
variable {h : FmtR} {s1 : State} {ws : List Word} {e : Tid} {nf : Narrow} (ht : turn s g i (rRegs h))
  (fetch : s.tidFetch g (s.slot g i).dom (tidImm h) (s.slot g i).task.act (some (g, i, (s.slot g i).task.act)) = (s1, .ok ws))
  (valid : tidOf ws = some e) (narrow : e.fmt = .narrow nf)
include ht fetch valid narrow

/-- VCVTX writes the values of the codes, with the flags of the governed-on elements (R155). -/
theorem vcvtx_turn :
    let sl := s.slot g i
    let m := sl.mask h.pn h.pred
    let val := fun j => roundStd h.ty (sl.modeOf h.mode) h.sat (nf.value e.scale (packedCode nf.k (sl.vwhole h.sa) j))
    exec (.vcvtx h) s = .next (s1.setSlot g i { (sl.wrV h.dst (vmerge m h.ty.size (sl.oldV h.dst) (fun j => (val j).1))).orFlags
      (govFlags m h.ty.size (128 / h.ty.size) (fun j => (val j).2)) with pc := sl.pc + 8 }) := by
  change execVcvtx h s = _
  rw [execVcvtx, runCore_turn ht, withTid_ok fetch valid narrow]

/-- VCVTQ of no governed-on element changes its slot alone (R154). -/
theorem vcvtq_nothing (off : (List.range (128 / h.ty.size)).any (gov ((s.slot g i).mask h.pn h.pred) h.ty.size) = false) :
    exec (.vcvtq h) s = .next (s1.setSlot g i { (vcvtqSlot h (s.slot g i) e nf).1 with pc := (s.slot g i).pc + 8 }) := by
  change execVcvtq h s = _
  rw [execVcvtq, runCore_turn ht]
  simp only [withTid_ok fetch valid narrow, off, Bool.false_and, Bool.not_false, Bool.false_eq_true, if_false, if_true]

/-- VCVTQ of governed-on elements writes its slot, and its statistics fly to the entry's home (R36, R154). -/
theorem vcvtq_flies {l : Loc} (on : (List.range (128 / h.ty.size)).any (gov ((s.slot g i).mask h.pn h.pred) h.ty.size) = true)
    (room : (s.slot g i).cnt.st ≠ 63) (hu : unheld s1 g i (tidOp true 8))
    (place : s1.tidPlace g (s1.slot g i).dom (tidImm h) false true (some (g, i, (s1.slot g i).task.act)) = (t, .ok l))
    (free : (t.core g).heldMeets (s1.slot g i).dom false []
      ((tidOp true 8).places [tidElem 0 (s1.tidVa (s1.slot g i).dom (tidImm h)) l 32]) = false) :
    let r := vcvtqSlot h (s.slot g i) e nf
    exec (.vcvtq h) s = .next ((((t.pushPend g i (.cp (.stats r.2.1 r.2.2)) [tidElem 0 (s1.tidVa (s1.slot g i).dom (tidImm h)) l 32] []
      .discard (tidOp true 8)).pcNext g i).toPoint g t.nextPend).modSlot g i
        (fun x => { r.1 with cnt := x.cnt, pc := (s.slot g i).pc + 8 })) := by
  have below : ((s.slot g i).cnt.st == 63) = false := beq_eq_false_iff_ne.mpr room
  change execVcvtq h s = _
  rw [execVcvtq, runCore_turn ht]
  simp only [withTid_ok fetch valid narrow, on, below, Bool.and_false, Bool.not_true, Bool.false_eq_true, if_false]
  rw [tidGo_flies hu place (op := .stats _ _) free]
  rfl

end

end Sys2Proof.Machine

open Sys2Proof Sys2Proof.Machine

/-- Settles O47: each instruction is a flight to the entry's home by `tidGo_flies`, the conversions with their entry by `withTid_ok`. -/
theorem tensorInstructions : Obligations.TensorInstructions := by
  intro s t g i f h l
  refine ⟨?_, ?_, ?_, ?_⟩
  · intro ht hu place free
    change execTidw f s = _
    rw [execTidw, runCore_turn ht, tidGo_flies hu place (op := .tidw _) free]
    rfl
  · intro ht hu place es free
    change execTidr f s = _
    rw [execTidr, runCore_turn ht, tidGo_flies hu place (op := .tidr) free]
    rfl
  · intro ht hu place free
    change execTidamx f s = _
    rw [execTidamx, runCore_turn ht, tidGo_flies hu place (op := .tidamx) free]
    rfl
  · intro ht m n any s1 ws e nf fetch valid narrow
    exact ⟨⟨_, _, vcvtx_turn ht fetch valid narrow, rfl⟩, vcvtq_nothing ht fetch valid narrow,
      fun on room hu place free => vcvtq_flies ht fetch valid narrow on room hu place free⟩
end

section
/-! PROOFS. What leaves the engines' queues as they are: accesses at the coherence point, translation, the fault queue, notices, counters and
barriers. -/

namespace Sys2Proof.Machine

/-- Every core has the same tile commands in its queues. -/
structure SameQueues (s t : State) : Prop where
  queues : ∀ h : CoreId, (t.core h).queues = (s.core h).queues

namespace SameQueues

theorem refl (s : State) : SameQueues s s := ⟨fun _ => rfl⟩

theorem trans {s t u : State} (a : SameQueues s t) (b : SameQueues t u) : SameQueues s u := ⟨fun h => (b.queues h).trans (a.queues h)⟩

theorem of_cores {s t : State} (h : t.cores = s.cores) : SameQueues s t := ⟨fun g => by simp only [State.core, h]⟩

theorem setCore (s : State) (g : CoreId) {c : Core} (h : c.queues = (s.core g).queues) : SameQueues s (s.setCore g c) := by
  refine ⟨fun o => ?_⟩
  by_cases e : o = g
  · subst e; simpa using h
  · rw [core_setCore_ne _ _ _ _ e]

theorem modCore (s : State) (g : CoreId) {f : Core → Core} (h : ∀ c, (f c).queues = c.queues) : SameQueues s (s.modCore g f) :=
  .setCore s g (h _)

theorem modDie (s : State) (d : DieId) (f : Die → Die) : SameQueues s (s.modDie d f) := of_cores rfl

theorem modDom (s : State) (d : Dom) (f : Domain → Domain) : SameQueues s (s.modDom d f) := of_cores rfl

theorem foldl {α : Type} {f : State → α → State} (h : ∀ s x, SameQueues s (f s x)) : ∀ (l : List α) (s : State), SameQueues s (l.foldl f s)
  | [], s => refl s
  | x :: l, s => (h s x).trans (foldl h l (f s x))

theorem ite {s t u : State} {c : Prop} [Decidable c] (yes : SameQueues s t) (no : SameQueues s u) : SameQueues s (if c then t else u) := by
  split <;> assumption

/-- The state of a result that is known. -/
theorem of_eq {α : Type} {s t : State} {p : State × α} {x : α} (h : SameQueues s p.1) (e : p = (t, x)) : SameQueues s t := by
  rw [e] at h; exact h

end SameQueues

open SameQueues (of_cores)

/-! ## Bytes at their homes and at the coherence point -/

theorem homeWriteByte_queues (s : State) (pa : Nat) (b : Byte) : SameQueues s (s.homeWriteByte pa b) := by
  unfold State.homeWriteByte
  split <;> exact of_cores rfl

theorem homeBytes_queues : ∀ (l : List Byte) (s : State) (pa : Nat), SameQueues s (s.homeBytes pa l)
  | [], s, _ => .refl s
  | b :: l, s, pa => (homeWriteByte_queues s pa b).trans (homeBytes_queues l _ _)

theorem clearPoison_queues (s : State) (pa n : Nat) : SameQueues s (s.clearPoison pa n) := by
  unfold State.clearPoison
  split <;> exact of_cores rfl

theorem markPoison_queues (s : State) (l : List Nat) : SameQueues s (s.markPoison l) := by
  unfold State.markPoison
  split <;> exact of_cores rfl

theorem homeWrite_queues (s : State) (pa : Nat) (l : List Byte) : SameQueues s (s.homeWrite pa l) :=
  (homeBytes_queues l s pa).trans (clearPoison_queues _ _ _)

theorem levelByte_queues (s : State) (d : DieId) (pa : Nat) (b : Byte) : SameQueues s (s.levelByte d pa b) := by
  unfold State.levelByte
  split
  · exact of_cores rfl
  · exact homeWrite_queues s pa [b]

theorem levelWrite_queues (s : State) (d : DieId) (pa : Nat) (l : List Byte) (bad : List Nat) : SameQueues s (s.levelWrite d pa l bad) := by
  refine .trans (.trans ?_ (clearPoison_queues _ _ _)) (markPoison_queues _ _)
  split
  · exact .foldl (fun s _ => levelByte_queues s d _ _) _ s
  · exact homeWrite_queues s pa l

theorem send_queues (s : State) (l : List Msg) : SameQueues s (s.send l) := by
  unfold State.send
  split <;> exact of_cores rfl

theorem absorbGo_queues (r : Run) : ∀ (l : List Msg) (seen : List (CoreId × Run)) (s : State), SameQueues s (absorbGo r l seen s).2
  | [], _, s => .refl s
  | m :: l, seen, s => by
    have on := absorbGo_queues r l
    unfold absorbGo
    dsimp only
    split
    case h_2 =>
      split
      · refine .trans ?_ (on ..)
        split
        · exact (levelWrite_queues ..).trans (of_cores rfl)
        · exact levelWrite_queues ..
      · exact on ..
    case h_3 =>
      split
      · refine .trans ?_ (on ..)
        exact of_cores rfl
      · exact on ..
    all_goals exact on ..

theorem absorb_queues (s : State) (r : Run) : SameQueues s (s.absorb r) := by
  unfold State.absorb
  split
  · exact .refl s
  · exact .trans (absorbGo_queues r s.net [] s) (of_cores rfl)

theorem coreTally_queues (c : Core) (d : Option Dom) (code : BitVec 16) (n : Nat) : (c.tally d code n).queues = c.queues := by
  unfold Core.tally
  split <;> rfl

theorem tally_queues (s : State) (g : CoreId) (d : Option Dom) (code : BitVec 16) (n : Nat) : SameQueues s (s.tally g d code n) := by
  unfold State.tally
  split
  · exact .modCore s g (fun c => coreTally_queues c d code n)
  · exact .refl s

theorem tallyBacks_queues (s : State) (g : CoreId) (q : Run) : SameQueues s (s.tallyBacks g q) := by
  refine .foldl (fun s e => ?_) _ s
  split
  · split
    · exact tally_queues ..
    · exact .refl s
  · exact .refl s

theorem recallOne_queues (s : State) (d : DieId) (r : Run) (o : Owned) : SameQueues s (s.recallOne d r o) := by
  unfold State.recallOne
  split
  · exact .refl s
  · refine .trans (.trans ?_ (.modDie ..)) (send_queues ..)
    refine .trans ?_ (.modCore _ _ fun _ => rfl)
    exact .trans (tallyBacks_queues ..) (.foldl (fun s p => levelWrite_queues ..) _ _)

theorem recallDie_queues (s : State) (d : DieId) (r : Run) : SameQueues s (s.recallDie d r) := .foldl (fun s _ => recallOne_queues s d r _) _ s

theorem recallAll_queues (s : State) (d : DieId) (r : Run) : SameQueues s (s.recallAll d r) :=
  (recallDie_queues s d r).trans (.foldl (fun s q => (absorb_queues s q).trans (recallDie_queues _ d q)) _ _)

theorem visitorsDrop_queues (s : State) (d : DieId) (r : Run) : SameQueues s (s.visitorsDrop d r) := by
  unfold State.visitorsDrop
  dsimp only
  split
  · exact .refl s
  · refine .trans (.foldl (fun s v => ?_) _ s) (of_cores rfl)
    split
    · exact homeBytes_queues ..
    · exact .refl s

theorem forget_queues (s : State) (r : Run) : SameQueues s (s.forget r) := by
  unfold State.forget
  split
  · split <;> exact of_cores rfl
  · split <;> exact of_cores rfl

theorem takeHome_queues (s : State) (r : Run) : SameQueues s (s.takeHome r) := by
  refine .trans (.trans (.trans (absorb_queues s r) (.foldl (fun s d => ?_) _ _)) (.foldl (fun s d => visitorsDrop_queues s d r) _ _)) (forget_queues _ r)
  split
  · exact .refl s
  · exact recallAll_queues s d r

theorem wake_queues (s : State) (id : Nat) : SameQueues s (s.wake id) := of_cores rfl

theorem storeEvent_queues (s : State) (g : Option CoreId) (d : Dom) (l : Loc) (n : Nat) : SameQueues s (s.storeEvent g d l n) := by
  have ends : SameQueues s (if s.resv.isEmpty then s else { s with resv := s.resv.filter (fun r =>
      !(r.loc.meets r.size l n && (match l with
        | .scratch _ => g == some r.g
        | .tile .. => r.dom == d
        | .mem .. => true
        | .unplaced => false))) }) := by split <;> exact of_cores rfl
  unfold State.storeEvent
  dsimp only
  split
  · exact ends
  · exact ends.trans (.foldl (fun s w => wake_queues s _) _ _)

theorem cohWrite_queues (s : State) (pa : Nat) (l : List Byte) : SameQueues s (s.cohWrite pa l) :=
  (takeHome_queues ..).trans ((homeWrite_queues ..).trans (storeEvent_queues ..))

theorem cohWriteWord_queues (s : State) (pa : Nat) (w : Word) : SameQueues s (s.cohWriteWord pa w) := cohWrite_queues ..

/-! ## Translation -/

theorem walkFill_queues (s : State) (h : DieId) (d : Dom) (va : VA) : SameQueues s (s.walkFill h d va) := by
  unfold State.walkFill
  dsimp only
  split <;> exact of_cores rfl

theorem tlbFill_queues (s : State) (g : CoreId) (d : Dom) (va : VA) (l : Leaf) (a : Acc) : SameQueues s (s.tlbFill g d va l a) := by
  unfold State.tlbFill
  refine .ite (.refl s) (.ite (.refl s) ?_)
  refine .trans ?_ (.modDie ..)
  exact .modCore s g fun _ => rfl

theorem markPte_queues (s : State) (l : Leaf) (a : Acc) : SameQueues s (s.markPte l a) := by
  unfold State.markPte
  exact .ite (.refl s) (.ite (.refl s) (cohWriteWord_queues ..))

theorem xlate_queues (s : State) (g : CoreId) (d : Dom) (a : Acc) (u : Bool) (va : VA) : SameQueues s (s.xlate g d a u va).1 := by
  unfold State.xlate
  dsimp only
  split
  · split <;> exact .refl s
  · split
    · exact .refl s
    · split
      · exact .refl s
      · split
        · exact .refl s
        · split
          · exact .refl s
          · exact (walkFill_queues ..).trans ((tlbFill_queues ..).trans (markPte_queues ..))

theorem xlDev_queues (s : State) (g : CoreId) (d : Dom) (a : Acc) (va : VA) : SameQueues s (s.xlDev g d a va).1 := by
  have x := xlate_queues s g d a false va
  unfold State.xlDev
  split
  · exact .refl s
  · split
    · next h => exact x.of_eq h
    · next h => split <;> exact x.of_eq h

theorem startPull_queues {s t : State} {d : Dom} {pteAt : Nat} {pte : Word} {va : VA} {who : Option (CoreId × SlotId × Nat)}
    (h : s.startPull d pteAt pte va who = some t) : SameQueues s t := by
  unfold State.startPull at h
  dsimp only at h
  split at h
  · obtain rfl := Option.some.inj h
    exact of_cores rfl
  · split at h
    · contradiction
    · obtain rfl := Option.some.inj h
      exact (cohWriteWord_queues ..).trans (of_cores rfl)

theorem devPlace_queues (s : State) (g : CoreId) (d : Dom) (a : Acc) (va : VA) : SameQueues s (s.devPlace g d a va).1 := by
  have x := xlDev_queues s g d a va
  unfold State.devPlace
  split
  · next h => exact x.of_eq h
  · next h => exact x.of_eq h
  · next h =>
    split
    · next p => exact (x.of_eq h).trans (startPull_queues p)
    · exact x.of_eq h

/-! ## The fault queue and records to the supervisor -/

theorem fqMiss_queues (s : State) (d : Dom) (c : Option TrapCode) : SameQueues s (s.fqMiss d c).1 := of_cores rfl

theorem fqPut_queues (s : State) (g : CoreId) (d : Dom) (r : FaultRec) : SameQueues s (s.fqPut g d r).1 := by
  unfold State.fqPut
  dsimp only
  split
  · exact .refl s
  · split
    · next h => exact ((devPlace_queues ..).of_eq h).trans (fqMiss_queues ..)
    · next h =>
      split
      · next k => exact ((devPlace_queues ..).of_eq h).trans (((devPlace_queues ..).of_eq k).trans (fqMiss_queues ..))
      · next k =>
        refine .trans ?_ (cohWriteWord_queues ..)
        refine .trans (.trans ?_ (cohWrite_queues ..)) (.modDom ..)
        exact ((devPlace_queues ..).of_eq h).trans ((devPlace_queues ..).of_eq k)

theorem fqTry_queues (s : State) (g : CoreId) (d : Dom) (r : FaultRec) : SameQueues s (s.fqTry g d r).1 := by
  unfold State.fqTry
  split
  · exact fqPut_queues ..
  · exact .refl s

theorem noticeZero_queues (s : State) (g : CoreId) (kind : Nat) (d : Dom) (addr : Word) : SameQueues s (s.noticeZero g kind d addr) := by
  unfold State.noticeZero
  dsimp only
  split
  · next h => exact (fqTry_queues ..).of_eq h
  · next h =>
    split
    · exact (fqTry_queues ..).of_eq h
    · exact ((fqTry_queues ..).of_eq h).trans (of_cores rfl)

theorem sendOutside_queues (s : State) (g : CoreId) (d : Dom) (t : MsgTarget) (tr : TaskRec) : SameQueues s (s.sendOutside g d t tr) := by
  have put : SameQueues s (s.modCore g (fun c => { c with outside := c.outside ++ [⟨0, 0, d, t, tr, true, 0, 0⟩] })) := .modCore s g fun _ => rfl
  unfold State.sendOutside
  dsimp only
  split
  · split
    · exact put
    · exact put.trans (noticeZero_queues ..)
  · exact put

theorem sendNotice_queues (s : State) (g : CoreId) (q : QueueId) (m : Cmd) (status : Byte) (result : Word) :
    SameQueues s (s.sendNotice g q m status result) := sendOutside_queues ..

/-! ## Counters of a task -/

theorem modSlot_queues (s : State) (g : CoreId) (i : SlotId) (f : Slot → Slot) : SameQueues s (s.modSlot g i f) :=
  .setCore s g rfl

theorem frameMod_queues (s : State) (g : CoreId) (d : Dom) (f : VA) (n : Nat) (h : Word → Word) : SameQueues s (s.frameMod g d f n h).1 := by
  unfold State.frameMod
  split
  · next k => exact ((xlDev_queues ..).of_eq k).trans (cohWriteWord_queues ..)
  · next k => exact (xlDev_queues ..).of_eq k

theorem frameUpd_queues (s : State) (c : Cont) (u : CntUpd) : SameQueues s (s.frameUpd c u).1 := by
  unfold State.frameUpd
  dsimp only
  split
  · split
    · exact frameMod_queues ..
    · split
      · exact frameMod_queues ..
      · exact (frameMod_queues ..).trans (frameMod_queues ..)
  · exact frameMod_queues ..

theorem count_queues (s : State) (g : CoreId) (act : Nat) (u : CntUpd) : SameQueues s (s.count g act u) := by
  unfold State.count
  split
  · exact modSlot_queues ..
  · split
    · exact .refl s
    · split
      · next h => split <;> exact ((frameUpd_queues ..).of_eq h).trans (of_cores rfl)
      · next h => exact ((frameUpd_queues ..).of_eq h).trans (of_cores rfl)

/-! ## The completion of a command -/

theorem setBar_queues (s : State) (r : BarRef) (b : Bar) : SameQueues s (s.setBar r b) := by
  cases r <;> exact of_cores rfl

theorem freeTeamBars_queues (s : State) (d : DieId) (q : Fin 32) : SameQueues s (s.freeTeamBars d q) := by
  refine .foldl (fun s i => ?_) _ s
  split
  · exact .refl s
  · exact .ite (setBar_queues ..) (.refl s)

theorem countCmd_queues (s : State) (g : CoreId) (q : QueueId) (act : Nat) : SameQueues s (s.countCmd g q act) := by
  unfold State.countCmd
  split
  case h_4 => exact .refl s
  all_goals exact count_queues ..

theorem retireCmds_queues (g : CoreId) : ∀ (n : Nat) (s : State), SameQueues s (s.retireCmds g n)
  | 0, s => .refl s
  | n + 1, s => by
    unfold State.retireCmds
    split
    · exact .refl s
    · refine .trans (.trans ?_ (count_queues ..)) (retireCmds_queues g n _)
      exact .modCore s g fun _ => rfl

theorem dropContribs_queues (s : State) (g : CoreId) (q : QueueId) (pos : Fin 32) : SameQueues s (s.dropContribs g q pos) := of_cores rfl

end Sys2Proof.Machine
end

section
/-! PROOFS. The events of launches and of tile commands that have done their work (R29, R30, R48, R51, R258, R271, R344 to R346, R356, R358). -/

namespace Sys2Proof.Machine

variable {s t : State} {g : CoreId}

/-! ## Packets of a launch queue (R356, R358) -/

/-- The offset of byte `o` of queue `q`'s slot for domain `d` in the window of VF `vf`. -/
def slotOffset (d : Dom) (q : Fin 4) (vf o : Nat) : Nat := 0x1C000000000 + vf * 0x100000 + d.toNat * 0x1000 + q.val * 0x400 + o

theorem offsetOf_slotOffset {d : Dom} {q : Fin 4} {vf o : Nat} (hv : vf < 96) (ho : o < 0x400) :
    offsetOf (slotOffset d q vf o) = .queue vf d q o := by
  have hd := d.isLt
  have hq := q.isLt
  have low : ¬ slotOffset d q vf o < memEnd := by unfold slotOffset memEnd; omega
  have base : ¬ slotOffset d q vf o < 0x1C000000000 := by unfold slotOffset; omega
  have top : slotOffset d q vf o < 0x1C000000000 + 96 * 0x100000 := by unfold slotOffset; omega
  have rest : slotOffset d q vf o - 0x1C000000000 = vf * 0x100000 + d.toNat * 0x1000 + q.val * 0x400 + o := by unfold slotOffset; omega
  unfold offsetOf
  simp only [low, base, top, if_true, if_false, rest, OffsetOf.queue.injEq]
  refine ⟨by omega, BitVec.eq_of_toNat_eq ?_, Fin.ext ?_, by omega⟩
  · rw [BitVec.toNat_ofNat]; omega
  · rw [Fin.val_ofNat]; omega

@[simp] theorem queue_modQueue (s : State) (d : Dom) (q : Fin 4) (f : LaunchQueue → LaunchQueue) :
    ((s.modQueue d q f).dom d).lq[q] = f (s.dom d).lq[q] := by
  simp only [State.modQueue, dom_modDom, vector_set_fin, if_true]

theorem queue_of_doms {d : Dom} {q : Fin 4} (h : t.doms = s.doms) : (t.dom d).lq[q] = (s.dom d).lq[q] := by
  simp only [State.dom, h]

/-- A packet at the end of a queue, and counted. -/
def LaunchQueue.push (x : LaunchQueue) (p : Packet) : LaunchQueue := { x with packets := x.packets ++ [p], submitted := x.submitted + 1 }

/-- A packet in its queue, and the answer to the node that wrote it. -/
def State.packetIn (s : State) (node : BitVec 10) (d : Dom) (q : Fin 4) (p : Packet) : State :=
  { s.modQueue d q (fun x => x.push p) with reports := .doorbell node .accepted :: s.reports }

@[simp] theorem queue_packetIn (s : State) (node : BitVec 10) (d : Dom) (q : Fin 4) (p : Packet) :
    ((s.packetIn node d q p).dom d).lq[q] = (s.dom d).lq[q].push p :=
  (queue_of_doms (s := s.modQueue d q fun x => x.push p) rfl).trans (queue_modQueue ..)

@[simp] theorem queue_lqctlSet_answer (s : State) (node : BitVec 10) (d : Dom) (q : Fin 4) (w : Word) :
    (((s.lqctlSet d q w).answer node true []).dom d).lq[q] = { (s.dom d).lq[q] with en := w.getLsbD 63, priv := w.getLsbD 62 } :=
  (queue_of_doms (s := s.lqctlSet d q w) rfl).trans (queue_modQueue ..)

/-- A packet at the doorbell of a queue that is enabled and has room is taken. -/
theorem doorbell_accepts {node : BitVec 10} {vf : Nat} {d : Dom} {q : Fin 4} {p : Packet} (run : running s) (own : (s.dom d).vf.toNat = vf)
    (en : (s.dom d).lq[q].en = true) (room : (s.dom d).lq[q].packets.length < 64) :
    s.doorbell node vf d q (some p) = s.packetIn node d q p := by
  have full : ¬ 64 ≤ (s.dom d).lq[q].packets.length := by omega
  unfold State.doorbell
  simp only [show s.dev.phase = 0x10 from run, own, en, full, ne_eq, not_true, Bool.not_true, Bool.false_eq_true, if_false]
  rfl

theorem exec_descriptorPacket_slot {node : BitVec 10} {vf off : Nat} {d : Dom} {q : Fin 4} {ws : List Word} (place : off = slotOffset d q vf 0)
    (hv : vf < 96) (may : mayWindow (s.node node) vf = true) (len : ws.length = 64) :
    exec (.descriptorPacket node off ws) s = .next (s.doorbell node vf d q (some (.desc ws))) := by
  change execDescriptorPacket node off ws s = _
  simp [execDescriptorPacket, place, offsetOf_slotOffset hv, may, len]

theorem exec_referencePacket_slot {node : BitVec 10} {vf off : Nat} {d : Dom} {q : Fin 4} {w : Word} (place : off = slotOffset d q vf 0x200)
    (hv : vf < 96) (may : mayWindow (s.node node) vf = true) (high : w.extractLsb' 48 16 = 0) :
    exec (.referencePacket node off w) s = .next (s.doorbell node vf d q (some (.ref (w.setWidth 48)))) := by
  change execReferencePacket node off w s = _
  simp [execReferencePacket, place, offsetOf_slotOffset hv, may, refPacket, high]

/-! ## Acceptance (R29, R30, R280) -/

theorem acceptLaunch_queue {d : Dom} {q : Fin 4} {ws : List Word} {l : List Packet} {lid : BitVec 16} (up : s.dieLost 0 = false)
    (next : s.sourceNext (.queue d q) = true) (head : (s.dom d).lq[q].packets = .desc ws :: l)
    (takes : s.takeDesc ws d (s.queueLevel d q) 0x3FF = .yes t lid) :
    s.acceptLaunch (.queue d q) = some ((t.popPacket d q false).served (768 + 4 * d.toNat + q.val)) := by
  simp only [State.acceptLaunch, State.takeQueue, up, next, head, takes, Bool.not_true, Bool.or_self, Bool.false_eq_true, if_false]

theorem acceptLaunch_port {m : Cmd} {bs : List Byte} {s1 : State} {lid : BitVec 16} (up : s.dieLost 0 = false) (next : s.sourceNext (.port g) = true)
    (head : (s.core g).portHead = some m) (reads : s.engReadRun g 3 m (m.tcw.w1.extractLsb' 0 48).toNat 8 512 = (s1, .ok bs))
    (takes : s1.takeDesc (bytesWords 64 bs) m.dom m.level (s1.ownNumber m.dom g) = .yes t lid) :
    s.acceptLaunch (.port g) = some ((t.modCmd g 3 m.pos (fun y => { y with st := .done stOk (lid.setWidth 64) })).served g.val) := by
  simp only [State.acceptLaunch, State.takePort, up, next, head, reads, takes, Bool.not_true, Bool.or_self, Bool.false_eq_true, if_false]

/-! ## Delivery, retirement, completion and failed edges (R31, R51, R344 to R346) -/

theorem deliver_inTurn {d : DieId} {n : Nat} {y : Delivery} (find : (s.die d).deliveries[n]? = some y) (turn : (s.die d).inTurn n y = true)
    (free : y.barred = false) :
    s.deliver d n = some ((s.modDie d (fun z => { z with deliveries := z.deliveries.eraseIdx n })).startTask y.g y.slot y.tr .launch 0
      (some y.team) y.bar) := by
  simp only [State.deliver, find, turn, free, Bool.not_true, Bool.false_and, Bool.or_self, Bool.false_eq_true, if_false]

theorem teamRetire_over {n team : Nat} {l : Launch} {d : DieId} {r : Teams} (find : s.launches[n]? = some l)
    (on : l.ranges.find? (fun x => x.2.has team) = some (d, r)) (up : s.dieLost d = false) (front : s.dieLost 0 = false)
    (fresh : l.hasRetired team = false) (ended : teamSize l.desc team ≤ l.endedOf team) (quiet : s.teamQuiet d l.lid team = true) :
    s.teamRetire n team = some { s with launches := s.launches.set n { l with retired := l.retired ++ [(team, d)] } } := by
  simp [State.teamRetire, find, on, up, front, fresh, Nat.not_lt.mpr ended, quiet]

/-- A launch without a bitmap writes its record and its notification, and is gone. -/
theorem completeLaunch_noBitmap {n : Nat} {l : Launch} (find : s.launches[n]? = some l) (front : s.dieLost 0 = false)
    (all : l.teams ≤ l.retired.length + s.lostTeams l) (far : l.remote = 0) (none : descBmva l.desc = 0)
    (ready : s.frontReady l.dom ((s.recordWrites l).map (fun x => x.1)) = (t, true)) :
    s.completeLaunch n = some { t.frontWrites l.dom l.lid.toNat (s.recordWrites l) with
      launches := (t.frontWrites l.dom l.lid.toNat (s.recordWrites l)).launches.eraseIdx n } := by
  have due : ¬ l.retired.length + s.lostTeams l < l.teams := by omega
  simp [State.completeLaunch, find, front, due, far, none, ready]

/-- An edge that cuts off no die changes nothing else. -/
theorem edgeFail_noLoss {e : Fin 7} (keeps : ∀ h, ({ s with edges := s.edges &&& ~~~(1#7 <<< e.val) } : State).dieLost h = s.dieLost h) :
    s.edgeFail e = { s with edges := s.edges &&& ~~~(1#7 <<< e.val) } := by
  simp [State.edgeFail, keeps]

/-! ## Ordered contributions (R271) -/

theorem contribution_arrives {n : Nat} {c : Contribution} (find : s.contribs[n]? = some c) (first : s.contribBehind c = false)
    (fresh : c.stale = false) :
    s.contribution n = some (({ s with contribs := s.contribs.eraseIdx n } : State).takeContribs
      (2 * (s.staged.length + 2) * (s.staged.length + 2)) [c]) := by
  simp only [State.contribution, find, first, fresh, Bool.false_and, Bool.or_self, Bool.false_eq_true, if_false]

theorem contribRetry_due {n : Nat} {c : Contribution} (find : s.refused[n]? = some c) (due : c.retry ≤ s.cycle) :
    s.contribRetry n = some { s with refused := s.refused.eraseIdx n, contribs := s.contribs ++ [{ c with retry := 0 }] } := by
  simp only [State.contribRetry, find, Nat.not_lt.mpr due, if_false]

/-! ## The completion of a command (R258) -/

theorem cmdAt_setQueue_filter (c : Core) (q : QueueId) (pos : Fin 32) :
    (c.setQueue q (c.queues[q].filter (fun x => x.pos != pos))).cmdAt q pos = none := by
  simp [Core.cmdAt, Core.setQueue]

theorem cmdAt_of_sameQueues (same : SameQueues s t) {q : QueueId} {pos : Fin 32} (gone : (s.core g).cmdAt q pos = none) :
    (t.core g).cmdAt q pos = none := by
  rw [Core.cmdAt, same.queues]; exact gone

/-- A completion up to where the command's entry leaves its queue. -/
def State.leaveQueue (s : State) (g : CoreId) (q : QueueId) (pos : Fin 32) (m : Cmd) : State :=
  let s1 := s.noteEng g q m
  let s2 := match barOfCmd g m.tcw.hdr with
    | some r => (s1.barArrive r).1
    | none => s1
  s2.modCore g (fun c => c.setQueue q (c.queues[q].filter (fun x => x.pos != pos)))

/-- What a completion does after that, before the accesses that the ranges held back are tried. -/
def State.afterLeaving (s : State) (g : CoreId) (q : QueueId) (pos : Fin 32) (m : Cmd) (status : Byte) (result : Word) : State :=
  let s1 := (if m.tcw.hdr.ntfy then s.sendNotice g q m status result else s).countCmd g q m.act
  let s2 := s1.modCore g (fun c => { c with doneCmds := c.doneCmds ++ [⟨m.act, q, m.seq, status == stOk⟩] })
  ((s2.retireCmds g (s2.core g).doneCmds.length).dropContribs g q pos).freeTeamBars g.die g.quad

theorem cmdAt_leaveQueue (s : State) (g : CoreId) (q : QueueId) (pos : Fin 32) (m : Cmd) : ((s.leaveQueue g q pos m).core g).cmdAt q pos = none := by
  simp only [State.leaveQueue, State.modCore, core_setCore, cmdAt_setQueue_filter]

theorem afterLeaving_queues (s : State) (g : CoreId) (q : QueueId) (pos : Fin 32) (m : Cmd) (status : Byte) (result : Word) :
    SameQueues s (s.afterLeaving g q pos m status result) := by
  unfold State.afterLeaving
  dsimp only
  refine .trans (.trans (.trans ?_ (retireCmds_queues ..)) (dropContribs_queues ..)) (freeTeamBars_queues ..)
  refine .trans (.trans ?_ (countCmd_queues ..)) (.modCore _ g fun _ => rfl)
  exact .ite (sendNotice_queues ..) (.refl s)

/-- A command that has done its work completes once its posted writes are acknowledged, where its release awaits them. -/
theorem completeCmd_done {q : QueueId} {pos : Fin 32} {m : Cmd} {status : Byte} {r : Word} (find : (s.core g).cmdAt q pos = some m)
    (done : m.st = .done status r) (released : m.tcw.hdr.cscope = 3 → s.awaitsPosted m = false) :
    s.completeCmd g q pos = some (((s.leaveQueue g q pos m).afterLeaving g q pos m status r).heldCore g) := by
  have posted : (decide (m.tcw.hdr.cscope = 3) && s.awaitsPosted m) = false := by simpa using released
  unfold State.completeCmd
  simp only [find, done, posted, Bool.false_eq_true, if_false]
  rfl

end Sys2Proof.Machine

open Sys2Proof Sys2Proof.Machine

/-- Settles O56: each event is its own lemma above; what follows a completion keeps the queues, by `afterLeaving_queues`. -/
theorem launchEvents : Obligations.LaunchEvents := by
  intro s t g d n dom q node
  refine ⟨?_, ?_, ?_, ?_, ?_, ?_, ?_, ?_, ?_, ?_, ?_, ?_⟩
  · intro vf hv run own may en room
    have enters : ∀ p, ((s.packetIn node dom q p).dom dom).lq[q].packets = (s.dom dom).lq[q].packets ++ [p] ∧
        ((s.packetIn node dom q p).dom dom).lq[q].submitted = (s.dom dom).lq[q].submitted + 1 ∧
        (s.packetIn node dom q p).reports.head? = some (.doorbell node .accepted) :=
      fun p => ⟨by rw [queue_packetIn]; rfl, by rw [queue_packetIn]; rfl, rfl⟩
    refine ⟨fun ws len => ⟨_, ?_, enters _⟩, fun w high => ⟨_, ?_, enters _⟩⟩
    · rw [← doorbell_accepts run own en room]
      exact exec_descriptorPacket_slot (by rw [slotOffset]) hv may len
    · rw [← doorbell_accepts run own en room]
      exact exec_referencePacket_slot (by rw [slotOffset]) hv may high
  · intro w mgmt
    refine ⟨(s.lqctlSet dom q w).answer node true [], ?_, by rw [queue_lqctlSet_answer], by rw [queue_lqctlSet_answer]⟩
    change execLqctlWrite node dom q w s = _
    rw [execLqctlWrite, if_pos mgmt]
  · intro ws l lid s1 up next head takes
    change execLaunchAcceptance _ s = _
    rw [execLaunchAcceptance, acceptLaunch_queue up next head takes, Option.getD_some]
  · intro m bs s1 s2 lid up next head reads takes
    change execLaunchAcceptance _ s = _
    rw [execLaunchAcceptance, acceptLaunch_port up next head reads takes, Option.getD_some]
  · intro runs
    change execPlacementSlot d s = _
    rw [execPlacementSlot, runs]; rfl
  · intro y find turn free
    change execTeamRecordDelivery d n s = _
    rw [execTeamRecordDelivery, deliver_inTurn find turn free, Option.getD_some]
  · intro l team h r find on up front fresh ended quiet
    change execTeamRetirement n team s = _
    rw [execTeamRetirement, teamRetire_over find on up front fresh ended quiet, Option.getD_some]
  · intro l find front all far noBits ready
    refine ⟨_, ?_, rfl⟩
    change execLaunchCompletion n s = _
    rw [execLaunchCompletion, completeLaunch_noBitmap find front all far noBits ready, Option.getD_some]
  · intro e keeps
    change execEdgeFailure e s = _
    rw [execEdgeFailure, edgeFail_noLoss keeps]
  · intro m status r find done released
    refine ⟨(s.leaveQueue g q (Fin.ofNat 32 n) m).afterLeaving g q (Fin.ofNat 32 n) m status r, ?_,
      cmdAt_of_sameQueues (afterLeaving_queues ..) (cmdAt_leaveQueue ..)⟩
    change execCommandCompletion g q n s = _
    rw [execCommandCompletion, completeCmd_done find done released, Option.getD_some]
  · intro c find first fresh
    change execAccumContribution n s = _
    rw [execAccumContribution, contribution_arrives find first fresh, Option.getD_some]
  · intro c find due
    change execAccumStagingRetry n s = _
    rw [execAccumStagingRetry, contribRetry_due find due, Option.getD_some]
end

section
/-! PROOFS. What a step runs: the word of a slot, the words of a command, an event; and what holds an issue back (R65, R66, R79, R93, R254, R305,
R367, R368). -/

namespace Sys2Proof.Machine

variable {s s1 t : State} {g : CoreId} {i : SlotId}

/-! ## The move of a step -/

theorem step_move {m : Move} {rest : List Move} (h : s.agenda = m :: rest) {o : Host.Outcome State Fault Refusal}
    (move : ({ s with agenda := rest } : State).doMove m = o) : step s = andThen o State.tick := by
  rw [step, h, ← move]

theorem step_auto (h : s.agenda = []) : step s = andThen s.autoMove State.tick := by
  rw [step, h]

/-- Two changes of an outcome are one. -/
theorem andThen_andThen (o : Host.Outcome State Fault Refusal) (a b : State → State) :
    andThen (andThen o a) b = andThen o (fun u => b (a u)) := by
  cases o <;> rfl

theorem doMove_issue (h : running s) : s.doMove (.issue g i) = s.issueSlot g i := if_pos h
theorem doMove_defer (h : running s) : s.doMove (.defer g i) = s.deferSlot g i := if_pos h
theorem doMove_work (h : running s) (q : QueueId) (pos : Fin 32) : s.doMove (.work g q pos) = s.workCmd g q pos := if_pos h
theorem doMove_piece (h : running s) (q : QueueId) (pos : Fin 32) (n : Nat) : s.doMove (.piece g q pos n) = s.pieceCmd g q pos n := if_pos h

theorem doMove_event {e : Instr} (h : encode e = .event) : s.doMove (.event e) = exec e s := by
  have isOne : isEvent e = true := by rw [isEvent, h]; rfl
  exact if_pos isOne

/-! ## The word of a slot (R66, R79, R93) -/

theorem runWord_decodes {w : Word} {e : Instr} (h : decode w = .ok e) : s.runWord g i w = andThen (exec e s) (s.countIssue g i w) := by
  rw [State.runWord, h]

theorem runWord_illegal {w : Word} {r : Reject} (h : decode w = .error r) :
    s.runWord g i w = .next (s.countIssue g i w (raise s g i (trapOf .illegal))) := by
  rw [State.runWord, h]

section
variable {w : Word} (run : s.runWord g i w = .next t)
include run

theorem pipeIssue_notIssued (h : issued s t g i w = false) : s.pipeIssue g i w = .next t := by
  simp only [State.pipeIssue, run, h, Bool.false_eq_true, if_false]

theorem pipeIssue_chosen {q : Pipe} (h : issued s t g i w = true) (turn : s.pipeTurn g i w = some q) :
    s.pipeIssue g i w = .next (t.setPipe g (pipeOf w) q) := by
  simp only [State.pipeIssue, run, h, turn, if_true]

theorem pipeIssue_passed (h : issued s t g i w = true) (turn : s.pipeTurn g i w = none) : s.pipeIssue g i w = .next s := by
  simp only [State.pipeIssue, run, h, turn, if_true]

end

theorem pipeIssue_fault {w : Word} {x : Fault} (run : s.runWord g i w = .fault x) : s.pipeIssue g i w = .fault x := by
  rw [State.pipeIssue, run]

theorem pipeIssue_refused {w : Word} {x : Refusal} (run : s.runWord g i w = .refused x) : s.pipeIssue g i w = .refused x := by
  rw [State.pipeIssue, run]

/-- A running slot of a powered die, within its budget, whose fetch brings a word. -/
theorem issueSlot_word {w : Word} (power : (s.die g.die).powered = true) (run : (s.slot g i).status = .running)
    (budget : ({ s with agent := .slot g i } : State).overBudget g i = false)
    (fetch : ({ s with agent := .slot g i } : State).fetch g i = (s1, .word w)) : s.issueSlot g i = s1.pipeIssue g i w := by
  have power : (({ s with agent := .slot g i } : State).die g.die).powered = true := power
  have run : (({ s with agent := .slot g i } : State).slot g i).status = .running := run
  simp only [State.issueSlot, power, budget, run, fetch, Bool.not_true, Bool.false_eq_true, if_false]

/-- The state that a slot's turn is taken in: it is the agent, and its accesses may be put off. -/
def State.turnBase (s : State) (g : CoreId) (i : SlotId) (rest : List Move) (late : Bool) : State :=
  { s with agenda := rest, later := late || s.later, agent := .slot g i }

/-- What a slot's turn leaves, once time has passed: accesses are put off no more. -/
def State.turnEnds (late : Bool) (t : State) : State := ({ t with later := t.later && !late } : State).tick

/-- The step of a slot whose fetch brings a word. -/
theorem step_word {late : Bool} {rest : List Move} {w : Word} (agenda : s.agenda = (if late then .defer g i else .issue g i) :: rest)
    (ready : running s) (power : (s.die g.die).powered = true) (run : (s.slot g i).status = .running)
    (budget : (s.turnBase g i rest late).overBudget g i = false) (fetch : (s.turnBase g i rest late).fetch g i = (s1, .word w)) :
    step s = andThen (s1.pipeIssue g i w) (State.turnEnds late) := by
  have ready : running ({ s with agenda := rest } : State) := ready
  cases late with
  | false =>
    have turn : ({ s with agenda := rest } : State).issueSlot g i = s1.pipeIssue g i w := issueSlot_word power run budget fetch
    have ends : State.turnEnds false = State.tick := by funext u; simp only [State.turnEnds, Bool.not_false, Bool.and_true]
    rw [ends]
    exact step_move agenda ((doMove_issue ready).trans turn)
  | true =>
    have turn : ({ s with agenda := rest, later := true } : State).issueSlot g i = s1.pipeIssue g i w := issueSlot_word power run budget fetch
    have ends : State.turnEnds true = fun u => ({ u with later := false } : State).tick := by
      funext u; simp only [State.turnEnds, Bool.not_true, Bool.and_false]
    rw [ends, ← turn, ← andThen_andThen _ (fun u => { u with later := false })]
    exact step_move agenda (doMove_defer ready)

/-- What becomes of a word that has run: it issues where its pipe chooses the slot, waits where it chooses another, and takes no turn where it
has not issued (R66). -/
theorem step_ran {w : Word} {ends : State → State} (h : step s = andThen (s1.pipeIssue g i w) ends) (run : s1.runWord g i w = .next t) :
    (issued s1 t g i w = false → step s = .next (ends t)) ∧
    (issued s1 t g i w = true → (∀ q, s1.pipeTurn g i w = some q → step s = .next (ends (t.setPipe g (pipeOf w) q))) ∧
      (s1.pipeTurn g i w = none → step s = .next (ends s1))) := by
  refine ⟨fun no => ?_, fun yes => ⟨fun q turn => ?_, fun turn => ?_⟩⟩
  · rw [h, pipeIssue_notIssued run no]; rfl
  · rw [h, pipeIssue_chosen run yes turn]; rfl
  · rw [h, pipeIssue_passed run yes turn]; rfl

/-! ## The words of a command (R254, R305) -/

theorem workCmd_decodes {q : QueueId} {pos : Fin 32} {m : Cmd} {e : Instr} (find : (s.core g).cmdAt q pos = some m) (h : decodeTcw m.tcw = .ok e) :
    s.workCmd g q pos = exec e { s with agent := .cmd g q pos } := by
  have find : (({ s with agent := .cmd g q pos } : State).core g).cmdAt q pos = some m := find
  simp only [State.workCmd, find, h]

theorem pieceCmd_decodes {q : QueueId} {pos : Fin 32} {n : Nat} {m : Cmd} {e : Instr} (find : (s.core g).cmdAt q pos = some m)
    (h : decodeTcw m.tcw = .ok e) :
    s.pieceCmd g q pos n = andThen (exec e { s with piece := n, agent := .cmd g q pos }) (fun t => { t with piece := 0 }) :=
  congrArg (andThen · _) (workCmd_decodes (s := { s with piece := n }) find h)

/-! ## A device that is not READY (R367, R368; log 61) -/

theorem doMove_unready {m : Move} (h : s.dev.phase ≠ 0x10) (own : ∀ e, m ≠ .event e) : s.doMove m = s.unready := by
  cases m with
  | event e => exact absurd rfl (own e)
  | issue | defer | work | piece => exact if_neg h

theorem autoMove_unready (h : s.dev.phase ≠ 0x10) : s.autoMove = s.unready := if_pos h

theorem unready_halted (h : s.starting = none) : s.unready = .fault .deviceHalted := by
  rw [State.unready, h]; rfl

theorem unready_starts (h : s.starting ≠ none) : s.unready = .next s.startStep := if_pos (Option.isSome_iff_ne_none.mpr h)

/-! ## Registers that a load awaits (R65) -/

/-- Every instruction of a form waits for the registers that it names, and changes nothing until a load brings them. -/
def waitsFor {F : Type} (c : F → Instr) (regs : F → List RegName) : Prop :=
  ∀ (f : F) (s : State) (g : CoreId) (i : SlotId), s.agent = .slot g i → (s.core g).awaits i (regs f) = true → exec (c f) s = .next s

/-- The forms of IssueHeldBack: each is `runCore` on its registers once its own definitions are unfolded. -/
theorem forms_waitFor :
    (∀ c ∈ integerForms ++ floatForms ++ predicateForms ++ vectorForms ++ vectorFloatForms, waitsFor c rRegs) ∧
    (∀ c ∈ immediateForms, waitsFor c (fun f => .p f.pred :: specRegs [f.dst, f.sa])) ∧
    (∀ c ∈ branchForms ++ maskBranchForms, waitsFor c bRegs) ∧ (∀ c ∈ guardedMemoryForms, waitsFor c mRegs) := by
  simp only [integerForms, floatForms, predicateForms, vectorForms, vectorFloatForms, immediateForms, branchForms, maskBranchForms,
    guardedMemoryForms, List.cons_append, List.nil_append]
  refine ⟨?_, ?_, ?_, ?_⟩
  all_goals
    repeat
      refine List.forall_mem_cons.mpr ⟨fun f s g i agent w => ?_, ?_⟩
      · conv_lhs => whnf
        simp only [agent, w, List.nil_append, Bool.or_true, if_true]
    exact List.forall_mem_nil _

end Sys2Proof.Machine

open Sys2Proof Sys2Proof.Machine

/-- Settles O4: the word of a slot by `step_word` and `step_ran`, a command by the words it decodes to. -/
theorem stepRunsInstructions : Obligations.StepRunsInstructions := by
  refine ⟨?_, ?_, ?_, ?_⟩
  · intro late s s1 g i rest w agenda ready power run base budget fetch ends goes
    have turn : step s = andThen (s1.pipeIssue g i w) ends := step_word agenda ready power run budget fetch
    refine ⟨fun e decodes => ⟨fun t next => ?_, fun x fault => ?_, fun x refused => ?_⟩, fun r illegal => ?_⟩
    · refine step_ran turn ?_
      rw [runWord_decodes decodes, next]; rfl
    · rw [turn, pipeIssue_fault (x := x)]
      · rfl
      · rw [runWord_decodes decodes, fault]; rfl
    · rw [turn, pipeIssue_refused (x := x)]
      · rfl
      · rw [runWord_decodes decodes, refused]; rfl
    · exact step_ran turn (runWord_illegal illegal)
  · intro s g q pos rest m e agenda ready find decodes
    have ready : running ({ s with agenda := rest } : State) := ready
    exact step_move agenda ((doMove_work ready q pos).trans (workCmd_decodes find decodes))
  · intro s g q pos n rest m e agenda ready find decodes
    have ready : running ({ s with agenda := rest } : State) := ready
    rw [← andThen_andThen _ (fun t => { t with piece := 0 })]
    exact step_move agenda ((doMove_piece ready q pos n).trans (pieceCmd_decodes find decodes))
  · intro s rest e agenda event
    exact step_move agenda (doMove_event event)

/-- Settles O7: a device that is not READY by `doMove_unready` and `autoMove_unready`, an awaited register by `forms_waitFor`. -/
theorem issueHeldBack : Obligations.IssueHeldBack := by
  refine ⟨fun s idle => ⟨fun m rest own agenda => ?_, fun agenda => ?_⟩, fun s g i agent => ?_⟩
  · have move : ({ s with agenda := rest } : State).doMove m = ({ s with agenda := rest } : State).unready := doMove_unready idle own
    exact ⟨fun halted => step_move agenda (move.trans (unready_halted halted)), fun starts => step_move agenda (move.trans (unready_starts starts))⟩
  · rw [step_auto agenda, autoMove_unready idle]
    exact ⟨fun halted => congrArg (andThen · State.tick) (unready_halted halted),
      fun starts => congrArg (andThen · State.tick) (unready_starts starts)⟩
  · obtain ⟨rForms, iForms, bForms, mForms⟩ := forms_waitFor
    exact ⟨fun c hc f w => rForms c hc f s g i agent w, fun c hc f w => iForms c hc f s g i agent w,
      fun c hc f w => bForms c hc f s g i agent w, fun c hc f w => mForms c hc f s g i agent w⟩
end

section
/-! PROOFS. END, the forms of YIELD, and WAITC (R68, R136 to R138, R213, R218, R299). -/

namespace Sys2Proof.Machine

/-! ## What a slot is after it is left -/

theorem slot_of_cores {s t : State} (h : t.cores = s.cores) (g : CoreId) (i : SlotId) : t.slot g i = s.slot g i := by
  simp only [State.slot, State.core, h]

@[simp] theorem closeSlice_slots (c : Core) (e : PartId) (u : Nat) : (c.closeSlice e u).slots = c.slots := by
  unfold Core.closeSlice
  dsimp only
  split <;> rfl

@[simp] theorem sliceUpTo_slots (c : Core) (e : PartId) (cycle : Nat) : (c.sliceUpTo e cycle).slots = c.slots := by
  unfold Core.sliceUpTo
  split
  all_goals
    dsimp only
    split
    · split
      · exact closeSlice_slots ..
      · rfl
    · rfl

@[simp] theorem settle_slots (c : Core) (e : PartId) (cycle : Nat) : (c.settle e cycle).slots = c.slots := rfl

@[simp] theorem endOverrun_slots (c : Core) (e : PartId) (cycle : Nat) : (c.endOverrun e cycle).slots = c.slots := by
  unfold Core.endOverrun
  split
  · rfl
  · split <;> rfl

theorem foldl_slots {f : Core → PartId → Core} (h : ∀ c e, (f c e).slots = c.slots) : ∀ (l : List PartId) (c : Core), (l.foldl f c).slots = c.slots
  | [], _ => rfl
  | e :: l, c => (foldl_slots h l (f c e)).trans (h c e)

/-- A change of a core's slots is the change itself, whatever it does to slices and overruns. -/
theorem reslot_slots (c : Core) (cycle : Nat) (i : SlotId) (f : Slot → Slot) :
    (c.reslot cycle (fun c => c.setSlot i (f c.slots[i]))).slots = c.slots.set i (f c.slots[i]) := by
  unfold Core.reslot
  dsimp only
  rw [foldl_slots (fun c e => by split <;> simp), Core.setSlot, foldl_slots (fun c e => by split <;> simp)]

@[simp] theorem slot_reslot (s : State) (g : CoreId) (i : SlotId) (f : Slot → Slot) : (s.reslot g i f).slot g i = f (s.slot g i) := by
  simp only [State.slot, State.reslot, core_setCore, reslot_slots]
  exact Vector.getElem_set_self i.isLt

theorem dropReservation_cores (s : State) (g : CoreId) (i : SlotId) : (s.dropReservation g i).cores = s.cores := by
  unfold State.dropReservation
  split <;> rfl

theorem slot_leaveSlot (s : State) (g : CoreId) (i : SlotId) (st : SlotStatus) : (s.leaveSlot g i st).slot g i =
    { s.slot g i with status := st, task := { (s.slot g i).task with act := 0 }, tile := none } := by
  rw [State.leaveSlot, slot_of_cores (dropReservation_cores ..), slot_reslot]

/-! ## The retirement of a task (R136) -/

theorem setBar_cores (s : State) (r : BarRef) (b : Bar) : (s.setBar r b).cores = s.cores := by
  cases r <;> rfl

theorem foldl_cores {α : Type} {f : State → α → State} (h : ∀ s x, (f s x).cores = s.cores) : ∀ (l : List α) (s : State), (l.foldl f s).cores = s.cores
  | [], _ => rfl
  | x :: l, s => (foldl_cores h l (f s x)).trans (h s x)

theorem freeTeamBars_cores (s : State) (d : DieId) (q : Fin 32) : (s.freeTeamBars d q).cores = s.cores := by
  refine foldl_cores (fun s i => ?_) _ s
  split
  · rfl
  · split
    · exact setBar_cores ..
    · rfl

theorem taskOver_cores (s : State) (g : CoreId) (tr : TaskRec) (team : Option Nat) : (s.taskOver g tr team).cores = s.cores := by
  unfold State.taskOver
  split
  · rfl
  · dsimp only
    rw [freeTeamBars_cores]
    split <;> rfl

/-- A task that retires leaves its slot free, with no activation in it. -/
theorem retire_frees (s : State) (g : CoreId) (i : SlotId) :
    ((s.retire g i).slot g i).status = .free ∧ ((s.retire g i).slot g i).task.act = 0 := by
  rw [State.retire, slot_of_cores (taskOver_cores ..), slot_leaveSlot]
  exact ⟨rfl, rfl⟩

variable {s s1 v : State} {g : CoreId} {i : SlotId} {f : FmtS}

/-- END commits; with no load and no message in flight it retires the task, and else waits as ending. -/
theorem endTask_turn (agent : s.agent = .slot g i) (on : (s.slot g i).status = .running ∨ (s.slot g i).status = .ending) :
    exec .endTask s = .next (if ((s.commit g i).slot g i).cnt.ld = 0 ∧ ((s.commit g i).slot g i).cnt.sd = 0 then (s.commit g i).retire g i
      else (s.commit g i).modSlot g i (fun x => { x with status := .ending })) := by
  have may : ¬ ((s.slot g i).status ≠ .running ∧ (s.slot g i).status ≠ .ending) := fun h => on.elim h.1 h.2
  change execEndTask s = _
  simp only [execEndTask, agent, Bool.and_eq_true, decide_eq_true_eq, may, if_false]
  split <;> rfl

/-! ## YIELD (R68, R137) -/

/-- What the YIELDs share: with no load in flight, and a frame that takes the context, the task parks. -/
theorem yieldAs_parks {w : Wake} {fr : VA} (loads : ((s.commit g i).slot g i).cnt.ld = 0)
    (saved : ((s.commit g i).pcNext g i).trySave g i (.park w none) (((s.commit g i).pcNext g i).slot g i).pc 0 w = (v, .saved fr)) :
    s.yieldAs g i w = v.finishPark g i fr w := by
  rw [State.yieldAs, if_neg (not_not.mpr loads), State.parkTask]
  simp only [saved]

theorem yield_turn (t : turn s g i (specRegs [f.sa, f.sb])) : exec (.yield f) s = .next (s.yieldAs g i .now) := by
  change execYield f s = _
  rw [execYield, runCore_turn t]

theorem yieldCycles_turn (t : turn s g i (specRegs [f.sa])) : exec (.yieldCycles f) s =
    .next (s.yieldAs g i (if (s.slot g i).srcW f.sa = 0 then .now else .cycles ((s.slot g i).srcW f.sa).toNat)) := by
  have zero : ((s.slot g i).srcW f.sa).toNat = 0 ↔ (s.slot g i).srcW f.sa = 0 := (BitVec.toNat_eq (y := 0#64)).symm
  change execYieldCycles f s = _
  rw [execYieldCycles, runCore_turn t]
  simp only [zero]

/-- YIELD WATCH of an aligned word outside scratch, in a tile or in memory of the device, watches its place (R69, R94). -/
theorem yieldWatch_turn {loc : Loc} (t : turn s g i (specRegs [f.sa, f.sb])) (aligned : (((s.slot g i).srcW f.sa).setWidth 48 : VA).toNat % 8 = 0)
    (outside : inScratch (((s.slot g i).srcW f.sa).setWidth 48 : VA).toNat = false)
    (plain : s.reservedPtes g (s.slot g i).dom [⟨0, ((s.slot g i).srcW f.sa).setWidth 48⟩] = [])
    (place : s.place g (s.slot g i).dom .read (s.slot g i).isU (some (g, i, (s.slot g i).task.act)) (((s.slot g i).srcW f.sa).setWidth 48) = (s1, .ok loc))
    (own : ∀ pa mt gr, loc = .mem pa mt gr → mt = 0) : exec (.yieldWatch f) s =
      .next (s1.yieldAs g i (.watch (((s.slot g i).srcW f.sa).setWidth 48) loc ((s.slot g i).srcW f.sb) (f.imm.extractLsb' 4 3))) := by
  have fits : misaligned 8 [⟨0, ((s.slot g i).srcW f.sa).setWidth 48⟩] = [] := by
    simp only [misaligned, List.filter, aligned, bne_self_eq_false, List.map_nil]
  change execYieldWatch f s = _
  rw [execYieldWatch, runCore_turn t]
  simp only [plain, fits, List.append_nil, worst, outside, place, Bool.false_eq_true, if_false]
  cases loc with
  | mem pa mt gr => simp only [own pa mt gr rfl, ne_eq, not_true_eq_false, if_false]
  | scratch | tile | unplaced => rfl

/-- YIELD PHASE on a barrier of the slot's domain (R299). -/
theorem yieldPhase_turn {r : BarRef} (t : turn s g i (specRegs [f.sa, f.sb]))
    (named : barOf g (s.slot g i).task.teamBar ((s.slot g i).srcW f.sa) = some r) (own : (s.bar r).owner = some (s.slot g i).dom) :
    exec (.yieldPhase f) s = .next (s.yieldAs g i (.phase ((s.slot g i).srcW f.sa) r (((s.slot g i).srcW f.sb).setWidth 32))) := by
  change execYieldPhase f s = _
  rw [execYieldPhase, runCore_turn t]
  simp only [named, own, ne_eq, not_true_eq_false, if_false]

/-! ## WAITC (R138, R218) -/

theorem waitcOk_iff (n : BitVec 6) (fld : BitVec 4) : waitcOk n fld = true ↔ fld.toNat = 15 ∨ n.toNat ≤ fld.toNat := by
  rw [waitcOk, Bool.or_eq_true, beq_iff_eq, decide_eq_true_eq, BitVec.toNat_eq]
  rfl

/-- Every counter that WAITC names is no greater than its field. -/
def Slot.waitcPasses (sl : Slot) (imm : BitVec 24) : Bool :=
  waitcOk sl.cnt.ld (imm.extractLsb' 20 4) && waitcOk sl.cnt.st (imm.extractLsb' 16 4) && waitcOk sl.cnt.cp (imm.extractLsb' 12 4) &&
    waitcOk sl.cnt.mx (imm.extractLsb' 8 4) && waitcOk sl.cnt.gx (imm.extractLsb' 4 4) && waitcOk sl.cnt.sd (imm.extractLsb' 0 4)

/-- Commands counted by cp, mx or gx have completed with a release beyond the core. -/
theorem acquires_iff (eng : BitVec 4) : (eng.extractLsb' 0 3 != 0) = true ↔ eng.getLsbD 0 = true ∨ eng.getLsbD 1 = true ∨ eng.getLsbD 2 = true := by
  revert eng; decide

theorem waitc_turn (t : turn s g i []) : exec (.waitc f) s = .next (if (s.slot g i).waitcPasses f.imm = true then
    (if ((s.slot g i).eng.extractLsb' 0 3 != 0) = true then s.acquireDrop g else s).pcNext g i else s) := by
  change execWaitc f s = _
  rw [execWaitc, runCore_turn t]
  rfl

end Sys2Proof.Machine

open Sys2Proof Sys2Proof.Machine

/-- Settles O41: END by `endTask_turn`, each YIELD by what it yields as and `yieldAs_parks`, WAITC by `waitc_turn`. -/
theorem endYieldWait : Obligations.EndYieldWait := by
  intro s g i f sl u parks
  refine ⟨fun agent on => ⟨fun quiet => ?_, fun busy => ?_⟩, fun t loads v fr saved => ?_, fun t loads v fr saved => ?_,
    fun s1 loc t aligned outside plain place own loads v fr saved => ?_, fun r t named own loads v fr saved => ?_, fun t => ?_⟩
  · exact ⟨_, by rw [endTask_turn agent on, if_pos quiet], retire_frees ..⟩
  · rw [endTask_turn agent on, if_neg busy]
  · rw [yield_turn t, yieldAs_parks loads saved]
  · rw [yieldCycles_turn t, yieldAs_parks loads saved]
  · rw [yieldWatch_turn t aligned outside plain place own, yieldAs_parks loads saved]
  · rw [yieldPhase_turn t named own, yieldAs_parks loads saved]
  · intro fld ok all acq
    have passes : sl.waitcPasses f.imm = true ↔ all := by simp only [Slot.waitcPasses, Bool.and_eq_true, waitcOk_iff, and_assoc]; rfl
    have acquires : (sl.eng.extractLsb' 0 3 != 0) = true ↔ acq := acquires_iff sl.eng
    rw [waitc_turn t]
    refine ⟨fun high => ?_, fun low old => ?_, fun low fresh => ?_⟩
    · rw [if_neg (mt passes.mp high)]
    · rw [if_pos (passes.mpr low), if_pos (acquires.mpr old)]
    · rw [if_pos (passes.mpr low), if_neg (mt acquires.mp fresh)]
end

section
/-! PROOFS. The events of scheduling (R58 to R63, R69, R313, R331, R342, R348, R349). -/

namespace Sys2Proof.Machine

variable {s t : State} {g : CoreId} {i : SlotId} {e : PartId} {n : Nat}

/-! ## An entry of a core read back -/

theorem part_modPart (s : State) (g : CoreId) (e f : PartId) (h : Part → Part) :
    ((s.modPart g e h).core g).part[f] = if f = e then h (s.core g).part[e] else (s.core g).part[f] := by
  simp only [State.modPart, State.modCore, core_setCore, vector_set_fin]

@[simp] theorem part_modPart_same (s : State) (g : CoreId) (e : PartId) (h : Part → Part) :
    ((s.modPart g e h).core g).part[e] = h (s.core g).part[e] := by
  rw [part_modPart, if_pos rfl]

/-! ## Starts (R59, R313) -/

/-- The lowest free slot that has something chooses. -/
theorem lowest_chooses (free : (s.slot g i).status = .free) (first : ∀ j < i, s.wantsStart g j = false) :
    (decide ((s.slot g i).status ≠ .free) || (List.finRange 16).any (fun j => decide (j < i) && s.wantsStart g j)) = false := by
  have none : (List.finRange 16).any (fun j => decide (j < i) && s.wantsStart g j) = false := by
    refine List.any_eq_false.mpr fun j _ => ?_
    by_cases h : j < i
    · simp [first j h]
    · simp [h]
  rw [none, free]; rfl

theorem slotStart_owed {o : Owed} (free : (s.slot g i).status = .free) (first : ∀ j < i, s.wantsStart g j = false)
    (owed : s.owedFor g i = some o) : s.slotStart g i = some (s.payOwed g i o) := by
  simp only [State.slotStart, lowest_chooses free first, owed, Bool.false_eq_true, if_false]

theorem slotStart_item {x : StartItem} (free : (s.slot g i).status = .free) (first : ∀ j < i, s.wantsStart g j = false)
    (owed : s.owedFor g i = none) (pick : s.pickEntry g i = some e) (item : s.itemAfter g e = (t, some x)) :
    s.slotStart g i = some ((t.startItem g i e x).modCore g (fun c => { c with steal := { c.steal with wait := s.cycle } })) := by
  simp only [State.slotStart, lowest_chooses free first, owed, pick, item, Bool.false_eq_true, if_false]

/-! ## Steals (R54, R60, R61) -/

/-- The victim gives the oldest stealable record of its deque, unless that is the last and its owner takes it. -/
theorem stealAsk_gives {thief : CoreId} {d : Dom} {r : DqRec} (ask : s.steals[n]? = some (.ask thief g d)) (entry : (s.core g).entryOf d = some e)
    (left : (s.core g).part[e].live.length ≠ 1 ∨ s.ownerTakes g e = false) (oldest : (s.core g).part[e].live.find? (fun x => x.tr.stl) = some r) :
    ∃ t, s.stealAsk n = some t ∧ (t.core g).part[e].deque = (s.core g).part[e].deque.erase r ∧ .answer thief d (some r.tr) ∈ t.steals := by
  have keeps : (decide ((s.core g).part[e].live.length = 1) && s.ownerTakes g e) = false := by
    rcases left with h | h
    · rw [decide_eq_false h, Bool.false_and]
    · rw [h, Bool.and_false]
  simp only [State.stealAsk, ask, entry, keeps, oldest, Option.map_some, Bool.false_eq_true, if_false]
  have erased := part_modPart_same (s.dropSteal n) g e (fun p => { p with deque := p.deque.erase r })
  exact ⟨_, rfl, congrArg Part.deque erased, List.mem_append_right _ (List.mem_singleton.mpr rfl)⟩

theorem stealAnswer_takes {d : Dom} {tr : TaskRec} (answer : s.steals[n]? = some (.answer g d (some tr)))
    (takes : (s.dropSteal n).takeStolen g d tr = (t, true)) :
    s.stealAnswer n = some (t.setSteal g ⟨(s.core g).steal.round + 1, none, s.cycle, false⟩) := by
  simp only [State.stealAnswer, answer, takes]

theorem stealRound_begins (asking : (s.core g).steal.asking = none) (wait : (s.core g).steal.wait ≤ s.cycle) (idle : s.idle g = true)
    (entry : s.stealEntry g = some e) :
    s.stealRound g = some ((s.setSteal g { (s.core g).steal with lost := false }).askNext g (s.core g).part[e].dom 0) := by
  have due : ¬ s.cycle < (s.core g).steal.wait := Nat.not_lt.mpr wait
  simp only [State.stealRound, asking, due, idle, entry, Option.isSome_none, decide_false, Bool.false_and, Bool.not_true, Bool.or_self,
    Bool.false_eq_true, if_false, Option.map_some]

/-! ## Slices (R62, R63, R349) -/

/-- An entry whose slice closes at a cycle, with what its domain still holds. -/
def Part.closed (p : Part) (holds u : Nat) (paid : Nat) : Part :=
  { p with slice := .closed, overrun := if holds = 0 then none else p.overrun.or (some u), debt := p.debt - paid }

theorem closeSlice_opened (c : Core) {u len : Nat} (v : Nat) (h : c.part[e].slice = .opened u len) :
    (c.closeSlice e v).part[e] = c.part[e].closed (c.holds c.part[e].dom) v (c.part[e].sliceNow - len) := by
  simp only [Core.closeSlice, h, reduceCtorEq, if_false, vector_set_fin, if_true, Part.closed]

theorem closeSlice_deferred (c : Core) {latest : Nat} (v : Nat) (h : c.part[e].slice = .deferred latest) :
    (c.closeSlice e v).part[e] = c.part[e].closed (c.holds c.part[e].dom) v c.part[e].sliceNow := by
  simp only [Core.closeSlice, h, reduceCtorEq, if_false, vector_set_fin, if_true, Part.closed]

theorem openDeferred_opened {p : Part} {u len : Nat} (h : p.slice = .opened u len) (cycle : Nat) : p.openDeferred cycle = none := by
  rw [Part.openDeferred, h]

theorem closesAt_opened {p : Part} {u len : Nat} (h : p.slice = .opened u len) : p.closesAt = some u := by rw [Part.closesAt, h]
theorem closesAt_deferred {p : Part} {latest : Nat} (h : p.slice = .deferred latest) : p.closesAt = some latest := by rw [Part.closesAt, h]

theorem closeDue_of_closesAt {p : Part} {u : Nat} (h : p.closesAt = some u) (cycle : Nat) : p.closeDue cycle = true ↔ u ≤ cycle := by
  rw [Part.closeDue, h, decide_eq_true_eq]

/-- A slice that is due to close, and does not open before. -/
theorem sliceUpTo_closes (c : Core) {cycle u : Nat} (stays : c.part[e].openDeferred cycle = none) (at_ : c.part[e].closesAt = some u)
    (due : u ≤ cycle) : c.sliceUpTo e cycle = c.closeSlice e u := by
  simp only [Core.sliceUpTo, stays, at_, due, if_true]

/-- A deferred slice that opens and is due to close by the same cycle. -/
theorem sliceUpTo_opens (c : Core) {cycle u : Nat} {q : Part} (opens : c.part[e].openDeferred cycle = some q) (at_ : q.closesAt = some u)
    (due : u ≤ cycle) : c.sliceUpTo e cycle = ({ c with part := c.part.set e q } : Core).closeSlice e u := by
  simp only [Core.sliceUpTo, opens, vector_set_fin, at_, due, if_true]

/-- What a deferred slice opens as: its length is what the debt leaves, and it ends no later than it would have. -/
theorem openDeferred_eq_some {p q : Part} {latest cycle : Nat} (h : p.slice = .deferred latest) (opens : p.openDeferred cycle = some q) :
    q = { p with slice := .opened (min (p.freedAt + 1 + (p.sliceNow - p.debt)) latest) (p.sliceNow - p.debt) } := by
  rw [Part.openDeferred, h] at opens
  dsimp only at opens
  split at opens
  · exact (Option.some.inj opens).symm
  · contradiction

theorem openDeferred_due {p : Part} {latest cycle : Nat} (h : p.slice = .deferred latest) (done : p.overrun = none) (freed : p.freedAt + 1 ≤ cycle)
    (before : p.freedAt + 1 < latest) : p.openDeferred cycle =
      some { p with slice := .opened (min (p.freedAt + 1 + (p.sliceNow - p.debt)) latest) (p.sliceNow - p.debt) } := by
  simp [Part.openDeferred, h, done, freed, before]

/-- Every slice that is due to close is closed. -/
theorem sliceUpTo_closed (c : Core) {cycle : Nat} (due : c.part[e].closeDue cycle = true) : (c.sliceUpTo e cycle).part[e].slice = .closed := by
  cases h : c.part[e].slice with
  | closed =>
    simp only [Part.closeDue, Part.closesAt, h] at due
    contradiction
  | opened u len =>
    have at_ := closesAt_opened h
    rw [sliceUpTo_closes c (openDeferred_opened h cycle) at_ ((closeDue_of_closesAt at_ cycle).mp due), closeSlice_opened c u h]
    rfl
  | deferred latest =>
    have at_ := closesAt_deferred h
    have late := (closeDue_of_closesAt at_ cycle).mp due
    cases opens : c.part[e].openDeferred cycle with
    | none =>
      rw [sliceUpTo_closes c opens at_ late, closeSlice_deferred c latest h]
      rfl
    | some q =>
      obtain rfl := openDeferred_eq_some h opens
      rw [sliceUpTo_opens c opens rfl (Nat.le_trans (Nat.min_le_right ..) late),
        closeSlice_opened _ _ (by rw [vector_set_fin, if_pos rfl])]
      rfl

/-- An open slice that closes pays what its length left of the slice, and its overrun begins where a slot is held (R63). -/
theorem sliceUpTo_opened (c : Core) {cycle u len : Nat} (due : c.part[e].closeDue cycle = true) (h : c.part[e].slice = .opened u len) :
    (c.sliceUpTo e cycle).part[e] = c.part[e].closed (c.holds c.part[e].dom) u (c.part[e].sliceNow - len) := by
  have at_ := closesAt_opened h
  rw [sliceUpTo_closes c (openDeferred_opened h cycle) at_ ((closeDue_of_closesAt at_ cycle).mp due), closeSlice_opened c u h]

/-- A deferred slice that never opened pays its whole slice (R349). -/
theorem sliceUpTo_deferred (c : Core) {cycle latest : Nat} (due : c.part[e].closeDue cycle = true) (h : c.part[e].slice = .deferred latest)
    (stays : c.part[e].openDeferred cycle = none) :
    (c.sliceUpTo e cycle).part[e] = c.part[e].closed (c.holds c.part[e].dom) latest c.part[e].sliceNow := by
  have at_ := closesAt_deferred h
  rw [sliceUpTo_closes c stays at_ ((closeDue_of_closesAt at_ cycle).mp due), closeSlice_deferred c latest h]

theorem sliceClose_due (due : (s.core g).part[e].closeDue s.cycle = true) :
    s.sliceClose g e = some (s.modCore g (fun c => c.sliceUpTo e s.cycle)) := if_pos due

/-! ## Budgets (R331) -/

/-- The task of a slot that runs, or waits at a barrier or for a frame, is over its budget once it has held it longer. -/
theorem overBudget_of (counts : (s.slot g i).status = .running ∨ (∃ b ph, (s.slot g i).status = .barWait b ph) ∨
      (∃ w a told, (s.slot g i).status = .frameWait w a told))
    (late : (s.slot g i).task.budget < s.cycle - (s.slot g i).task.since) : s.overBudget g i = true := by
  rw [State.overBudget, decide_eq_true late, Bool.and_true]
  rcases counts with h | ⟨b, ph, h⟩ | ⟨w, a, told, h⟩ <;> rw [h]

/-! ## Egress windows (R348) -/

theorem windowed_win (p : Part) (cycle : Nat) : (p.windowed cycle).egressWin = cycle / 1024 := by
  rw [Part.windowed]; split
  · assumption
  · rfl

theorem windowed_same {p : Part} {cycle : Nat} (h : p.egressWin = cycle / 1024) : p.windowed cycle = p := if_pos h

theorem windowed_new {p : Part} {cycle : Nat} (h : p.egressWin ≠ cycle / 1024) :
    p.windowed cycle = { p with egressUsed := 0, egressWin := cycle / 1024, egressCap := p.egress } := if_neg h

/-- Every entry of a list is renewed, however often it stands there. -/
theorem part_renewed (cycle : Nat) (f : PartId) : ∀ (l : List PartId) (s : State),
    ((l.foldl (fun (s : State) (e : PartId) => s.modPart g e (fun p => p.windowed cycle)) s).core g).part[f] =
      if f ∈ l then (s.core g).part[f].windowed cycle else (s.core g).part[f]
  | [], s => by simp
  | e :: l, s => by
    have again : ((s.core g).part[e].windowed cycle).windowed cycle = (s.core g).part[e].windowed cycle := windowed_same (windowed_win ..)
    rw [List.foldl_cons, part_renewed cycle f l, part_modPart]
    by_cases h : f = e
    · subst h
      rw [if_pos rfl, again, ite_self, if_pos (List.mem_cons_self ..)]
    · simp only [h, List.mem_cons, false_or, if_false]

/-- The state with every entry of a core in the window of the cycle. -/
def State.renewed (s : State) (g : CoreId) : State :=
  (List.finRange 4).foldl (fun (s : State) (e : PartId) => s.modPart g e (fun p => p.windowed s.cycle)) s

theorem foldl_windowed_cycle (g : CoreId) : ∀ (l : List PartId) (s : State),
    l.foldl (fun (s : State) (e : PartId) => s.modPart g e (fun p => p.windowed s.cycle)) s =
      l.foldl (fun (t : State) (e : PartId) => t.modPart g e (fun p => p.windowed s.cycle)) s
  | [], _ => rfl
  | e :: l, s => foldl_windowed_cycle g l (s.modPart g e (fun p => p.windowed s.cycle))

theorem part_of_renewed (s : State) (g : CoreId) (f : PartId) : ((s.renewed g).core g).part[f] = (s.core g).part[f].windowed s.cycle := by
  rw [State.renewed, foldl_windowed_cycle, part_renewed, if_pos (List.mem_finRange f)]

theorem egressRenew_due (h : (s.core g).part[e].egressWin ≠ s.windowNow) : s.egressRenew g = some (s.renewed g) := by
  have due : (List.finRange 4).any (fun e => (s.core g).part[e].egressWin != s.windowNow) = true :=
    List.any_eq_true.mpr ⟨e, List.mem_finRange e, bne_iff_ne.mpr h⟩
  exact if_pos due

/-! ## Wakes (R69) -/

theorem wakeCycle_due {c : Cont} {a : Nat} (find : s.conts[n]? = some c) (cond : c.wake = .cycles a) (due : c.since + a ≤ s.cycle)
    (asleep : c.startable = false) (saved : c.suspended = false) : s.wakeCycle n = some (s.wake c.id) := by
  simp [State.wakeCycle, find, cond, due, asleep, saved]

/-- A continuation that wakes is startable. -/
theorem wake_startable (s : State) (id : Nat) : ∀ x ∈ (s.wake id).conts, x.id = id → x.startable = true := by
  intro x hx hid
  obtain ⟨y, _, rfl⟩ := List.mem_map.mp hx
  by_cases h : y.id = id
  · rw [if_pos h]
  · rw [if_neg h] at hid; contradiction

theorem reread_due {w : Watch} {c : Cont} {a : Nat} {x : Word} {l : DieId × Fin 16} (find : s.watches[n]? = some w) (again : w.reread = some a)
    (due : a ≤ s.cycle) (cont : s.conts.find? (fun c => c.id == w.cont) = some c)
    (read : s.watchedWord c.home w.dom w.va w.loc = (t, some (x, l))) :
    s.reread n = some (if x ≠ w.expected then t.wake w.cont
      else { t with watches := t.watches.set n { w with reread := some (t.cycle + 1024) } }) := by
  simp only [State.reread, find, again, Nat.not_lt.mpr due, cont, read, if_false]
  split <;> rfl

/-! ## The drain of a domain (R342) -/

/-- With nothing of the domain left to wait for, a drain takes its last steps. -/
theorem drain_out (status : Byte) (state : (s.core g).part[e].state = 2) (gone : s.tasksGone g (s.core g).part[e].dom = true)
    (still : s.stealing g (s.core g).part[e].dom = false)
    (conts : s.conts.find? (fun x => x.home == g && x.dom == (s.core g).part[e].dom && x.suspended && (s.core g).uncommitted x.act != 0) = none)
    (cmds : ∀ q : QueueId, (s.core g).queues[q].all (fun m => m.dom != (s.core g).part[e].dom) = true)
    (sends : (s.core g).sendBuf.all (fun m => m.dom != (s.core g).part[e].dom || !m.committed) = true) :
    s.drain g e status = some (s.drainOut g e) := by
  have queued : ∀ q ∈ (s.core g).queues.toList, ∀ m ∈ q, m.dom ≠ (s.core g).part[e].dom := by
    intro q hq m hm
    obtain ⟨k, hk, rfl⟩ := List.getElem_of_mem hq
    simpa using List.all_eq_true.mp (cmds ⟨k, by simpa using hk⟩) m (by simpa using hm)
  have unsent : (s.core g).sendBuf.any (fun m => m.dom == (s.core g).part[e].dom && m.committed) = false := by
    simpa [List.any_eq_false, imp_iff_not_or] using sends
  have named : ∀ f : Cmd → Bool, (s.core g).queues.toList.any (fun q => q.any (fun m => m.dom == (s.core g).part[e].dom && f m)) = false := by
    intro f
    refine List.any_eq_false.mpr fun q hq => Bool.not_eq_true _ ▸ List.any_eq_false.mpr fun m hm => ?_
    rw [beq_eq_false_iff_ne.mpr (queued q hq m hm), Bool.false_and]
    exact Bool.false_ne_true
  have empty := named (fun _ => true)
  simp only [Bool.and_true] at empty
  simp only [State.drain, state, gone, still, conts, unsent, named, empty, ne_eq, not_true_eq_false, decide_false, Bool.not_true, Bool.or_self,
    Bool.false_eq_true, if_false]

end Sys2Proof.Machine

open Sys2Proof Sys2Proof.Machine

/-- Settles O54: each event is its own lemma above; what a close leaves by `sliceUpTo_closed`, what a window leaves by `part_of_renewed`. -/
theorem schedulingEvents : Obligations.SchedulingEvents := by
  intro s g i e n gives p
  refine ⟨?_, ?_, ?_, ?_, ?_, ?_, ?_, ?_, ?_, ?_, ?_, ?_, ?_⟩
  · intro free first
    refine ⟨fun o owed => ?_, fun t x owed pick item => ?_⟩
    · change execSlotStart g i s = _
      rw [execSlotStart, slotStart_owed free first owed, Option.getD_some]
    · change execSlotStart g i s = _
      rw [execSlotStart, slotStart_item free first owed pick item, Option.getD_some]
  · intro thief d k r ask entry left oldest
    obtain ⟨t, gave, rest⟩ := stealAsk_gives ask entry left oldest
    refine ⟨t, ?_, rest⟩
    change execStealRequest n s = _
    rw [execStealRequest, gave, Option.getD_some]
  · intro d tr t answer takes
    change execStealAnswer n s = _
    rw [execStealAnswer, stealAnswer_takes answer takes, Option.getD_some]
  · intro asking wait idle entry
    change execStealRoundWait g s = _
    rw [execStealRoundWait, stealRound_begins asking wait idle entry, Option.getD_some]
  · intro due
    change execSliceRoundStart g s = _
    rw [execSliceRoundStart, State.sliceRound, if_pos due, Option.getD_some]
  · intro due
    have entry : (((s.modCore g fun c => c.sliceUpTo e s.cycle).core g).part[e]) = ((s.core g).sliceUpTo e s.cycle).part[e] := by
      simp only [State.modCore, core_setCore]
    refine ⟨s.modCore g (fun c => c.sliceUpTo e s.cycle), ?_, ?_, fun u len opened => ?_, fun latest deferred stays => ?_⟩
    · change execSliceClose g e s = _
      rw [execSliceClose, sliceClose_due due, Option.getD_some]
    · rw [entry]; exact sliceUpTo_closed _ due
    · rw [entry, sliceUpTo_opened _ due opened]; exact ⟨rfl, rfl⟩
    · rw [entry, sliceUpTo_deferred _ due deferred stays]; rfl
  · intro latest deferred done freed before
    refine ⟨s.modPart g e (fun _ => { p with slice := .opened (min (p.freedAt + 1 + (p.sliceNow - p.debt)) latest) (p.sliceNow - p.debt) }), ?_,
      by rw [part_modPart_same]⟩
    change execSliceDeferredOpen g e s = _
    rw [execSliceDeferredOpen, State.sliceOpen, openDeferred_due deferred done freed before]; rfl
  · intro counts late
    change execBudgetExpiry g i s = _
    rw [execBudgetExpiry, State.budgetExpire, if_pos (overBudget_of counts late), Option.getD_some]
  · intro old
    refine ⟨s.renewed g, ?_, fun f => ⟨by rw [part_of_renewed]; exact windowed_win .., fun stale => ?_⟩⟩
    · change execEgressWindow g s = _
      rw [execEgressWindow, egressRenew_due old, Option.getD_some]
    · rw [part_of_renewed, windowed_new stale]; exact ⟨rfl, rfl⟩
  · intro c a find cond due asleep saved
    refine ⟨s.wake c.id, ?_, wake_startable s c.id⟩
    change execWakeCycles n s = _
    rw [execWakeCycles, wakeCycle_due find cond due asleep saved, Option.getD_some]
  · intro w c a t x l find again due cont read
    change execWatchReread n s = _
    rw [execWatchReread, reread_due find again due cont read, Option.getD_some]
  · intro state gone still conts cmds sends
    change execDrain g e s = _
    rw [execDrain, drain_out _ state gone still conts cmds sends, Option.getD_some]
  · intro d size w t ok
    change execFramepoolWrite d size w s = _
    rw [execFramepoolWrite, ok]
end

section
/-! PROOFS. The encoding: decode after encode, and encode after decode (R79 to R86, R91 to R93, R99, R100, R267 to R281). -/

namespace Sys2Proof

/-! ## Decode after encode: words -/

theorem decode_packF {f : FmtF} (wf : (Instr.fence f).wf = true) : decode (packF 0xAF f) = .ok (.fence f) := by
  refine decode_of_build ?_ wf
  unfold build
  simp only [op_packF, parse_packF]
  rfl

/-- IMM24 passes the check of the entry. -/
theorem sOk_imm {dst sa sb sc : Kind} {f : FmtS} {b : Bool} (h : sOk dst sa sb sc f b = true) : b = true :=
  (Bool.and_eq_true_iff.mp h).2

theorem eq_iff_toNat {n : Nat} (a b : BitVec n) : a = b ↔ a.toNat = b.toNat := BitVec.toNat_inj.symm

/-- Bit 0 is the parity. -/
theorem getLsbD_zero_iff {n : Nat} (a : BitVec n) : a.getLsbD 0 = true ↔ a.toNat % 2 = 1 := by
  rw [BitVec.getLsbD, Nat.testBit_zero, decide_eq_true_eq]

/-- Decode after encode: the constructors of one format are one case, but where one code holds several forms, told apart by IMM12 or IMM24. -/
theorem decode_encode {e : Instr} {w : Word} (wf : e.wf = true) (h : encode e = .word w) : decode w = .ok e := by
  cases e with
  | nop | endTask => cases h; rfl
  | fence f => cases h; exact decode_packF wf
  | fsgnj f | fsgnjn f | fsgnjx f =>
    cases h
    have imm := beq_iff_eq.mp (Bool.and_eq_true_iff.mp wf).2
    exact decode_packR (by decide) (by decide) rfl (by rw [imm]; rfl) wf
  | sendr f | sendrGate f | yield f | yieldCycles f | yieldWatch f | yieldPhase f | bara f | baraAlloc f | baraFree f | qseq f | qseqErr f
  | resumeTask f | resumeCmd f | abortTask f | abortCmd f =>
    cases h
    refine decode_packS (by decide) (by decide) ?_ wf
    have imm := sOk_imm wf
    simp only [Bool.and_eq_true, decide_eq_true_eq, beq_iff_eq] at imm
    simp only [sCtor, beq_iff_eq, getLsbD_zero_iff, eq_iff_toNat, BitVec.reduceToNat, BitVec.extractLsb'_toNat, Nat.shiftRight_zero]
    simp (disch := omega) only [if_pos, if_neg]
  | j f | jl f | jr f | jlr f | beq f | bne f | blt f | bge f | bltn f | bgen f | bp f | bnp f | bvany f | bvall f | loop f =>
    cases h; exact decode_packB (by decide) (by decide) rfl wf
  | addi f | andi f | ori f | xori f | shli f | shri f | srai f | slti f | li f | lih f | adpc f =>
    cases h; exact decode_packI (by decide) (by decide) rfl wf
  | add f | sub f | mul f | mulh f | mulhn f | div f | divn f | rem f | remn f | andR f | orR f | xorR f | shl f | shr f | sra f | slt f
  | sltn f | min f | max f | minn f | maxn f | clz f | ctz f | popc f | brev f | bswap f | extr f | ins f | rol f | ror f | csel f | movp f
  | pmov f | pand f | por f | pxor f | pnot f | fadd f | fsub f | fmul f | ffma f | fdiv f | fsqrt f | fmin f | fmax f | fcmp f | fclass f
  | fcvti f | fcvtf f | fcvtw f | frint f | fscal f | vadd f | vsub f | vmul f | vmulh f | vmad f | vmin f | vmax f | vabs f | vand f
  | vor f | vxor f | vshl f | vshr f | vsra f | vadds f | vsubs f | vfadd f | vfsub f | vfmul f | vffma f | vfdiv f | vfsqrt f | vfrcp f
  | vfrsq f | vfexp2 f | vflog2 f | vfmin f | vfmax f | vfabs f | vfneg f | vfrint f | vfclamp f | vcmp f | vfcmp f | vsel f | vcvt f
  | vcvtq f | vcvtx f | vpack f | vunpk f | vmov f | viota f | vclz f | vpopc f | vfclass f | vsetp f | vgetp f | vscal f | vperm f
  | vrotl f | vslideup f | vslidedn f | vredsum f | vfredsum f | vredmax f | vredmin f | vfredmax f | vfredmin f | vscan f | vfscan f
  | vextr f | vinsr f | vcompr f | vexpnd f =>
    cases h; exact decode_packR (by decide) (by decide) rfl rfl wf
  | ld f | st f | ldv f | stv f | ldvs f | stvs f | ldvg f | stvg f | ldx f | xtest f | erase f | pref f | flush f | inval f | ldk f
  | zero f | amoadd f | amoand f | amoor f | amoxor f | amomin f | amomax f | amominn f | amomaxn f | amoswp f | amocas f | amofadd f | lr f
  | sc f | vamoadd f | vamofadd f =>
    cases h; exact decode_packM (by decide) (by decide) rfl wf
  | spawn f | send f | gate f | waitc f | barw f | bart f | enq f | enqt f | ident f | clock f | rng f | trap f | csrr f | csrw f | csrs f
  | csrc f | tlbinv f | fencei f | pooladd f | tidw f | tidr f | tidamx f | scrub f | domset f | bkpt f =>
    cases h; exact decode_packS (by decide) (by decide) rfl wf
  | _ => cases h

/-! ## Decode after encode: tile commands -/

@[simp] theorem etype_ofCode_code (t : EType) : EType.ofCode t.code = some t := by cases t <;> rfl

theorem op_packW0 (op : BitVec 6) (h : Hdr) (lo : BitVec 32) (w1 w2 w3 : Word) : (⟨packW0 op h lo, w1, w2, w3⟩ : Tcw).op = op := by
  simp (disch := decide) only [Tcw.op, packW0, packHdr, field_high]
  exact field_all op

theorem hdr_packW0 (op : BitVec 6) (h : Hdr) (lo : BitVec 32) (w1 w2 w3 : Word) : (⟨packW0 op h lo, w1, w2, w3⟩ : Tcw).hdr = h := by
  obtain ⟨ord, ntfy, cscope, tag, bar⟩ := h
  simp (disch := decide) only [Tcw.hdr, packW0, packHdr, field_low, field_high, bit_low, bit_high]
  simp

theorem zero_packW0 (op : BitVec 6) (h : Hdr) (lo : BitVec 32) : (packW0 op h lo).extractLsb' 48 6 = 0 := by
  simp (disch := decide) only [packW0, packHdr, field_low, field_high]
  exact field_all 0#6

/-- The low half of w0 holds the fields of the operation. -/
theorem lo_packW0 (op : BitVec 6) (h : Hdr) (lo : BitVec 32) (i k : Nat) (fits : i + k ≤ 32) :
    (packW0 op h lo).extractLsb' i k = lo.extractLsb' i k := field_low _ _ _ _ fits

theorem bit_packW0 (op : BitVec 6) (h : Hdr) (lo : BitVec 32) (i : Nat) (fits : i < 32) : bitAt (packW0 op h lo) i = bitAt lo i :=
  bit_low _ _ _ fits

@[simp] theorem vaField_vaWord (a : VA) : vaField (vaWord a) = .ok a := by
  simp (disch := decide) only [vaField, vaWord, field_low, field_high]
  simp

@[simp] theorem zeroField_zero (n : Nat) : zeroField (0#n) = .ok () := if_pos rfl

/-- Four words that `buildTcw` reads as a command that passes its checks decode to it. -/
theorem decodeTcw_of_build {c : Tcw} {i : Instr} (h : buildTcw c = .ok i) (wf : i.wf = true) : decodeTcw c = .ok i := by
  unfold decodeTcw
  rw [h]
  exact if_pos wf

/-- Decode after encode for tile commands: every field is read back from where it was put. -/
theorem decodeTcw_encode {e : Instr} {t : Tcw} (wf : e.wf = true) (h : encode e = .tile t) : decodeTcw t = .ok e := by
  cases e with
  | copy c | copy2 c | fill c | accum c | accumOrdered c | xcopy m c | mma c | mlda c | msta c | mzero c | msave c | mrstr c | gather c
  | scatter c | scatterAdd c | gsum c | dispatch c | signal c =>
    cases h
    refine decodeTcw_of_build ?_ wf
    simp (disch := decide) only [buildTcw, parseCopy, parseAccum, parseGather, parseMsave, packCopy, packAccum, packGather,
      op_packW0, hdr_packW0, zero_packW0, lo_packW0, bit_packW0, field_low, field_high, bit_low, bit_high]
    simp [need]
    rfl
  | _ => cases h

/-! ## Encode after decode -/

theorem spec_code_ofCode {b : Byte} {s : Spec} (h : Spec.ofCode b = some s) : s.code = b := by
  have all : ∀ b : Byte, ∀ s ∈ Spec.ofCode b, s.code = b := by decide
  exact all b s h

theorem ty_code_ofCode {c : BitVec 4} {t : Ty} (h : Ty.ofCode c = some t) : t.code = c := by
  have all : ∀ c : BitVec 4, ∀ t ∈ Ty.ofCode c, t.code = c := by decide
  exact all c t h

theorem rmode_code_ofCode {c : BitVec 3} {m : RMode} (h : RMode.ofCode c = some m) : m.code = c := by
  have all : ∀ c : BitVec 3, ∀ m ∈ RMode.ofCode c, m.code = c := by decide
  exact all c m h

theorem scope_code_ofCode {c : BitVec 3} {m : Scope} (h : Scope.ofCode c = some m) : m.code = c := by
  have all : ∀ c : BitVec 3, ∀ m ∈ Scope.ofCode c, m.code = c := by decide
  exact all c m h

@[simp] theorem mord_code_ofCode (c : BitVec 2) : (MOrd.ofCode c).code = c := by revert c; decide

/-- Two fields side by side are one. -/
theorem fields_join {n : Nat} (w : BitVec n) {i j k l : Nat} (h : j = i + k) : w.extractLsb' j l ++ w.extractLsb' i k = w.extractLsb' i (l + k) := by
  subst h
  apply BitVec.eq_of_getLsbD_eq
  intro m hm
  simp only [BitVec.getLsbD_append, BitVec.getLsbD_extractLsb']
  by_cases low : m < k
  · simp [low, hm]
  · have : i + k + (m - k) = i + m := by omega
    have high : m - k < l := by omega
    simp [low, hm, high, this]

theorem bit1_bitAt {n : Nat} (w : BitVec n) (i : Nat) : bit1 (bitAt w i) = w.extractLsb' i 1 := by
  apply BitVec.eq_of_getLsbD_eq
  intro m hm
  obtain rfl : m = 0 := by omega
  simp [bit1, bitAt]

theorem need_ok {α : Type} {o : Option α} {r : Reject} {a : α} : need o r = .ok a ↔ o = some a := by
  cases o <;> simp [need]

/-- A reading that succeeds has read its first part. -/
theorem except_bind_ok {ε α β : Type} {x : Except ε α} {f : α → Except ε β} {b : β} : (x >>= f) = .ok b ↔ ∃ a, x = .ok a ∧ f a = .ok b := by
  cases x with
  | error e => exact ⟨nofun, nofun⟩
  | ok a => exact ⟨fun h => ⟨a, rfl, h⟩, fun ⟨_, rfl, h⟩ => h⟩

theorem ite_ok {ε α : Type} {p : Prop} [Decidable p] {a b : α} {e : ε} : (if p then Except.ok a else .error e) = .ok b ↔ p ∧ a = b := by
  by_cases h : p <;> simp [h]

theorem pack_parseB {w : Word} {f : FmtB} (h : parseB w = .ok f) : packB (opOf w) f = w := by
  simp only [parseB, except_bind_ok, need_ok, ite_ok] at h
  obtain ⟨sa, hsa, sb, hsb, zero, rfl⟩ := h
  simp (disch := decide) only [packB, opOf, spec_code_ofCode hsa, spec_code_ofCode hsb, bit1_bitAt, ← zero, fields_join]
  exact field_all w

theorem pack_parseR {w : Word} {f : FmtR} (h : parseR w = .ok f) : packR (opOf w) f = w := by
  simp only [parseR, except_bind_ok, need_ok, Except.ok.injEq] at h
  obtain ⟨dst, hdst, sa, hsa, sb, hsb, sc, hsc, ty, hty, mode, hmode, rfl⟩ := h
  simp (disch := decide) only [packR, opOf, spec_code_ofCode hdst, spec_code_ofCode hsa, spec_code_ofCode hsb, spec_code_ofCode hsc,
    ty_code_ofCode hty, rmode_code_ofCode hmode, bit1_bitAt, fields_join]
  exact field_all w

theorem pack_parseI {w : Word} {f : FmtI} (h : parseI w = .ok f) : packI (opOf w) f = w := by
  simp only [parseI, except_bind_ok, need_ok, ite_ok] at h
  obtain ⟨dst, hdst, sa, hsa, zero, rfl⟩ := h
  simp (disch := decide) only [packI, opOf, spec_code_ofCode hdst, spec_code_ofCode hsa, bit1_bitAt, ← zero, fields_join]
  exact field_all w

theorem pack_parseM {w : Word} {f : FmtM} (h : parseM w = .ok f) : packM (opOf w) f = w := by
  simp only [parseM, except_bind_ok, need_ok, ite_ok] at h
  obtain ⟨data, hdata, base, hbase, aux, haux, scope, hscope, zero, rfl⟩ := h
  simp (disch := decide) only [packM, opOf, spec_code_ofCode hdata, spec_code_ofCode hbase, spec_code_ofCode haux,
    scope_code_ofCode hscope, mord_code_ofCode, bit1_bitAt, ← zero, fields_join]
  exact field_all w

theorem pack_parseF {w : Word} {f : FmtF} (h : parseF w = .ok f) : packF (opOf w) f = w := by
  simp only [parseF, except_bind_ok, need_ok, ite_ok] at h
  obtain ⟨scope, hscope, ⟨base, ord, rest⟩, rfl⟩ := h
  simp (disch := decide) only [packF, opOf, scope_code_ofCode hscope, ← base, ← ord, ← rest, fields_join]
  exact field_all w

theorem pack_parseS {w : Word} {f : FmtS} (h : parseS w = .ok f) : packS (opOf w) f = w := by
  simp only [parseS, except_bind_ok, need_ok, Except.ok.injEq] at h
  obtain ⟨dst, hdst, sa, hsa, sb, hsb, sc, hsc, rfl⟩ := h
  simp (disch := decide) only [packS, opOf, spec_code_ofCode hdst, spec_code_ofCode hsa, spec_code_ofCode hsb, spec_code_ofCode hsc, fields_join]
  exact field_all w

/-! ## The constructor of a code -/

theorem encode_bCtor {n : Nat} {c : FmtB → Instr} (h : bCtor n = some c) (f : FmtB) : encode (c f) = .word (packB (BitVec.ofNat 8 n) f) := by
  unfold bCtor at h
  split at h
  all_goals cases h
  all_goals rfl

theorem encode_iCtor {n : Nat} {c : FmtI → Instr} (h : iCtor n = some c) (f : FmtI) : encode (c f) = .word (packI (BitVec.ofNat 8 n) f) := by
  unfold iCtor at h
  split at h
  all_goals cases h
  all_goals rfl

theorem encode_mCtor {n : Nat} {c : FmtM → Instr} (h : mCtor n = some c) (f : FmtM) : encode (c f) = .word (packM (BitVec.ofNat 8 n) f) := by
  unfold mCtor at h
  split at h
  all_goals cases h
  all_goals rfl

/-- Of the sign moves that share a code each is packed alike. -/
theorem encode_rCtor {n : Nat} {imm : BitVec 12} {c : FmtR → Instr} (h : rCtor n imm = some c) (f : FmtR) :
    encode (c f) = .word (packR (BitVec.ofNat 8 n) f) := by
  unfold rCtor at h
  split at h
  all_goals (repeat' split at h)
  all_goals cases h
  all_goals rfl

theorem encode_sCtor {n : Nat} {imm : BitVec 24} {c : FmtS → Instr} (h : sCtor n imm = some c) (f : FmtS) :
    encode (c f) = .word (packS (BitVec.ofNat 8 n) f) := by
  unfold sCtor at h
  split at h
  all_goals (repeat' split at h)
  all_goals cases h
  all_goals rfl

theorem ofNat_opOf (w : Word) : BitVec.ofNat 8 (opOf w).toNat = opOf w := BitVec.ofNat_toNat ..

/-- A word read as an instruction is the word of it. -/
theorem encode_build {w : Word} {e : Instr} (h : build w = .ok e) : encode e = .word w := by
  simp only [build] at h
  by_cases h0 : (opOf w).toNat = 0
  · rw [if_pos h0] at h
    obtain ⟨rfl, rfl⟩ := ite_ok.mp h
    rfl
  rw [if_neg h0] at h
  by_cases h1 : (opOf w).toNat < 0x10
  · simp only [if_pos h1, except_bind_ok, need_ok, Except.ok.injEq] at h
    obtain ⟨c, hc, f, hf, rfl⟩ := h
    rw [encode_bCtor hc, ofNat_opOf, pack_parseB hf]
  rw [if_neg h1] at h
  by_cases h2 : (opOf w).toNat < 0x90
  · rw [if_pos h2] at h
    cases hi : iCtor (opOf w).toNat with
    | some c =>
      simp only [hi, except_bind_ok, Except.ok.injEq] at h
      obtain ⟨f, hf, rfl⟩ := h
      rw [encode_iCtor hi, ofNat_opOf, pack_parseI hf]
    | none =>
      simp only [hi, except_bind_ok, need_ok, Except.ok.injEq] at h
      obtain ⟨c, hc, f, hf, rfl⟩ := h
      rw [encode_rCtor hc, ofNat_opOf, pack_parseR hf]
  rw [if_neg h2] at h
  by_cases h3 : (opOf w).toNat = 0xAF
  · simp only [if_pos h3, except_bind_ok, Except.ok.injEq] at h
    obtain ⟨f, hf, rfl⟩ := h
    have op : opOf w = 0xAF := BitVec.eq_of_toNat_eq h3
    exact congrArg Code.word (op ▸ pack_parseF hf)
  rw [if_neg h3] at h
  by_cases h4 : (opOf w).toNat < 0xB0
  · simp only [if_pos h4, except_bind_ok, need_ok, Except.ok.injEq] at h
    obtain ⟨c, hc, f, hf, rfl⟩ := h
    rw [encode_mCtor hc, ofNat_opOf, pack_parseM hf]
  rw [if_neg h4] at h
  by_cases h5 : (opOf w).toNat = 0xB4
  · rw [if_pos h5] at h
    obtain ⟨rfl, rfl⟩ := ite_ok.mp h
    rfl
  · simp only [if_neg h5, except_bind_ok, need_ok, Except.ok.injEq] at h
    obtain ⟨c, hc, f, hf, rfl⟩ := h
    rw [encode_sCtor hc, ofNat_opOf, pack_parseS hf]

/-- A word decodes to what it is read as, where that passes the checks of its entry. -/
theorem decode_ok {w : Word} {e : Instr} : decode w = .ok e ↔ build w = .ok e ∧ e.wf = true := by
  simp only [decode, except_bind_ok, ite_ok]
  exact ⟨fun ⟨_, h, wf, rfl⟩ => ⟨h, wf⟩, fun ⟨h, wf⟩ => ⟨e, h, wf, rfl⟩⟩

/-! ## Words that are no instruction (R80, R91) -/

theorem sCtor_above {n : Nat} (imm : BitVec 24) (h : 0xD0 ≤ n) : sCtor n imm = none := by
  unfold sCtor
  split
  on_goal -1 => rfl
  all_goals omega

theorem decode_above {w : Word} (h : 0xD0 ≤ (opOf w).toNat) : decode w = .error .reservedOpcode := by
  have none_ := sCtor_above (w.extractLsb' 0 24) h
  have h0 : (opOf w).toNat ≠ 0 := by omega
  have h1 : ¬ (opOf w).toNat < 0x10 := by omega
  have h2 : ¬ (opOf w).toNat < 0x90 := by omega
  have h3 : (opOf w).toNat ≠ 0xAF := by omega
  have h4 : ¬ (opOf w).toNat < 0xB0 := by omega
  have h5 : (opOf w).toNat ≠ 0xB4 := by omega
  simp only [decode, build, h0, h1, h2, h3, h4, h5, none_, if_false]
  rfl

/-- Kind 01 with index bit 5 set (R80). -/
theorem spec_ofCode_bad {b : Byte} (h : b.extractLsb' 5 3 = 3) : Spec.ofCode b = none := by
  revert b; decide

theorem dst_bad {w : Word} (h : w.extractLsb' 53 3 = 3) : Spec.ofCode (w.extractLsb' 48 8) = none := by
  refine spec_ofCode_bad (Eq.trans ?_ h)
  apply BitVec.eq_of_getLsbD_eq
  intro m hm
  have : 5 + m < 8 := by omega
  simp [this, ← Nat.add_assoc]

theorem build_dst_bad {w : Word} (lo : 0x10 ≤ (opOf w).toNat) (hi : (opOf w).toNat < 0x90) (h : w.extractLsb' 53 3 = 3) (e : Instr) :
    build w ≠ .ok e := by
  have h0 : (opOf w).toNat ≠ 0 := by omega
  have h1 : ¬ (opOf w).toNat < 0x10 := by omega
  intro read
  simp only [build, h0, h1, hi, if_false, if_true] at read
  split at read <;>
    simp [except_bind_ok, need_ok, parseI, parseR, dst_bad h] at read

end Sys2Proof

open Sys2Proof Sys2Proof.Machine

/-- Settles O1, by the fields of each format read back (`decode_encode`, `decodeTcw_encode`). -/
theorem encodingsDecode : Obligations.EncodingsDecode :=
  ⟨fun _ _ => decode_encode, fun _ _ => decodeTcw_encode⟩

/-- Settles O2: a word is put together again from the fields read of it (`encode_build`). -/
theorem wordsReadWhole : Obligations.WordsReadWhole := by
  refine ⟨fun w e h => ?_, fun w => decode_above, fun w lo hi h e decodes => ?_⟩
  · obtain ⟨read, wf⟩ := decode_ok.mp h
    exact ⟨wf, encode_build read⟩
  · exact build_dst_bad lo hi h e (decode_ok.mp decodes).1

/-- Settles O3: each word evaluates to its instruction. -/
theorem specWordsDecode : Obligations.SpecWordsDecode := ⟨rfl, rfl, rfl, rfl, rfl, rfl, rfl, rfl, rfl, rfl, rfl, rfl⟩
end

section
/-! PROOFS. Guards and frames: what an instruction whose guard is 0 does, which registers the register instructions and the transfers write, and where
they leave the PC (R73, R75, R87, R128 to R134, R144). -/

namespace Sys2Proof.Machine

/-! ## Registers kept by one write -/

variable {a b : Slot} {writes : List RegName} {flags : Bool}

/-- What no register write touches. -/
theorem keepsRegs_of_regs (x : ∀ n, RegName.x n ∉ writes → b.readX n = a.readX n) (v : ∀ n, RegName.v n ∉ writes → b.readV n = a.readV n)
    (k : ∀ n, RegName.k n ∉ writes → b.readK n = a.readK n) (p : ∀ n, RegName.p n ∉ writes → b.readP n = a.readP n)
    (rest : b.fflags = a.fflags ∧ b.cnt = a.cnt ∧ b.frm = a.frm ∧ b.dom = a.dom ∧ b.status = a.status ∧ b.task = a.task ∧ b.q = a.q ∧
      b.eng = a.eng ∧ b.acq = a.acq ∧ b.tile = a.tile) : keepsRegs a b writes flags := by
  obtain ⟨fl, rest⟩ := rest
  exact ⟨x, v, k, p, by rw [fl, BitVec.and_self], fun _ => fl, rest⟩

@[simp] theorem keepsRegs_refl (a : Slot) (writes : List RegName) (flags : Bool) : keepsRegs a a writes flags :=
  keepsRegs_of_regs (fun _ _ => rfl) (fun _ _ => rfl) (fun _ _ => rfl) (fun _ _ => rfl) ⟨rfl, rfl, rfl, rfl, rfl, rfl, rfl, rfl, rfl, rfl⟩

theorem readV_congr {a b : Slot} (h : b.v = a.v) (n : BitVec 6) : b.readV n = a.readV n := by simp only [Slot.readV, h]
theorem readX_congr {a b : Slot} (h : b.x = a.x) (n : BitVec 5) : b.readX n = a.readX n := by simp only [Slot.readX, h]
theorem readK_congr {a b : Slot} (h : b.k = a.k) (n : BitVec 6) : b.readK n = a.readK n := by simp only [Slot.readK, h]
theorem readP_congr {a b : Slot} (h : b.p = a.p) (n : BitVec 3) : b.readP n = a.readP n := by simp only [Slot.readP, h]

theorem keepsRegs_writeX (sl : Slot) (n : BitVec 5) (w : Word) : keepsRegs sl (sl.writeX n w) [.x n] flags := by
  refine keepsRegs_of_regs (fun m h => readX_writeX_ne _ _ _ _ ?_) (fun m _ => readV_congr (by simp) m) (fun m _ => readK_congr (by simp) m)
    (fun m _ => readP_congr (by simp) m) (by simp)
  simpa using h

theorem keepsRegs_writeV (sl : Slot) (n : BitVec 6) (r : VReg) : keepsRegs sl (sl.writeV n r) [.v n] flags := by
  refine keepsRegs_of_regs (fun m _ => readX_congr (by simp) m) (fun m h => readV_writeV_ne _ _ _ _ ?_) (fun m _ => readK_congr (by simp) m)
    (fun m _ => readP_congr (by simp) m) (by simp)
  simpa using h

theorem keepsRegs_writeP (sl : Slot) (n : BitVec 3) (r : BitVec 32) : keepsRegs sl (sl.writeP n r) [.p n] flags := by
  refine keepsRegs_of_regs (fun m _ => readX_congr (by simp) m) (fun m _ => readV_congr (by simp) m) (fun m _ => readK_congr (by simp) m)
    (fun m h => readP_writeP_ne _ _ _ _ ?_) (by simp)
  simpa using h

theorem keepsRegs_writeK (sl : Slot) (n : BitVec 6) (w : Word) : keepsRegs sl (sl.writeK n w) [.k n] flags := by
  refine keepsRegs_of_regs (fun m _ => readX_congr (by simp) m) (fun m _ => readV_congr (by simp) m) (fun m h => readK_writeK_ne _ _ _ _ ?_)
    (fun m _ => readP_congr (by simp) m) (by simp)
  simpa using h

@[simp] theorem keepsRegs_wr (sl : Slot) (d : Spec) (t : Ty) (r : Word) : keepsRegs sl (sl.wr d t r) (dstRegs d) flags := by
  cases d with
  | x n => exact keepsRegs_writeX sl n _
  | v | c | lit => exact keepsRegs_refl ..

@[simp] theorem keepsRegs_wrW (sl : Slot) (d : Spec) (r : Word) : keepsRegs sl (sl.wrW d r) (dstRegs d) flags := keepsRegs_wr ..

@[simp] theorem keepsRegs_wrP (sl : Slot) (d : Spec) (m : BitVec 32) : keepsRegs sl (sl.wrP d m) (dstRegs d) flags := by
  cases d with
  | c n => exact keepsRegs_writeP sl _ m
  | x | v | lit => exact keepsRegs_refl ..

@[simp] theorem keepsRegs_wrV (sl : Slot) (d : Spec) (r : VReg) : keepsRegs sl (sl.wrV d r) (dstRegs d) flags := by
  cases d with
  | v n => exact keepsRegs_writeV sl n r
  | x | c | lit => exact keepsRegs_refl ..

/-- Flags are only gained. -/
@[simp] theorem keepsRegs_orFlags (fl : BitVec 5) (h : keepsRegs a b writes false) : keepsRegs a (b.orFlags fl) writes true := by
  obtain ⟨x, v, k, p, _, same, rest⟩ := h
  refine ⟨x, v, k, p, ?_, nofun, rest⟩
  have same := same rfl
  rw [Slot.orFlags, same]
  apply BitVec.eq_of_getLsbD_eq
  intro j _
  rw [BitVec.getLsbD_and, BitVec.getLsbD_or, Bool.and_or_distrib_left, Bool.and_self]
  exact Bool.or_eq_left_iff_imp.mpr fun h => (Bool.and_eq_true_iff.mp h).1

@[simp] theorem orFlags_none (sl : Slot) : sl.orFlags 0 = sl := by simp [Slot.orFlags]

@[simp] theorem keepsRegs_ite {sl new : Slot} {p : Prop} [Decidable p] (h : keepsRegs sl new writes flags) :
    keepsRegs sl (if p then new else sl) writes flags := by
  split
  · exact h
  · exact keepsRegs_refl ..

/-- Nothing raised by the elements is nothing raised. -/
@[simp] theorem govFlags_none (m : BitVec 32) (s n : Nat) : govFlags m s n (fun _ => 0) = 0 := by
  unfold govFlags
  induction List.range n with
  | nil => rfl
  | cons j l ih =>
    have step : (if gov m s j then (0 : BitVec 5) ||| 0 else 0) = 0 := by split <;> rfl
    exact (congrArg (fun z => l.foldl _ z) step).trans ih

/-! ## What an instruction comes to in its slot -/

/-- A result that leaves the slot running: it keeps every register but `writes`, and a target is aligned where the PC is. -/
def Res.stays (sl : Slot) (writes : List RegName) (flags : Bool) (r : Res) : Prop :=
  match r with
  | .done new => keepsRegs sl new writes flags
  | .jump new target => keepsRegs sl new writes flags ∧ (sl.pc.toNat % 8 = 0 → target.toNat % 8 = 0)
  | .trap _ => False

/-- An instruction works in its slot alone, and where `ok` holds of the slot it changes there its registers `writes`, and the PC. -/
def worksIn (e : Instr) (uses writes : List RegName) (flags : Bool) (ok : Slot → Prop) : Prop :=
  ∀ s, ∃ body, exec e s = runSlot s uses body ∧ ∀ sl, ok sl → (body sl).stays sl writes flags

/-- It always does. -/
def works (e : Instr) (uses writes : List RegName) (flags : Bool) : Prop := worksIn e uses writes flags (fun _ => True)

theorem works_of_done {e : Instr} {uses : List RegName}
    (h : ∀ s, ∃ body : Slot → Slot, exec e s = runSlot s uses (fun sl => .done (body sl)) ∧ ∀ sl, keepsRegs sl (body sl) writes flags) :
    works e uses writes flags := fun s => by
  obtain ⟨body, run, keeps⟩ := h s
  exact ⟨_, run, fun sl _ => keeps sl⟩

/-- The PC of the next instruction is aligned where this one's is. -/
theorem next_aligned {pc : VA} (h : pc.toNat % 8 = 0) : (pc + 8).toNat % 8 = 0 := by
  have eight : (8 : VA).toNat = 8 := rfl
  rw [BitVec.toNat_add, eight]
  omega

theorem relTarget_aligned {pc : VA} (disp : BitVec 32) (h : pc.toNat % 8 = 0) : (relTarget pc disp).toNat % 8 = 0 := by
  have eight : (8#48).toNat = 8 := rfl
  rw [relTarget, BitVec.toNat_add, BitVec.toNat_mul, eight]
  omega

section
variable {e : Instr} {uses : List RegName} {ok : Slot → Prop} {s t : State} {g : CoreId} {i : SlotId}

/-- The slot after an instruction that works in its slot alone: registers changed in `new`, and a PC that is aligned where the old one is. -/
theorem worksIn_slot (w : worksIn e uses writes flags ok) (tn : turn s g i uses) (hok : ok (s.slot g i)) (run : exec e s = .next t) :
    ∃ new pc, t = s.setSlot g i { new with pc := pc } ∧ keepsRegs (s.slot g i) new writes flags ∧
      ((s.slot g i).pc.toNat % 8 = 0 → pc.toNat % 8 = 0) := by
  obtain ⟨body, eq, stays⟩ := w s
  have stays := stays _ hok
  rw [eq] at run
  cases r : body (s.slot g i) with
  | done new =>
    rw [runSlot_done tn r] at run
    rw [r] at stays
    exact ⟨new, _, (Host.Outcome.next.inj run).symm, stays, next_aligned⟩
  | jump new target =>
    rw [runSlot_jump tn r] at run
    rw [r] at stays
    exact ⟨new, target, (Host.Outcome.next.inj run).symm, stays.1, stays.2⟩
  | trap x =>
    rw [r] at stays
    exact stays.elim

theorem worksIn_frame (w : worksIn e uses writes flags ok) (tn : turn s g i uses) (hok : ok (s.slot g i)) (run : exec e s = .next t) :
    keepsRegs (s.slot g i) (t.slot g i) writes flags ∧ onlySlot s t g i := by
  obtain ⟨new, pc, rfl, keeps, _⟩ := worksIn_slot w tn hok run
  rw [slot_setSlot]
  exact ⟨keeps, onlySlot_setSlot _⟩

theorem worksIn_aligned (w : worksIn e uses writes flags ok) (tn : turn s g i uses) (hok : ok (s.slot g i)) (run : exec e s = .next t)
    (aligned : (s.slot g i).pc.toNat % 8 = 0) : (t.slot g i).pc.toNat % 8 = 0 := by
  obtain ⟨new, pc, rfl, _, h⟩ := worksIn_slot w tn hok run
  rw [slot_setSlot]
  exact h aligned

end

/-! ## The forms: what each is once its meaning is unfolded -/

/-- A scalar instruction under its guard. -/
def scalarForm (flags : Bool) (c : FmtR → Instr) : Prop :=
  ∀ f s, ∃ body, exec (c f) s = scalarR f s body ∧ ∀ sl, keepsRegs sl (body sl) (dstRegs f.dst) flags

theorem integerForms_scalar : ∀ c ∈ integerForms, scalarForm false c := by
  unfold integerForms
  repeat
    refine List.forall_mem_cons.mpr ⟨fun f s => ?_, ?_⟩
    · delta exec
      dsimp only [execAdd, execSub, execMul, execMulh, execMulhn, execDiv, execDivn, execRem, execRemn, execAndR, execOrR, execXorR, execShl,
        execShr, execSra, execSlt, execSltn, execMin, execMax, execMinn, execMaxn, execClz, execCtz, execPopc, execBrev, execBswap, execExtr,
        execIns, execRol, execRor, execCsel, execMovp, intOp2, bitOp2, shiftOp, bitOp1, cmpOp]
      exact ⟨_, rfl, fun sl => keepsRegs_wr ..⟩
  exact List.forall_mem_nil _

theorem floatForms_scalar : ∀ c ∈ floatForms, scalarForm true c := by
  unfold floatForms
  repeat
    refine List.forall_mem_cons.mpr ⟨fun f s => ?_, ?_⟩
    · delta exec
      dsimp only [execFadd, execFsub, execFmul, execFfma, execFdiv, execFsqrt, execFmin, execFmax, execFcmp, execFclass, execFcvti, execFcvtf,
        execFcvtw, execFsgnj, execFsgnjn, execFsgnjx, execFrint, execFscal, arithOp, convertOp, floatOp]
      exact ⟨_, rfl, fun sl => keepsRegs_orFlags _ (keepsRegs_wr ..)⟩
  exact List.forall_mem_nil _

theorem immediateForms_imm : ∀ c ∈ immediateForms, ∀ f s, ∃ op, exec (c f) s = immOp f s op := by
  unfold immediateForms
  repeat
    refine List.forall_mem_cons.mpr ⟨fun f s => ?_, ?_⟩
    · delta exec
      dsimp only [execAddi, execAndi, execOri, execXori, execShli, execShri, execSrai, execSlti, execLi, execLih, execAdpc]
      exact ⟨_, rfl⟩
  exact List.forall_mem_nil _

/-- An instruction that its guard turns off moves on. -/
def branchForm (c : FmtB → Instr) : Prop :=
  ∀ f s, ∃ body, exec (c f) s = runSlot s (bRegs f) body ∧ ∀ sl, sl.guard f.pn f.pred = false → body sl = .done sl

theorem branchForms_guarded : ∀ c ∈ branchForms, branchForm c := by
  unfold branchForms
  repeat
    refine List.forall_mem_cons.mpr ⟨fun f s => ?_, ?_⟩
    · delta exec
      dsimp only [execJ, execJl, execJr, execJlr, execBeq, execBne, execBlt, execBge, execBltn, execBgen, execLoop, branchIf, jumpReg]
      refine ⟨_, rfl, fun sl off => ?_⟩
      simp only [off, Bool.false_and, Bool.false_eq_true, if_false]
  exact List.forall_mem_nil _

theorem guardedMemoryForms_guarded : ∀ c ∈ guardedMemoryForms, ∀ f s, ∃ go, exec (c f) s = guardedM f s [] go := by
  unfold guardedMemoryForms
  repeat
    refine List.forall_mem_cons.mpr ⟨fun f s => ?_, ?_⟩
    · delta exec
      dsimp only [execLd, execSt, execXtest, execErase, execPref, execFlush, execInval, execZero, execAmoadd, execAmoand, execAmoor, execAmoxor,
        execAmomin, execAmomax, execAmominn, execAmomaxn, execAmoswp, execAmocas, execAmofadd, execLr, execSc]
      exact ⟨_, rfl⟩
  exact List.forall_mem_nil _

theorem predicateForms_work : ∀ c ∈ predicateForms, ∀ f, works (c f) (rRegs f) (dstRegs f.dst) false := by
  unfold predicateForms
  repeat
    refine List.forall_mem_cons.mpr ⟨fun f => works_of_done fun s => ?_, ?_⟩
    · delta exec
      dsimp only [execPmov, execPand, execPor, execPxor, execPnot, predOp]
      exact ⟨_, rfl, fun sl => keepsRegs_wrP ..⟩
  exact List.forall_mem_nil _

theorem vectorForms_work : ∀ c ∈ vectorForms, ∀ f, works (c f) (rRegs f) (dstRegs f.dst) false := by
  unfold vectorForms
  repeat
    refine List.forall_mem_cons.mpr ⟨fun f => works_of_done fun s => ?_, ?_⟩
    · delta exec
      dsimp only [execVadd, execVsub, execVmul, execVmulh, execVmad, execVmin, execVmax, execVabs, execVand, execVor, execVxor, execVshl,
        execVshr, execVsra, execVadds, execVsubs, execVfabs, execVfneg, execVcmp, execVsel, execVpack, execVunpk, execVmov, execViota, execVclz,
        execVpopc, execVfclass, execVsetp, execVgetp, execVperm, execVrotl, execVslideup, execVslidedn, execVredsum, execVredmax, execVredmin,
        execVscan, execVextr, execVinsr, execVcompr, execVexpnd, vecInt, vecBits, vecShift, laneMove, vecOp, reduceInt]
      exact ⟨_, rfl, fun sl => by simp only [govFlags_none, orFlags_none, keepsRegs_wrV, keepsRegs_wrP, keepsRegs_wr, keepsRegs_ite]⟩
  exact List.forall_mem_nil _

theorem vectorFloatForms_work : ∀ c ∈ vectorFloatForms, ∀ f, works (c f) (rRegs f) (dstRegs f.dst) true := by
  unfold vectorFloatForms
  repeat
    refine List.forall_mem_cons.mpr ⟨fun f => works_of_done fun s => ?_, ?_⟩
    · delta exec
      dsimp only [execVfadd, execVfsub, execVfmul, execVffma, execVfdiv, execVfsqrt, execVfrcp, execVfrsq, execVfexp2, execVflog2, execVfmin,
        execVfmax, execVfrint, execVfclamp, execVfcmp, execVcvt, execVscal, execVfredsum, execVfredmax, execVfredmin, execVfscan, vecArith,
        vecOp, reduceFloat]
      exact ⟨_, rfl, fun sl => keepsRegs_orFlags _ (by simp only [keepsRegs_wrV, keepsRegs_wr, keepsRegs_wrP])⟩
  exact List.forall_mem_nil _

/-! ## The forms in their slot -/

theorem scalarForm_works {flags : Bool} {c : FmtR → Instr} (h : scalarForm flags c) (f : FmtR) :
    works (c f) (rRegs f) (dstRegs f.dst) flags := works_of_done fun s => by
  obtain ⟨body, run, keeps⟩ := h f s
  exact ⟨_, run, fun sl => keepsRegs_ite (keeps sl)⟩

theorem immediateForms_work : ∀ c ∈ immediateForms, ∀ f : FmtI, works (c f) (.p f.pred :: specRegs [f.dst, f.sa]) (dstRegs f.dst) false :=
  fun c hc f => works_of_done fun s => by
    obtain ⟨op, run⟩ := immediateForms_imm c hc f s
    exact ⟨_, run, fun sl => keepsRegs_ite (keepsRegs_wrW ..)⟩

/-- A transfer or none: it goes to a target that is aligned where the PC is. -/
theorem stays_ite {sl new : Slot} {target : VA} {p : Prop} [Decidable p] (keeps : keepsRegs sl new writes flags)
    (aligned : sl.pc.toNat % 8 = 0 → target.toNat % 8 = 0) : (if p then Res.jump new target else .done sl).stays sl writes flags := by
  split
  · exact ⟨keeps, aligned⟩
  · exact keepsRegs_refl ..

theorem maskBranchForms_work : ∀ c ∈ maskBranchForms, ∀ f, works (c f) (bRegs f) [] false := by
  unfold maskBranchForms
  repeat
    refine List.forall_mem_cons.mpr ⟨fun f s => ?_, ?_⟩
    · delta exec
      dsimp only [execBp, execBnp, execBvany, execBvall, branchMask]
      exact ⟨_, rfl, fun sl _ => stays_ite (keepsRegs_refl ..) (relTarget_aligned _)⟩
  exact List.forall_mem_nil _

theorem branches_work : ∀ c ∈ ([.j, .beq, .bne, .blt, .bge, .bltn, .bgen] : List (FmtB → Instr)), ∀ f, works (c f) (bRegs f) [] false := by
  repeat
    refine List.forall_mem_cons.mpr ⟨fun f s => ?_, ?_⟩
    · delta exec
      dsimp only [execJ, execBeq, execBne, execBlt, execBge, execBltn, execBgen, branchIf]
      exact ⟨_, rfl, fun sl _ => stays_ite (keepsRegs_refl ..) (relTarget_aligned _)⟩
  exact List.forall_mem_nil _

theorem jl_works (f : FmtB) : works (.jl f) (bRegs f) (dstRegs f.sa) false := fun s => by
  change ∃ body, execJl f s = runSlot s (bRegs f) body ∧ _
  exact ⟨_, rfl, fun _ _ => stays_ite (keepsRegs_wrW ..) (relTarget_aligned _)⟩

theorem loop_works (f : FmtB) : works (.loop f) (bRegs f) (dstRegs f.sa) false := fun s => by
  change ∃ body, execLoop f s = runSlot s (bRegs f) body ∧ _
  refine ⟨_, rfl, fun sl _ => ?_⟩
  by_cases on : sl.guard f.pn f.pred = true
  · rw [if_pos on]
    dsimp only
    split
    · exact ⟨keepsRegs_wrW .., relTarget_aligned _⟩
    · exact keepsRegs_wrW sl ..
  · rw [if_neg on]
    exact keepsRegs_refl ..

theorem counts_work : ∀ c ∈ ([.jl, .loop] : List (FmtB → Instr)), ∀ f, works (c f) (bRegs f) (dstRegs f.sa) false :=
  List.forall_mem_cons.mpr ⟨jl_works, List.forall_mem_cons.mpr ⟨loop_works, List.forall_mem_nil _⟩⟩

/-- A register transfer that is taken has an aligned target. -/
def targetOk (f : FmtB) (sl : Slot) : Prop := sl.guard f.pn f.pred = true → (regTarget sl f).toNat % 8 = 0

theorem jumpReg_works {e : Instr} {f : FmtB} {link : Spec} (h : ∀ s, exec e s = jumpReg f s link)
    (keeps : ∀ sl w, keepsRegs sl (sl.wrW link w) writes false) : worksIn e (bRegs f) writes false (targetOk f) := fun s => by
  refine ⟨_, h s, fun sl ok => ?_⟩
  by_cases on : sl.guard f.pn f.pred = true
  · rw [if_pos on]
    dsimp only
    rw [if_neg (not_not_intro (ok on))]
    exact ⟨keeps .., fun _ => ok on⟩
  · rw [if_neg on]
    exact keepsRegs_refl ..

theorem jr_works (f : FmtB) : worksIn (.jr f) (bRegs f) [] false (targetOk f) :=
  jumpReg_works (link := .x 0) (fun _ => rfl) (fun sl _ => keepsRegs_refl sl ..)

theorem jlr_works (f : FmtB) : worksIn (.jlr f) (bRegs f) (dstRegs f.sb) false (targetOk f) :=
  jumpReg_works (fun _ => rfl) (fun _ _ => keepsRegs_wrW ..)

/-! ## Guards -/

section
variable {s : State} {g : CoreId} {i : SlotId}

theorem scalarForm_off {flags : Bool} {c : FmtR → Instr} (h : scalarForm flags c) (f : FmtR) (tn : turn s g i (rRegs f))
    (off : (s.slot g i).guard f.pn f.pred = false) : exec (c f) s = .next (after s g i (s.slot g i)) := by
  obtain ⟨body, run, _⟩ := h f s
  rw [run, scalarR_turn f tn, guarded, if_neg (by rw [off]; nofun)]

theorem immediateForms_off {c : FmtI → Instr} (h : c ∈ immediateForms) (f : FmtI)
    (tn : turn s g i (.p f.pred :: specRegs [f.dst, f.sa])) (off : (s.slot g i).guard f.pn f.pred = false) :
    exec (c f) s = .next (after s g i (s.slot g i)) := by
  obtain ⟨op, run⟩ := immediateForms_imm c h f s
  rw [run, immOp_turn f tn, guarded, if_neg (by rw [off]; nofun)]

theorem branchForms_off {c : FmtB → Instr} (h : c ∈ branchForms) (f : FmtB) (tn : turn s g i (bRegs f))
    (off : (s.slot g i).guard f.pn f.pred = false) : exec (c f) s = .next (after s g i (s.slot g i)) := by
  obtain ⟨body, run, done⟩ := branchForms_guarded c h f s
  rw [run, runSlot_done tn (done _ off)]

theorem guardedMemoryForms_off {c : FmtM → Instr} (h : c ∈ guardedMemoryForms) (f : FmtM) (tn : turn s g i (mRegs f))
    (off : (s.slot g i).guard f.pn f.pred = false) : exec (c f) s = .next (after s g i (s.slot g i)) := by
  obtain ⟨go, run⟩ := guardedMemoryForms_guarded c h f s
  exact run.trans (guardedM_off f (uses := []) tn off go)

theorem ldk_off (f : FmtM) (tn : turn s g i (ldkRegs f ++ mRegs f)) (off : (s.slot g i).guard f.pn f.pred = false) :
    exec (.ldk f) s = .next (after s g i (s.slot g i)) := by
  change execLdk f s = _
  unfold execLdk
  exact guardedM_off f tn off _

end

/-! ## The families of forms -/

/-- The register instructions without float arithmetic. -/
theorem plainForms_work (c : FmtR → Instr) (hc : c ∈ integerForms ++ predicateForms ++ vectorForms) (f : FmtR) :
    works (c f) (rRegs f) (dstRegs f.dst) false := by
  rcases List.mem_append.mp hc with hc | hc
  · rcases List.mem_append.mp hc with hc | hc
    · exact scalarForm_works (integerForms_scalar c hc) f
    · exact predicateForms_work c hc f
  · exact vectorForms_work c hc f

/-- The register instructions with float arithmetic. -/
theorem floatingForms_work (c : FmtR → Instr) (hc : c ∈ floatForms ++ vectorFloatForms) (f : FmtR) :
    works (c f) (rRegs f) (dstRegs f.dst) true := by
  rcases List.mem_append.mp hc with hc | hc
  · exact scalarForm_works (floatForms_scalar c hc) f
  · exact vectorFloatForms_work c hc f

end Sys2Proof.Machine

open Sys2Proof Sys2Proof.Machine

/-- Settles O8: each guarded form is one of the shared operations under a guard, and each of these does nothing where the guard is 0. -/
theorem guardedOffDoesNothing : Obligations.GuardedOffDoesNothing := by
  refine ⟨fun _ _ => ⟨rfl, rfl⟩, fun s g i => ⟨fun c hc f tn off => ?_, fun c hc f tn off => immediateForms_off hc f tn off,
    fun c hc f tn off => branchForms_off hc f tn off, fun c hc f tn off => guardedMemoryForms_off hc f tn off, fun f tn off => ldk_off f tn off⟩⟩
  rcases List.mem_append.mp hc with hc | hc
  · exact scalarForm_off (integerForms_scalar c hc) f tn off
  · exact scalarForm_off (floatForms_scalar c hc) f tn off

/-- Settles O9: each form works in its slot alone (`works`), and changes there its destination. -/
theorem registerFrame : Obligations.RegisterFrame := by
  refine ⟨fun s t g i => ⟨?_, ?_, ?_, ?_⟩, fun s t g i f tn => ⟨?_, ?_, fun ok => ⟨?_, ?_⟩⟩⟩
  · exact fun c hc f tn => worksIn_frame (plainForms_work c hc f) tn trivial
  · exact fun c hc f tn => worksIn_frame (floatingForms_work c hc f) tn trivial
  · exact fun c hc f tn => worksIn_frame (immediateForms_work c hc f) tn trivial
  · exact fun c hc f tn => worksIn_frame (maskBranchForms_work c hc f) tn trivial
  · exact fun c hc => worksIn_frame (branches_work c hc f) tn trivial
  · exact fun c hc => worksIn_frame (counts_work c hc f) tn trivial
  · exact worksIn_frame (jr_works f) tn (fun _ => ok)
  · exact worksIn_frame (jlr_works f) tn (fun _ => ok)

/-- Settles O60: each form works in its slot alone, and its target, or the next PC, is aligned where the PC is. -/
theorem pcStaysAligned : Obligations.PcStaysAligned := by
  refine fun s t g i aligned => ⟨fun c hc f tn run => ?_, fun c hc f tn run => ?_, fun c hc f tn run => ?_, fun c hc f tn ok run => ?_⟩
  · simp only [List.mem_append] at hc
    rcases hc with (((hc | hc) | hc) | hc) | hc
    · exact worksIn_aligned (scalarForm_works (integerForms_scalar c hc) f) tn trivial run aligned
    · exact worksIn_aligned (scalarForm_works (floatForms_scalar c hc) f) tn trivial run aligned
    · exact worksIn_aligned (predicateForms_work c hc f) tn trivial run aligned
    · exact worksIn_aligned (vectorForms_work c hc f) tn trivial run aligned
    · exact worksIn_aligned (vectorFloatForms_work c hc f) tn trivial run aligned
  · exact worksIn_aligned (immediateForms_work c hc f) tn trivial run aligned
  · rcases List.mem_append.mp hc with hc | hc
    · simp only [List.mem_cons, List.not_mem_nil, or_false] at hc
      by_cases counts : c ∈ ([.jl, .loop] : List (FmtB → Instr))
      · exact worksIn_aligned (counts_work c counts f) tn trivial run aligned
      · refine worksIn_aligned (branches_work c ?_ f) tn trivial run aligned
        simp only [List.mem_cons, List.not_mem_nil, or_false] at counts ⊢
        tauto
    · exact worksIn_aligned (maskBranchForms_work c hc f) tn trivial run aligned
  · simp only [List.mem_cons, List.not_mem_nil, or_false] at hc
    rcases hc with rfl | rfl
    · exact worksIn_aligned (jr_works f) tn ok run aligned
    · exact worksIn_aligned (jlr_works f) tn ok run aligned

end

section
/-! PROOFS. Operands narrower than 64 bits (R73, R77). -/

namespace Sys2Proof.Machine

theorem width_pos_le (t : Ty) : 0 < t.width ∧ t.width ≤ 64 := by cases t <;> decide

/-- The low bits of a word, as a bit vector of the type's width. -/
theorem lowBits_eq_setWidth (t : Ty) (w : Word) : lowBits t w = (w.setWidth t.width).setWidth 64 := by
  apply BitVec.eq_of_toNat_eq
  rw [lowBits, BitVec.toNat_ofNat, BitVec.toNat_setWidth, BitVec.toNat_setWidth]

theorem toNat_lowBits (t : Ty) (w : Word) : (lowBits t w).toNat = w.toNat % 2 ^ t.width := by
  rw [lowBits, BitVec.toNat_ofNat]
  exact Nat.mod_eq_of_lt (lt_of_lt_of_le (Nat.mod_lt _ (Nat.two_pow_pos _)) (Nat.pow_le_pow_right (by decide) (width_pos_le t).2))

/-- The integer of a signed type is that of a bit vector of its width. -/
theorem intOf_eq_toInt {t : Ty} (h : t.isS = true) (w : Word) : intOf t w = (w.setWidth t.width).toInt := by
  have half : 2 ^ t.width = 2 * 2 ^ (t.width - 1) := by rw [← pow_succ', Nat.sub_add_cancel (width_pos_le t).1]
  rw [BitVec.toInt_eq_toNat_cond, BitVec.toNat_setWidth]
  dsimp only [intOf]
  rw [h, Bool.true_and, half]
  generalize w.toNat % (2 * 2 ^ (t.width - 1)) = n
  generalize 2 ^ (t.width - 1) = k
  by_cases big : k ≤ n
  · rw [if_pos (decide_eq_true big), if_neg (by omega)]
  · rw [if_neg (by simpa using big), if_pos (by omega)]

theorem patOf_n64 (z : Int) : patOf .n64 z = BitVec.ofInt 64 z := by
  apply BitVec.eq_of_toNat_eq
  rw [patOf, BitVec.toNat_ofNat, BitVec.toNat_ofInt]
  exact Nat.mod_eq_of_lt (by show _ < 2 ^ 64; have : ((2 ^ Ty.n64.width : Nat) : Int) = 2 ^ 64 := rfl; omega)

theorem extend_signed {t : Ty} (h : t.isS = true) (w : Word) : extend t w = (w.setWidth t.width).signExtend 64 := by
  rw [extend, if_pos h, patOf_n64, intOf_eq_toInt h]
  rfl

theorem extend_unsigned {t : Ty} (h : t.isS = false) (w : Word) : extend t w = (w.setWidth t.width).setWidth 64 := by
  rw [extend, h, if_neg Bool.false_ne_true, lowBits_eq_setWidth]

/-- A scalar result is read back sign-extended, or zero-extended. -/
theorem readX_wr_signed {t : Ty} (h : t.isS = true) {n : BitVec 5} (hn : n ≠ 0) (sl : Slot) (w : Word) :
    (sl.wr (.x n) t w).readX n = (w.setWidth t.width).signExtend 64 := by
  rw [← extend_signed h]
  exact readX_writeX _ _ _ hn

theorem readX_wr_unsigned {t : Ty} (h : t.isS = false) {n : BitVec 5} (hn : n ≠ 0) (sl : Slot) (w : Word) :
    (sl.wr (.x n) t w).readX n = (w.setWidth t.width).setWidth 64 := by
  rw [← extend_unsigned h]
  exact readX_writeX _ _ _ hn

/-- x0 reads 0 at every type. -/
theorem src_zero (sl : Slot) (t : Ty) : sl.src (.x 0) t = 0 := by
  apply BitVec.eq_of_toNat_eq
  show (lowBits t 0).toNat = 0
  rw [toNat_lowBits]
  exact Nat.zero_mod _

end Sys2Proof.Machine

open Sys2Proof Sys2Proof.Machine

/-- Settles O10: a result is extended by its type (`extend_signed`, `extend_unsigned`), a source is its low bits. -/
theorem narrowRegisters : Obligations.NarrowRegisters := by
  refine ⟨fun sl t w j => ⟨rfl, src_zero sl .n64, src_zero sl t, src_zero sl t, rfl, rfl, rfl⟩, fun sl n w hn =>
    ⟨⟨⟨?_, ?_, ?_, ?_⟩, ⟨?_, ?_, ?_, ?_⟩, ⟨?_, ?_, ?_, ?_⟩⟩, fun t => toNat_lowBits .., fun t k => toNat_lowBits .., fun _ _ => rfl,
      fun _ _ _ => rfl⟩⟩
  · exact readX_wr_signed rfl hn ..
  · exact readX_wr_signed rfl hn ..
  · exact readX_wr_signed rfl hn ..
  · exact (readX_wr_signed rfl hn ..).trans (by simp [Ty.width, Ty.size])
  · exact readX_wr_unsigned rfl hn ..
  · exact readX_wr_unsigned rfl hn ..
  · exact readX_wr_unsigned rfl hn ..
  · exact (readX_wr_unsigned rfl hn ..).trans (by simp [Ty.width, Ty.size])
  · exact readX_wr_unsigned rfl hn ..
  · exact readX_wr_unsigned rfl hn ..
  · exact readX_wr_unsigned rfl hn ..
  · exact (readX_wr_unsigned rfl hn ..).trans (by simp [Ty.width, Ty.size])

end

section
/-! PROOFS. The bitwise and shift results, and the transfers (R128, R129). -/

namespace Sys2Proof.Machine

section
variable {s : State} {g : CoreId} {i : SlotId}

theorem bitOp2_turn (f : FmtR) (tn : turn s g i (rRegs f)) (op : Word → Word → Word) :
    bitOp2 f s op = .next (after s g i (guarded (s.slot g i) f.pn f.pred
      ((s.slot g i).wr f.dst f.ty (lowBits f.ty (op ((s.slot g i).src f.sa f.ty) ((s.slot g i).src f.sb f.ty)))))) := scalarR_turn f tn _

theorem shiftOp_turn (f : FmtR) (tn : turn s g i (rRegs f)) (op : Word → Nat → Word) :
    shiftOp f s op = .next (after s g i (guarded (s.slot g i) f.pn f.pred
      ((s.slot g i).wr f.dst f.ty (op ((s.slot g i).src f.sa f.ty) ((s.slot g i).srcCount f.sb f.ty % (f.ty.width : Int)).toNat)))) :=
  scalarR_turn f tn _

/-- SLT and SLTN compare as integers of the type. -/
theorem lessOp_turn (f : FmtR) (tn : turn s g i (rRegs f)) :
    cmpOp f s (fun a b => decide (a < b)) = .next (after s g i (guarded (s.slot g i) f.pn f.pred
      ((s.slot g i).wrW f.dst (if intOf f.ty ((s.slot g i).src f.sa f.ty) < intOf f.ty ((s.slot g i).src f.sb f.ty) then 1 else 0)))) := by
  refine (scalarR_turn f tn _).trans (congrArg (fun w => Host.Outcome.next (after s g i (guarded _ _ _ (Slot.wrW _ _ w)))) ?_)
  exact if_congr decide_eq_true_iff rfl rfl

end

/-! ## Transfers -/

section
variable {s : State} {g : CoreId} {i : SlotId}

/-- What a transfer comes to: to its target where the condition holds, and on to the next instruction where it does not. -/
def goesWhere (s : State) (g : CoreId) (i : SlotId) (f : FmtB) (run : Host.Outcome State Fault Refusal) (yes : Prop) (sl : Slot) : Prop :=
  (yes → run = .next (jumped s g i sl (relTarget (s.slot g i).pc f.disp))) ∧ (¬ yes → run = .next (after s g i (s.slot g i)))

theorem branchIf_goes (f : FmtB) (tn : turn s g i (bRegs f)) (cond : Slot → Bool) {p : Prop} (h : cond (s.slot g i) = true ↔ p) :
    goesWhere s g i f (branchIf f s cond) (((s.slot g i).mask f.pn f.pred).getLsbD 0 = true ∧ p) (s.slot g i) := by
  have both : ((s.slot g i).guard f.pn f.pred && cond (s.slot g i)) = true ↔ ((s.slot g i).mask f.pn f.pred).getLsbD 0 = true ∧ p := by
    rw [Bool.and_eq_true, h]; rfl
  rw [branchIf_turn f tn]
  exact ⟨fun yes => by rw [if_pos (both.mpr yes)], fun no => by rw [if_neg (mt both.mp no)]⟩

theorem branchMask_goes (f : FmtB) (tn : turn s g i (bRegs f)) (cond : Slot → BitVec 32 → Bool) {p : Prop}
    (h : cond (s.slot g i) ((s.slot g i).mask f.pn f.pred) = true ↔ p) : goesWhere s g i f (branchMask f s cond) p (s.slot g i) := by
  rw [branchMask_turn f tn]
  exact ⟨fun yes => by rw [if_pos (h.mpr yes)], fun no => by rw [if_neg (mt h.mp no)]⟩

theorem j_goes (f : FmtB) (tn : turn s g i (bRegs f)) :
    goesWhere s g i f (execJ f s) (((s.slot g i).mask f.pn f.pred).getLsbD 0 = true) (s.slot g i) := by
  have h := branchIf_goes f tn (fun _ => true) (p := True) (by simp)
  rwa [and_true] at h

theorem jl_goes (f : FmtB) (tn : turn s g i (bRegs f)) :
    goesWhere s g i f (execJl f s) (((s.slot g i).mask f.pn f.pred).getLsbD 0 = true)
      ((s.slot g i).wrW f.sa (((s.slot g i).pc + 8).setWidth 64)) :=
  ⟨fun on => runSlot_jump tn (if_pos on), fun off => runSlot_done tn (if_neg off)⟩

theorem anyLane_iff (p q : Nat → Bool) (n : Nat) : (List.range n).any (fun k => p k && q k) = true ↔ ∃ k, k < n ∧ p k = true ∧ q k = true := by
  simp only [List.any_eq_true, List.mem_range, Bool.and_eq_true]

theorem allLanes_iff (p q : Nat → Bool) (n : Nat) : (List.range n).all (fun k => !p k || q k) = true ↔ ∀ k, k < n → p k = true → q k = true := by
  simp only [List.all_eq_true, List.mem_range, Bool.or_eq_true, Bool.not_eq_true', ← Bool.not_eq_true, imp_iff_not_or]

theorem laneNonzero_v {sl : Slot} {n : BitVec 6} {k : Nat} : laneNonzero sl (.v n) k = true ↔ elemOf (sl.readV n) 4 k ≠ 0 := bne_iff_ne

/-- LOOP counts down and goes on while the count is not 0. -/
theorem loop_turn (f : FmtB) (tn : turn s g i (bRegs f)) :
    let sl := s.slot g i
    (sl.guard f.pn f.pred = true → sl.srcW f.sa ≠ 1 →
      execLoop f s = .next (jumped s g i (sl.wrW f.sa (sl.srcW f.sa - 1)) (relTarget sl.pc f.disp))) ∧
    (sl.guard f.pn f.pred = true → sl.srcW f.sa = 1 → execLoop f s = .next (after s g i (sl.wrW f.sa 0))) ∧
    (¬ sl.guard f.pn f.pred = true → execLoop f s = .next (after s g i sl)) := by
  intro sl
  refine ⟨fun on more => runSlot_jump tn ?_, fun on last => runSlot_done tn ?_, fun off => runSlot_done tn (if_neg off)⟩
  · refine (if_pos on).trans (if_pos fun none => more ?_)
    exact BitVec.sub_eq_iff_eq_add.mp none
  · have none : sl.srcW f.sa - 1 = 0 := by rw [last]; rfl
    exact (if_pos on).trans ((if_neg (not_not_intro none)).trans (by rw [none]))

/-- JR and JLR, each with its link. -/
theorem jumpReg_turn (f : FmtB) (tn : turn s g i (bRegs f)) (link : Spec) :
    let sl := s.slot g i
    (sl.guard f.pn f.pred = true → (regTarget sl f).toNat % 8 = 0 →
      jumpReg f s link = .next (jumped s g i (sl.wrW link ((sl.pc + 8).setWidth 64)) (regTarget sl f))) ∧
    (sl.guard f.pn f.pred = true → (regTarget sl f).toNat % 8 ≠ 0 →
      jumpReg f s link = .next (raise s g i ⟨.align, (regTarget sl f).setWidth 64, 0⟩)) ∧
    (sl.guard f.pn f.pred = false → jumpReg f s link = .next (after s g i sl)) := by
  intro sl
  exact ⟨fun on aligned => runSlot_jump tn ((if_pos on).trans (if_neg (not_not_intro aligned))),
    fun on misaligned => runSlot_trap tn ((if_pos on).trans (if_pos misaligned)),
    fun off => runSlot_done tn (if_neg (by rw [off]; nofun))⟩

end

end Sys2Proof.Machine

open Sys2Proof Sys2Proof.Machine

/-- Settles O13: each instruction is a guarded scalar instruction with the function of the spec. -/
theorem bitwiseAndShiftResults : Obligations.BitwiseAndShiftResults := by
  intro s g i f tn
  exact ⟨bitOp2_turn f tn (fun a b => a &&& b), bitOp2_turn f tn (fun a b => a ||| b), bitOp2_turn f tn (fun a b => a ^^^ b),
    shiftOp_turn f tn (shlPat f.ty), shiftOp_turn f tn shrPat, shiftOp_turn f tn (sraPat f.ty),
    List.forall_mem_cons.mpr ⟨lessOp_turn f tn, List.forall_mem_cons.mpr ⟨lessOp_turn f tn, List.forall_mem_nil _⟩⟩⟩

/-- Settles O19: every branch is one of two shared operations (`branchIf_goes`, `branchMask_goes`), beside JL, LOOP, JR and JLR. -/
theorem transferResults : Obligations.TransferResults := by
  refine ⟨fun s g i f tn => ?_, fun s g i f tn => ?_⟩
  · obtain ⟨more, last, off⟩ := loop_turn f tn
    refine ⟨j_goes f tn, jl_goes f tn, branchIf_goes f tn (fun sl => sl.srcW f.sa == sl.srcW f.sb) beq_iff_eq,
      branchIf_goes f tn (fun sl => sl.srcW f.sa != sl.srcW f.sb) bne_iff_ne,
      branchIf_goes f tn (fun sl => (sl.srcW f.sa).slt (sl.srcW f.sb)) BitVec.slt_iff_toInt_lt,
      branchIf_goes f tn (fun sl => !(sl.srcW f.sa).slt (sl.srcW f.sb)) ?_,
      branchIf_goes f tn (fun sl => (sl.srcW f.sa).ult (sl.srcW f.sb)) BitVec.ult_iff_toNat_lt,
      branchIf_goes f tn (fun sl => !(sl.srcW f.sa).ult (sl.srcW f.sb)) ?_,
      branchMask_goes f tn (fun _ m => m != 0) bne_iff_ne, branchMask_goes f tn (fun _ m => m == 0) beq_iff_eq, ?_, more, last, off⟩
    · rw [Bool.not_eq_true', ← Bool.not_eq_true, BitVec.slt_iff_toInt_lt, not_lt]
    · rw [Bool.not_eq_true', ← Bool.not_eq_true, BitVec.ult_iff_toNat_lt, not_lt]
    · rintro ⟨n, hv⟩
      refine ⟨branchMask_goes f tn (fun sl m => (List.range 32).any (fun i => m.getLsbD i && laneNonzero sl f.sa i)) ?_,
        branchMask_goes f tn (fun sl m => (List.range 32).all (fun i => !m.getLsbD i || laneNonzero sl f.sa i)) ?_⟩
      · rw [anyLane_iff, hv]
        simp only [laneNonzero_v]
      · rw [allLanes_iff, hv]
        simp only [laneNonzero_v]
  · obtain ⟨go, trap, off⟩ := jumpReg_turn f tn (.x 0)
    obtain ⟨goL, trapL, offL⟩ := jumpReg_turn f tn f.sb
    exact ⟨fun on aligned => ⟨go on aligned, goL on aligned⟩,
      fun on bad => List.forall_mem_cons.mpr ⟨trap on bad, List.forall_mem_cons.mpr ⟨trapL on bad, List.forall_mem_nil _⟩⟩,
      fun no => List.forall_mem_cons.mpr ⟨off no, List.forall_mem_cons.mpr ⟨offL no, List.forall_mem_nil _⟩⟩⟩

end

section
/-! PROOFS. The results of the scalar float instructions (R133, R134). -/

namespace Sys2Proof.Machine

section
variable {s : State} {g : CoreId} {i : SlotId}

/-- Float arithmetic is one rounding of the exact value, with the flags of both. -/
theorem arithOp_turn (f : FmtR) (tn : turn s g i (rRegs f)) (op : RMode → Slot → FVal × BitVec 5) :
    let sl := s.slot g i
    let x := op (sl.modeOf f.mode) sl
    let r := roundStd f.ty (sl.modeOf f.mode) f.sat x.1
    arithOp f s op = .next (after s g i (guarded sl f.pn f.pred ((sl.wr f.dst f.ty r.1).orFlags (r.2 ||| x.2)))) := floatOp_turn f tn _ _

theorem convertOp_turn (f : FmtR) (tn : turn s g i (rRegs f)) :
    let sl := s.slot g i
    let r := convert f.ty (resultTy f) (sl.modeOf f.mode) f.sat (sl.src f.sa f.ty)
    convertOp f s = .next (after s g i (guarded sl f.pn f.pred ((sl.wr f.dst (resultTy f) r.1).orFlags r.2))) := floatOp_turn f tn _ _

/-- A compare raises NV for any NaN where its condition is ordered, and for a signalling one otherwise. -/
theorem compareNV_eq (c : Nat) (anyNan anySig : Bool) :
    compareNV c anyNan anySig = if (if 2 ≤ c ∧ c ≤ 5 then anyNan else anySig) = true then fNV else 0 := by
  have ordered : (decide (2 ≤ c) && decide (c ≤ 5)) = true ↔ 2 ≤ c ∧ c ≤ 5 := by simp
  rw [compareNV, flagIf, if_congr ordered rfl rfl]

theorem fcmp_turn (f : FmtR) (tn : turn s g i (rRegs f)) :
    let sl := s.slot g i
    let x := decodeStd f.ty (sl.src f.sa f.ty)
    let y := decodeStd f.ty (sl.src f.sb f.ty)
    let c := f.imm.toNat
    let nv := if 2 ≤ c ∧ c ≤ 5 then x.isNan || y.isNan else x.isSig || y.isSig
    execFcmp f s = .next (after s g i (guarded sl f.pn f.pred
      ((sl.wr f.dst .n64 (if floatCond c (cmpNum x y) then 1 else 0)).orFlags (if nv then fNV else 0)))) := by
  intro sl x y c nv
  rw [← compareNV_eq]
  exact floatOp_turn f tn _ _

end

end Sys2Proof.Machine

open Sys2Proof Sys2Proof.Machine

/-- Settles O21: the arithmetic is `arithOp` on the exact operation; the others are `floatOp` on the function that the spec names. -/
theorem floatResults : Obligations.FloatResults := by
  refine ⟨fun s g i f tn => ⟨?_, ?_, ?_, ?_, ?_, ?_, ?_⟩, fun s g i f tn => ⟨?_, ?_, fcmp_turn f tn, ?_, ?_, ?_, ?_, ?_, ?_⟩⟩
  · exact arithOp_turn f tn (fun m sl => addNum m (sl.fsrc f.sa f.ty) (sl.fsrc f.sb f.ty))
  · exact arithOp_turn f tn (fun m sl => addNum m (sl.fsrc f.sa f.ty) (sl.fsrc f.sb f.ty).negate)
  · exact arithOp_turn f tn (fun _ sl => mulNum (sl.fsrc f.sa f.ty) (sl.fsrc f.sb f.ty))
  · exact arithOp_turn f tn (fun m sl => fmaNum m (sl.fsrc f.sa f.ty) (sl.fsrc f.sb f.ty) (sl.fsrc f.sc f.ty))
  · exact arithOp_turn f tn (fun _ sl => divNum (sl.fsrc f.sa f.ty) (sl.fsrc f.sb f.ty))
  · exact arithOp_turn f tn (fun _ sl => sqrtNum (sl.fsrc f.sa f.ty))
  · exact arithOp_turn f tn (fun _ sl => scalNum (sl.fsrc f.sa f.ty) (sl.srcW f.sb).toInt)
  · exact floatOp_turn f tn f.ty (fun sl => minNum f.ty false (sl.src f.sa f.ty) (sl.src f.sb f.ty))
  · exact floatOp_turn f tn f.ty (fun sl => minNum f.ty true (sl.src f.sa f.ty) (sl.src f.sb f.ty))
  · exact floatOp_turn f tn .n64 (fun sl => (classOf f.ty (sl.src f.sa f.ty), 0))
  · exact List.forall_mem_cons.mpr ⟨convertOp_turn f tn, List.forall_mem_cons.mpr ⟨convertOp_turn f tn,
      List.forall_mem_cons.mpr ⟨convertOp_turn f tn, List.forall_mem_nil _⟩⟩⟩
  · exact floatOp_turn f tn f.ty (fun sl => (withSign f.ty (sl.src f.sa f.ty) (signBit f.ty (sl.src f.sb f.ty)), 0))
  · exact floatOp_turn f tn f.ty (fun sl => (withSign f.ty (sl.src f.sa f.ty) (!signBit f.ty (sl.src f.sb f.ty)), 0))
  · exact floatOp_turn f tn f.ty
      (fun sl => (withSign f.ty (sl.src f.sa f.ty) (signBit f.ty (sl.src f.sa f.ty) != signBit f.ty (sl.src f.sb f.ty)), 0))
  · exact floatOp_turn f tn f.ty (fun sl => frintOf f.ty (sl.modeOf f.mode) (sl.src f.sa f.ty))

end

section
/-! PROOFS. Elements of vectors, compares into predicates, and moves across lanes (R74, R75, R90, R149, R157, R160, R161). -/

namespace Sys2Proof.Machine

/-! ## Elements -/

section
variable {sz : Nat}

theorem elemOf_toNat (h : sz ≤ 8) (r : VReg) (j : Nat) : (elemOf r sz j).toNat = r.toNat / 2 ^ (8 * sz * j) % 2 ^ (8 * sz) := by
  rw [elemOf, BitVec.toNat_ofNat]
  exact Nat.mod_eq_of_lt (lt_of_lt_of_le (Nat.mod_lt _ (Nat.two_pow_pos _)) (Nat.pow_le_pow_right (by decide) (by omega)))

theorem vbuild_toNat {n : Nat} (h : 8 * sz * n ≤ 1024) (f : Nat → Word) :
    (vbuild sz n f).toNat = packFields (8 * sz) (fun j => (f j).toNat) n := by
  simp only [vbuild, BitVec.toNat_ofNat, packFields_mod _ _ h]

/-- An element that is built reads back, cut to its size. -/
theorem elemOf_vbuild {n j : Nat} (hs : sz ≤ 8) (h : 8 * sz * n ≤ 1024) (hj : j < n) (f : Nat → Word) :
    (elemOf (vbuild sz n f) sz j).toNat = (f j).toNat % 2 ^ (8 * sz) := by
  rw [elemOf_toNat hs, vbuild_toNat h, packFields_field _ _ _ _ hj]

/-- A register is made of its elements. -/
theorem vbuild_elemOf {n : Nat} (hs : sz ≤ 8) (h : 8 * sz * n = 1024) (r : VReg) : vbuild sz n (elemOf r sz) = r := by
  apply BitVec.eq_of_toNat_eq
  rw [vbuild_toNat h.le]
  simp only [elemOf_toNat hs]
  rw [packFields_fields, h, Nat.mod_eq_of_lt r.isLt]

end

/-! ## Predicates -/

/-- A predicate has the bits it is built from. -/
theorem getLsbD_pbuild (c : Nat → Bool) {k : Nat} (hk : k < 32) : (pbuild c).getLsbD k = c k := by
  have field := packFields_field 1 (fun i => if c i then 1 else 0) k 32 hk
  rw [one_mul, pow_one] at field
  rw [pbuild, BitVec.getLsbD_ofNat, Nat.testBit_eq_decide_div_mod_eq, field, decide_eq_true hk, Bool.true_and]
  cases c k <;> rfl

/-- Lane k of a compare. -/
theorem getLsbD_maskOf (m : BitVec 32) (sz : Nat) (c : Nat → Bool) {k : Nat} (hk : k < 32) : (maskOf m sz c).getLsbD k = true ↔
    if sz = 8 then m.getLsbD (2 * (k / 2)) = true ∧ c (k / 2) = true
    else m.getLsbD k = true ∧ ∀ j, j < 4 / sz → c (4 / sz * k + j) = true := by
  rw [maskOf, getLsbD_pbuild _ hk]
  split
  · exact Bool.and_eq_true_iff
  · simp only [Bool.and_eq_true, List.all_eq_true, List.mem_range]

/-! ## Elementwise instructions that raise no flag -/

section
variable {s : State} {g : CoreId} {i : SlotId}

theorem laneMove_turn (f : FmtR) (tn : turn s g i (rRegs f)) (pick : Slot → Nat → Nat → Word) :
    let sl := s.slot g i
    laneMove f s pick = .next (after s g i (sl.wrV f.dst (vmerge (sl.mask f.pn f.pred) f.ty.size (sl.oldV f.dst) (pick sl (128 / f.ty.size))))) := by
  rw [laneMove, vecOp_turn f tn, govFlags_none, orFlags_none]

theorem vcmp_turn (f : FmtR) (tn : turn s g i (rRegs f)) :
    let sl := s.slot g i
    execVcmp f s = .next (after s g i (sl.wrP f.dst (maskOf (sl.mask f.pn f.pred) f.ty.size (fun j =>
      intCond f.imm.toNat (sl.vint f.sa f.ty j) (sl.vint f.sb f.ty j) (sl.vsrc f.sa f.ty j).toNat (sl.vsrc f.sb f.ty j).toNat)))) :=
  runSlot_done tn rfl

theorem vfcmp_turn (f : FmtR) (tn : turn s g i (rRegs f)) :
    let sl := s.slot g i
    let r := fun j => floatCompare f.ty f.imm.toNat (sl.vsrc f.sa f.ty j) (sl.vsrc f.sb f.ty j)
    execVfcmp f s = .next (after s g i ((sl.wrP f.dst (maskOf (sl.mask f.pn f.pred) f.ty.size (fun j => (r j).1))).orFlags
      (govFlags (sl.mask f.pn f.pred) f.ty.size (128 / f.ty.size) (fun j => (r j).2)))) := runSlot_done tn rfl

theorem vsetp_turn (f : FmtR) (tn : turn s g i (rRegs f)) :
    let sl := s.slot g i
    execVsetp f s = .next (after s g i (sl.wrP f.dst (sl.mask f.pn f.pred &&&
      pbuild (fun k => decide (4 * k / f.ty.size < (sl.srcW f.sa).toNat))))) := runSlot_done tn rfl

theorem vperm_turn (f : FmtR) (tn : turn s g i (rRegs f)) :
    let sl := s.slot g i
    execVperm f s = .next (after s g i (sl.wrV f.dst (vmerge (sl.mask f.pn f.pred) f.ty.size (sl.oldV f.dst)
      (fun j => sl.vsrc f.sa f.ty (sl.vcount f.sb f.ty j % ((128 / f.ty.size : Nat) : Int)).toNat)))) := laneMove_turn f tn _

theorem vrotl_turn (f : FmtR) (tn : turn s g i (rRegs f)) :
    let sl := s.slot g i
    execVrotl f s = .next (after s g i (sl.wrV f.dst (vmerge (sl.mask f.pn f.pred) f.ty.size (sl.oldV f.dst)
      (fun j => sl.vsrc f.sa f.ty (((j : Int) - (sl.srcW f.sb).toInt) % ((128 / f.ty.size : Nat) : Int)).toNat)))) := laneMove_turn f tn _

theorem vslideup_turn (f : FmtR) (tn : turn s g i (rRegs f)) :
    let sl := s.slot g i
    let n := 128 / f.ty.size
    let r := slideBy f sl n
    execVslideup f s = .next (after s g i (sl.wrV f.dst (vmerge (sl.mask f.pn f.pred) f.ty.size (sl.oldV f.dst)
      (fun j => if r ≤ j then sl.vsrc f.sa f.ty (j - r) else sl.vsrc f.sc f.ty (n - r + j))))) := laneMove_turn f tn _

theorem vslidedn_turn (f : FmtR) (tn : turn s g i (rRegs f)) :
    let sl := s.slot g i
    let n := 128 / f.ty.size
    let r := slideBy f sl n
    execVslidedn f s = .next (after s g i (sl.wrV f.dst (vmerge (sl.mask f.pn f.pred) f.ty.size (sl.oldV f.dst)
      (fun j => if j + r < n then sl.vsrc f.sa f.ty (j + r) else sl.vsrc f.sc f.ty (j + r - n))))) := laneMove_turn f tn _

theorem vextr_on (f : FmtR) (tn : turn s g i (rRegs f)) (on : gov ((s.slot g i).mask f.pn f.pred) f.ty.size (laneIndex f (s.slot g i)) = true) :
    execVextr f s = .next (after s g i ((s.slot g i).wr f.dst f.ty ((s.slot g i).vsrc f.sa f.ty (laneIndex f (s.slot g i))))) :=
  runSlot_done tn (congrArg Res.done (if_pos on))

theorem vextr_off (f : FmtR) (tn : turn s g i (rRegs f)) (off : gov ((s.slot g i).mask f.pn f.pred) f.ty.size (laneIndex f (s.slot g i)) = false) :
    execVextr f s = .next (after s g i (s.slot g i)) := runSlot_done tn (congrArg Res.done (if_neg (by rw [off]; nofun)))

theorem vinsr_turn (f : FmtR) (tn : turn s g i (rRegs f)) :
    let sl := s.slot g i
    execVinsr f s = .next (after s g i (sl.wrV f.dst (vbuild f.ty.size (128 / f.ty.size)
      (fun j => if j = laneIndex f sl ∧ gov (sl.mask f.pn f.pred) f.ty.size (laneIndex f sl) = true then sl.src f.sa f.ty
        else elemOf (sl.oldV f.dst) f.ty.size j)))) := by
  refine runSlot_done tn (congrArg (fun r => Res.done (Slot.wrV _ _ (vbuild _ _ r))) (funext fun j => ?_))
  exact if_congr (by simp only [Bool.and_eq_true, decide_eq_true_eq]) rfl rfl

theorem vcompr_turn (f : FmtR) (tn : turn s g i (rRegs f)) :
    let sl := s.slot g i
    execVcompr f s = .next (after s g i (sl.wrV f.dst (vbuild f.ty.size (128 / f.ty.size)
      (fun j => (((governed (sl.mask f.pn f.pred) f.ty.size)[j]?).map (sl.vsrc f.sa f.ty)).getD 0)))) := by
  refine runSlot_done tn (congrArg (fun r => Res.done (Slot.wrV _ _ (vbuild _ _ r))) (funext fun j => ?_))
  cases (governed ((s.slot g i).mask f.pn f.pred) f.ty.size)[j]? <;> rfl

theorem vexpnd_turn (f : FmtR) (tn : turn s g i (rRegs f)) :
    let sl := s.slot g i
    let on := governed (sl.mask f.pn f.pred) f.ty.size
    execVexpnd f s = .next (after s g i (sl.wrV f.dst (vmerge (sl.mask f.pn f.pred) f.ty.size (sl.oldV f.dst)
      (fun j => sl.vsrc f.sa f.ty (on.filter (fun k => k < j)).length)))) := runSlot_done tn rfl

end

end Sys2Proof.Machine

open Sys2Proof Sys2Proof.Machine

/-- Settles O23: the elements of a register are fields side by side (`packFields`). -/
theorem vectorElements : Obligations.VectorElements := by
  intro m sz old f hs
  have sizes : sz = 1 ∨ sz = 2 ∨ sz = 4 ∨ sz = 8 := by simpa using hs
  have small : sz ≤ 8 := by omega
  have whole : 8 * sz * (128 / sz) = 1024 := by rcases sizes with rfl | rfl | rfl | rfl <;> rfl
  refine ⟨fun j hj => ?_, vbuild_elemOf small whole old, fun j _ => ?_⟩
  · rw [vmerge, elemOf_vbuild small whole.le hj]
    split
    · rfl
    · rw [elemOf_toNat small, Nat.mod_mod]
  · rw [gov, mul_comm sz j]
    rcases sizes with rfl | rfl | rfl | rfl <;> rfl

/-- Settles O26: a compare builds its predicate bit by bit (`getLsbD_maskOf`). -/
theorem vectorCompares : Obligations.VectorCompares := by
  intro s g i f tn
  refine ⟨⟨_, vcmp_turn f tn, fun k hk => getLsbD_maskOf _ _ _ hk⟩, ⟨_, vfcmp_turn f tn, fun k hk => getLsbD_maskOf _ _ _ hk⟩,
    ⟨_, vsetp_turn f tn, fun k hk => ?_⟩⟩
  rw [BitVec.getLsbD_and, getLsbD_pbuild _ hk, Bool.and_eq_true, decide_eq_true_eq]

/-- Settles O28: the permutes and slides are `laneMove`; the others write as R160 and R161 say. -/
theorem laneMoves : Obligations.LaneMoves := by
  intro s g i f tn
  exact ⟨vperm_turn f tn, vrotl_turn f tn, vslideup_turn f tn, vslidedn_turn f tn, vextr_on f tn, vextr_off f tn, vinsr_turn f tn,
    vcompr_turn f tn, vexpnd_turn f tn⟩

end

section
/-! PROOFS. What a load writes to its registers (R73, R226, R233 to R235, R240). -/

namespace Sys2Proof.Machine

variable {a b c : Slot} {writes more : List RegName}

theorem keepsRegs_trans (ab : keepsRegs a b writes false) (bc : keepsRegs b c writes false) : keepsRegs a c writes false := by
  obtain ⟨x, v, k, p, _, fl, cnt, frm, dom, status, task, q, eng, acq, tile⟩ := ab
  obtain ⟨x', v', k', p', _, fl', cnt', frm', dom', status', task', q', eng', acq', tile'⟩ := bc
  exact keepsRegs_of_regs (fun n h => (x' n h).trans (x n h)) (fun n h => (v' n h).trans (v n h)) (fun n h => (k' n h).trans (k n h))
    (fun n h => (p' n h).trans (p n h)) ⟨(fl' rfl).trans (fl rfl), cnt'.trans cnt, frm'.trans frm, dom'.trans dom, status'.trans status,
      task'.trans task, q'.trans q, eng'.trans eng, acq'.trans acq, tile'.trans tile⟩

theorem keepsRegs_mono (sub : writes ⊆ more) {flags : Bool} (h : keepsRegs a b writes flags) : keepsRegs a b more flags := by
  obtain ⟨x, v, k, p, rest⟩ := h
  exact ⟨fun n hn => x n (mt (@sub _) hn), fun n hn => v n (mt (@sub _) hn), fun n hn => k n (mt (@sub _) hn), fun n hn => p n (mt (@sub _) hn), rest⟩

/-! ## Consecutive registers -/

theorem keepsRegs_putKs (r : BitVec 6) : ∀ (vals : List (Nat × Word)) (sl : Slot), (∀ x ∈ vals, RegName.k (r + BitVec.ofNat 6 x.1) ∈ writes) →
    keepsRegs sl (putKs sl r vals) writes false
  | [], sl, _ => keepsRegs_refl ..
  | x :: l, sl, h => by
    refine keepsRegs_trans (keepsRegs_mono ?_ (keepsRegs_writeK ..)) (keepsRegs_putKs r l _ fun y hy => h y (List.mem_cons_of_mem _ hy))
    exact List.cons_subset.mpr ⟨h x List.mem_cons_self, List.nil_subset _⟩

theorem keepsRegs_putXs (r : BitVec 5) : ∀ (vals : List (Nat × Word)) (sl : Slot), (∀ x ∈ vals, RegName.x (r + BitVec.ofNat 5 x.1) ∈ writes) →
    keepsRegs sl (putXs sl r vals) writes false
  | [], sl, _ => keepsRegs_refl ..
  | x :: l, sl, h => by
    refine keepsRegs_trans (keepsRegs_mono ?_ (keepsRegs_writeX ..)) (keepsRegs_putXs r l _ fun y hy => h y (List.mem_cons_of_mem _ hy))
    exact List.cons_subset.mpr ⟨h x List.mem_cons_self, List.nil_subset _⟩

theorem putKs_append (r : BitVec 6) (x : Nat × Word) : ∀ (l : List (Nat × Word)) (sl : Slot),
    putKs sl r (l ++ [x]) = (putKs sl r l).writeK (r + BitVec.ofNat 6 x.1) x.2
  | [], _ => rfl
  | _ :: l, _ => putKs_append r x l _

/-- No two of 64 consecutive k registers are the same. -/
theorem kNumber_ne (r : BitVec 6) {j n : Nat} (h : j < n) (hn : n < 64) : r + BitVec.ofNat 6 j ≠ r + BitVec.ofNat 6 n := by
  intro same
  have nat := congrArg BitVec.toNat (add_left_cancel same)
  rw [BitVec.toNat_ofNat, BitVec.toNat_ofNat] at nat
  omega

theorem readK_putKs (r : BitVec 6) (f : Nat → Word) (sl : Slot) : ∀ n, n ≤ 64 → ∀ j, j < n →
    (putKs sl r ((List.range n).map (fun j => (j, f j)))).readK (r + BitVec.ofNat 6 j) = f j
  | n + 1, hn, j, hj => by
    rw [List.range_succ, List.map_append, List.map_singleton, putKs_append]
    rcases Nat.lt_succ_iff_lt_or_eq.mp hj with lt | rfl
    · rw [readK_writeK_ne _ _ _ _ (kNumber_ne r lt hn)]
      exact readK_putKs r f sl n (by omega) j lt
    · exact readK_writeK ..

/-! ## One register -/

theorem putLoad_x0 (sl : Slot) (sz : Nat) (sext : Bool) (vals : List (Nat × Word)) : sl.putLoad sz (.x 0 sext) vals = sl := by
  cases vals <;> rfl

/-- A loaded value is extended by its sign, or by zeros. -/
theorem extLoad_signed {sz : Nat} (h : 0 < sz ∧ sz ≤ 8) (w : Word) : extLoad sz true w = (w.setWidth (8 * sz)).signExtend 64 := by
  apply BitVec.eq_of_toNat_eq
  rw [BitVec.toNat_signExtend, BitVec.toNat_setWidth, BitVec.toNat_setWidth, BitVec.msb_eq_getLsbD_last, BitVec.getLsbD_setWidth,
    decide_eq_true (by omega : 8 * sz - 1 < 8 * sz), Bool.true_and]
  have below : 2 ^ (8 * sz) ≤ 2 ^ 64 := Nat.pow_le_pow_right (by decide) (by omega)
  have low := Nat.mod_lt w.toNat (Nat.two_pow_pos (8 * sz))
  have cut : w.toNat % 2 ^ (8 * sz) % 2 ^ 64 = w.toNat % 2 ^ (8 * sz) := Nat.mod_eq_of_lt (by omega)
  rw [cut, extLoad]
  rcases Nat.lt_or_eq_of_le h.2 with lt | rfl
  · rw [decide_eq_true lt, Bool.true_and, Bool.true_and]
    split
    · rw [BitVec.toNat_ofNat]
      exact Nat.mod_eq_of_lt (by omega)
    · rw [BitVec.toNat_ofNat, cut, Nat.add_zero]
  · show (BitVec.ofNat 64 (w.toNat % 2 ^ 64)).toNat = w.toNat % 2 ^ 64 + if _ then 2 ^ 64 - 2 ^ 64 else 0
    rw [Nat.sub_self, ite_self, BitVec.toNat_ofNat, Nat.mod_mod, Nat.add_zero]

theorem extLoad_unsigned (sz : Nat) (w : Word) : extLoad sz false w = (w.setWidth (8 * sz)).setWidth 64 := by
  apply BitVec.eq_of_toNat_eq
  rw [BitVec.toNat_setWidth, BitVec.toNat_setWidth]
  exact BitVec.toNat_ofNat ..

/-- An element of a vector is the one read for it, or the old one. -/
theorem elemOf_putLoad {sz j : Nat} (hs : sz ≤ 8) (whole : 8 * sz * (128 / sz) ≤ 1024) (hj : j < 128 / sz) (sl : Slot) (r : BitVec 6)
    (vals : List (Nat × Word)) : elemOf ((sl.putLoad sz (.v r) vals).readV r) sz j =
      match vals.find? (fun x => x.1 == j) with
      | some x => (x.2.setWidth (8 * sz)).setWidth 64
      | none => elemOf (sl.readV r) sz j := by
  apply BitVec.eq_of_toNat_eq
  rw [Slot.putLoad, readV_writeV, elemOf_vbuild hs whole hj, valOf]
  have below : 2 ^ (8 * sz) ≤ 2 ^ 64 := Nat.pow_le_pow_right (by decide) (by omega)
  cases vals.find? (fun x => x.1 == j) with
  | none =>
    show (elemOf _ _ _).toNat % _ = (elemOf _ _ _).toNat
    rw [elemOf_toNat hs, Nat.mod_mod]
  | some x =>
    show x.2.toNat % _ = ((x.2.setWidth (8 * sz)).setWidth 64).toNat
    rw [BitVec.toNat_setWidth, BitVec.toNat_setWidth]
    exact (Nat.mod_eq_of_lt (lt_of_lt_of_le (Nat.mod_lt _ (Nat.two_pow_pos _)) below)).symm

theorem keepsRegs_putLoad (sl : Slot) (sz : Nat) (d : LoadDest) (vals : List (Nat × Word)) (ks : ∀ r n, d = .k r n → ∀ x ∈ vals, x.1 < n)
    (xs : ∀ r, d = .xs r → ∀ x ∈ vals, x.1 < 8) : keepsRegs sl (sl.putLoad sz d vals) d.regs false := by
  cases d with
  | discard => exact keepsRegs_refl ..
  | x r sext =>
    cases vals with
    | nil => exact keepsRegs_refl ..
    | cons y l =>
      by_cases zero : r = 0
      · subst zero
        exact keepsRegs_refl sl ..
      · rw [LoadDest.regs, if_neg zero]
        exact keepsRegs_writeX sl r _
  | v r => exact keepsRegs_writeV sl r _
  | k r n => exact keepsRegs_putKs r vals sl fun x hx => List.mem_map.mpr ⟨x.1, List.mem_range.mpr (ks r n rfl x hx), rfl⟩
  | xs r => exact keepsRegs_putXs r vals sl fun x hx => List.mem_map.mpr ⟨x.1, List.mem_range.mpr (xs r rfl x hx), rfl⟩
  | vx r pd m =>
    exact keepsRegs_trans (keepsRegs_mono (by simp [LoadDest.regs]) (keepsRegs_writeV sl r _)) (keepsRegs_mono (by simp [LoadDest.regs]) (keepsRegs_writeP _ pd m))

end Sys2Proof.Machine

open Sys2Proof Sys2Proof.Machine

/-- Settles O30: `putLoad` destination by destination. -/
theorem loadDestinations : Obligations.LoadDestinations := by
  refine ⟨fun sl sz sext vals => ⟨rfl, putLoad_x0 ..⟩, fun sl sz hs => ?_⟩
  have sizes : sz = 1 ∨ sz = 2 ∨ sz = 4 ∨ sz = 8 := by simpa using hs
  have whole : 8 * sz * (128 / sz) ≤ 1024 := Nat.mul_assoc .. ▸ Nat.mul_le_mul_left 8 (Nat.mul_div_le 128 sz)
  refine ⟨fun r j w hr => ⟨?_, ?_⟩, fun r vals j hj => elemOf_putLoad (by omega) whole hj sl r vals,
    fun r n f j hj hn => readK_putKs r f sl n hn j hj, fun r pd m vals hpd => ⟨readP_writeP _ _ _ hpd, readV_congr (writeP_v ..) r⟩,
    keepsRegs_putLoad sl sz⟩
  · rw [← extLoad_signed (by omega)]
    exact readX_writeX _ _ _ hr
  · rw [← extLoad_unsigned]
    exact readX_writeX _ _ _ hr

end

section
/-! PROOFS. The state right after reset, and what a fetch reads (R73, R79, R143, R367, R368). -/

namespace Sys2Proof.Machine

/-! ## Reset -/

@[simp] theorem core_reset (g : CoreId) : State.reset.core g = Core.reset := Vector.getElem_replicate ..

@[simp] theorem slot_reset (g : CoreId) (i : SlotId) : State.reset.slot g i = Slot.reset := by
  rw [State.slot, core_reset]
  exact Vector.getElem_replicate ..

theorem readX_reset (n : BitVec 5) : Slot.reset.readX n = 0 := by
  rw [Slot.readX]
  split
  · rfl
  · exact Vector.getElem_replicate ..

theorem memoriesOk_reset : memoriesOk State.reset := ⟨reset_mem_wf, rfl, fun g => by rw [core_reset]; rfl⟩

/-! ## Fetch -/

section
variable {s s1 : State} {g : CoreId} {i : SlotId} {pa : Nat} {mt : BitVec 2} {gr : Nat}

/-- A word in memory is the doubleword at the coherence point. -/
theorem wordOfPlace_mem (d : Dom) (va : VA) (clean : s.poisonedAt pa 8 = false) :
    s.wordOfPlace g d va (.mem pa mt gr) = (s, .ok (s.cohWord pa)) := by
  rw [State.wordOfPlace, clean]
  rfl

/-- What may be executed is the word read, or the one held for its address. -/
theorem heldWord_eq_or (c : Core) (d : Dom) (pc : VA) (new : Word) (now : Nat) :
    c.heldWord d pc new now = new ∨ ∃ e ∈ c.fetched, e.dom = d ∧ e.va = pc ∧ c.heldWord d pc new now = e.word := by
  rw [Core.heldWord]
  cases found : c.fetched.find? (fun e => e.dom == d && e.va == pc) with
  | none => exact .inl rfl
  | some e =>
    dsimp only
    split
    · have here := List.find?_some found
      rw [Bool.and_eq_true, beq_iff_eq, beq_iff_eq] at here
      exact .inr ⟨e, List.mem_of_find?_eq_some found, here.1, here.2, rfl⟩
    · exact .inl rfl

end

end Sys2Proof.Machine

open Sys2Proof Sys2Proof.Machine

/-- Settles O58: every core and every slot is the reset one. -/
theorem resetState : Obligations.ResetState := by
  refine ⟨rfl, rfl, rfl, memoriesOk_reset, fun g i => ?_, fun g => ?_⟩
  · rw [slot_reset]
    exact ⟨rfl, rfl, rfl, readX_reset, fun _ => Vector.getElem_replicate .., fun _ => Vector.getElem_replicate ..⟩
  · rw [core_reset]
    exact ⟨rfl, rfl, rfl, rfl⟩

/-- Settles O6: a fetch from memory, once its place is known, waits or reads at the coherence point. -/
theorem fetchReadsMemory : Obligations.FetchReadsMemory := by
  intro s s1 g i pa mt gr outside place waits
  refine ⟨fun w => ?_, fun w clean => ?_⟩
  · rw [State.fetch, outside, place]
    exact if_pos w
  · refine ⟨_, ?_, heldWord_eq_or (s1.core g) (s.slot g i).dom (s.slot g i).pc (s1.cohWord pa) s1.now⟩
    rw [State.fetch, outside, place]
    dsimp only
    rw [if_neg Bool.false_ne_true, if_neg (ne_true_of_eq_false w), wordOfPlace_mem _ _ clean]

end

section
/-! PROOFS. The order of an access's failures, and what a scalar load or store raises (R94, R163, R192, R228, R231). -/

namespace Sys2Proof.Machine

/-! ## The first failure -/

/-- A failure is raised before another, or is of the same rank and address. -/
def BadSpot.before (b x : BadSpot) : Prop := b.rank < x.rank ∨ (b.rank = x.rank ∧ b.va.toNat ≤ x.va.toNat)

theorem before_refl (b : BadSpot) : b.before b := .inr ⟨rfl, le_rfl⟩

theorem before_trans {b c d : BadSpot} (bc : b.before c) (cd : c.before d) : b.before d := by
  unfold BadSpot.before at *
  omega

theorem firstBad_spec (a b : BadSpot) : (firstBad a b = a ∨ firstBad a b = b) ∧ (firstBad a b).before a ∧ (firstBad a b).before b := by
  unfold firstBad BadSpot.before
  split
  · next h =>
    simp only [Bool.or_eq_true, Bool.and_eq_true, decide_eq_true_eq, beq_iff_eq] at h
    exact ⟨.inr rfl, by omega, by omega⟩
  · next h =>
    simp only [Bool.or_eq_true, Bool.and_eq_true, decide_eq_true_eq, beq_iff_eq] at h
    exact ⟨.inl rfl, by omega, by omega⟩

/-- The failure raised is one of those found, and none of them comes before it. -/
theorem worst_spec : ∀ {l : List BadSpot} {b : BadSpot}, worst l = some b → b ∈ l ∧ ∀ x ∈ l, b.before x
  | y :: l, b, h => by
    rw [worst] at h
    cases rest : worst l with
    | none =>
      have none : l = [] := by
        cases l with
        | nil => rfl
        | cons z k =>
          rw [worst] at rest
          cases deeper : worst k <;> rw [deeper] at rest <;> nomatch rest
      rw [rest] at h
      subst none
      obtain rfl := Option.some.inj h
      exact ⟨List.mem_cons_self, List.forall_mem_cons.mpr ⟨before_refl _, List.forall_mem_nil _⟩⟩
    | some z =>
      obtain ⟨mem, least⟩ := worst_spec rest
      rw [rest] at h
      obtain rfl := Option.some.inj h
      obtain ⟨either, beforeY, beforeZ⟩ := firstBad_spec y z
      refine ⟨?_, List.forall_mem_cons.mpr ⟨beforeY, fun x hx => before_trans beforeZ (least x hx)⟩⟩
      rcases either with e | e
      · rw [e]
        exact List.mem_cons_self
      · rw [e]
        exact List.mem_cons_of_mem _ mem

theorem worst_of_mem {l : List BadSpot} {b : BadSpot} (h : b ∈ l) : ∃ x, worst l = some x := by
  cases l with
  | nil => nomatch h
  | cons y l =>
    rw [worst]
    cases worst l with
    | none => exact ⟨_, rfl⟩
    | some z => exact ⟨_, rfl⟩

/-- A failure is raised where every other one has a greater rank. -/
theorem worst_eq {l : List BadSpot} {b : BadSpot} (h : b ∈ l) (least : ∀ x ∈ l, x = b ∨ b.rank < x.rank) : worst l = some b := by
  obtain ⟨x, hx⟩ := worst_of_mem h
  obtain ⟨mem, before⟩ := worst_spec hx
  rcases least x mem with rfl | lt
  · exact hx
  · have := before b h
    unfold BadSpot.before at this
    omega

/-! ## Scalar loads and stores -/

section
variable {s : State} {g : CoreId} {i : SlotId}

/-- The one element of a scalar access. -/
theorem spots_word (f : FmtM) (sl : Slot) (st : Bool) : (contigOp f sl st [⟨0, sl.memVa f 0⟩]).spots = [⟨0, sl.memVa f 0⟩] := by
  have below : decide ((sl.memVa f 0).toNat + mSize f * 0 < 2 ^ 48) = true := decide_eq_true (sl.memVa f 0).isLt
  exact List.filter_cons_of_pos (p := fun x : Spot => decide ((sl.memVa f 0).toNat + mSize f * x.j < 2 ^ 48)) below

theorem rank_of_badExtent {a n : Nat} {x : BadSpot} (h : x ∈ badExtent a n) : x.rank = 3 := by
  rw [badExtent] at h
  split at h
  · rw [List.mem_singleton.mp h]
  · nomatch h

theorem mem_misaligned_one {n : Nat} {p : Spot} {x : BadSpot} : x ∈ misaligned n [p] ↔ p.va.toNat % n ≠ 0 ∧ x = ⟨1, p.va, .align⟩ := by
  by_cases h : p.va.toNat % n = 0 <;> simp [misaligned, h]

theorem mem_badBanks_one {c : Core} {d : Dom} {p : Spot} {x : BadSpot} : x ∈ c.badBanks d [p] ↔
    (inScratch p.va.toNat = true ∧ c.bankOk d p.va.toNat = false) ∧ x = ⟨2, p.va, .domain⟩ := by
  by_cases h : inScratch p.va.toNat = true ∧ c.bankOk d p.va.toNat = false
  · simp [Core.badBanks, h.1, h.2]
  · have : (inScratch p.va.toNat && !c.bankOk d p.va.toNat) = false := by simpa using h
    simp [Core.badBanks, this, h]

theorem mem_reservedPtes_one {d : Dom} {p : Spot} {x : BadSpot} : x ∈ s.reservedPtes g d [p] ↔
    (inScratch p.va.toNat = false ∧ s.walk g.die d p.va = .error .illegal) ∧ x = ⟨0, p.va, .illegal⟩ := by
  rw [State.reservedPtes, List.mem_map]
  simp only [List.mem_filter, List.mem_singleton, Bool.and_eq_true, Bool.not_eq_true']
  constructor
  · rintro ⟨q, ⟨rfl, out, bad⟩, rfl⟩
    refine ⟨⟨out, ?_⟩, rfl⟩
    split at bad
    · assumption
    · nomatch bad
  · rintro ⟨⟨out, bad⟩, rfl⟩
    exact ⟨p, ⟨rfl, out, by rw [bad]⟩, rfl⟩

/-- The failures of a scalar access: a reserved entry, a misaligned address, a bank of another domain, and an extent that is no place. -/
theorem mem_earlyBad_word {f : FmtM} {st : Bool} {x : BadSpot} :
    let sl := s.slot g i
    let va := sl.memVa f 0
    x ∈ earlyBad s g i (contigOp f sl st [⟨0, va⟩]) ↔ x ∈ badExtent va.toNat (mSize f) ∨ (va.toNat % mSize f ≠ 0 ∧ x = ⟨1, va, .align⟩) ∨
      ((inScratch va.toNat = false ∧ s.walk g.die sl.dom va = .error .illegal) ∧ x = ⟨0, va, .illegal⟩) ∨
      ((inScratch va.toNat = true ∧ (s.core g).bankOk sl.dom va.toNat = false) ∧ x = ⟨2, va, .domain⟩) := by
  intro sl va
  have bad : (contigOp f sl st [⟨0, va⟩]).bad = badExtent va.toNat (mSize f) ++ misaligned (mSize f) [⟨0, va⟩] := by
    show badExtent (va.toNat + mSize f * 0) (mSize f * 1) ++ _ = _
    rw [Nat.mul_zero, Nat.mul_one, Nat.add_zero]
    rfl
  rw [earlyBad, bad, spots_word]
  simp only [List.mem_append, mem_misaligned_one, mem_reservedPtes_one, mem_badBanks_one]
  tauto

/-- LD and ST raise the first of their failures. -/
theorem word_raises {f : FmtM} {c : Instr × MemOp} (tn : turn s g i (mRegs f)) (on : (s.slot g i).guard f.pn f.pred = true)
    (hc : c ∈ ([(.ld f, contigOp f (s.slot g i) false [⟨0, (s.slot g i).memVa f 0⟩]),
      (.st f, contigOp f (s.slot g i) true [⟨0, (s.slot g i).memVa f 0⟩])] : List (Instr × MemOp))) (free : unheld s g i c.2)
    {b : BadSpot} (first : worst (earlyBad s g i c.2) = some b) : exec c.1 s = .next (raise s g i ⟨b.code, b.va.setWidth 64, 0⟩) := by
  simp only [List.mem_cons, List.not_mem_nil, or_false] at hc
  rcases hc with rfl | rfl
  · change execLd f s = _
    rw [execLd, guardedM_on f (uses := []) tn on]
    exact congrArg _ (issue_bad free first _ _ _)
  · change execSt f s = _
    rw [execSt, guardedM_on f (uses := []) tn on]
    exact congrArg _ (issue_bad free first _ _ _)

end

end Sys2Proof.Machine

open Sys2Proof Sys2Proof.Machine

/-- Settles O34: `worst` picks the least rank, and of these the lowest address; an access of one element has at most four failures, each of
its own rank. -/
theorem accessTraps : Obligations.AccessTraps := by
  refine ⟨fun l b h => worst_spec h, ?_⟩
  intro s g i f tn on sl va c hc free
  have raises := @word_raises s g i f c tn on hc free
  have found : ∀ x, x ∈ earlyBad s g i c.2 ↔ x ∈ badExtent va.toNat (mSize f) ∨ (va.toNat % mSize f ≠ 0 ∧ x = ⟨1, va, .align⟩) ∨
      ((inScratch va.toNat = false ∧ s.walk g.die sl.dom va = .error .illegal) ∧ x = ⟨0, va, .illegal⟩) ∨
      ((inScratch va.toNat = true ∧ (s.core g).bankOk sl.dom va.toNat = false) ∧ x = ⟨2, va, .domain⟩) := by
    simp only [List.mem_cons, List.not_mem_nil, or_false] at hc
    rcases hc with rfl | rfl <;> exact fun x => mem_earlyBad_word
  refine ⟨fun out reserved => raises (b := ⟨0, va, .illegal⟩) (worst_eq ?_ fun x hx => ?_),
    fun clean odd => raises (b := ⟨1, va, .align⟩) (worst_eq ?_ fun x hx => ?_),
    fun even here bank => raises (b := ⟨2, va, .domain⟩) (worst_eq ?_ fun x hx => ?_)⟩
  · exact (found _).mpr (.inr (.inr (.inl ⟨⟨out, reserved⟩, rfl⟩)))
  · rcases (found x).mp hx with h | ⟨_, rfl⟩ | ⟨_, rfl⟩ | ⟨_, rfl⟩
    · exact .inr (rank_of_badExtent h ▸ (by decide : 0 < 3))
    · exact .inr Nat.zero_lt_one
    · exact .inl rfl
    · exact .inr Nat.zero_lt_two
  · exact (found _).mpr (.inr (.inl ⟨odd, rfl⟩))
  · rcases (found x).mp hx with h | ⟨_, rfl⟩ | ⟨⟨out, reserved⟩, rfl⟩ | ⟨_, rfl⟩
    · exact .inr (rank_of_badExtent h ▸ (by decide : 1 < 3))
    · exact .inl rfl
    · exact clean.elim (fun here => nomatch out.symm.trans here) (fun h => absurd reserved h)
    · exact .inr Nat.one_lt_two
  · exact (found _).mpr (.inr (.inr (.inr ⟨⟨here, bank⟩, rfl⟩)))
  · rcases (found x).mp hx with h | ⟨odd, rfl⟩ | ⟨⟨out, _⟩, rfl⟩ | ⟨_, rfl⟩
    · exact .inr (rank_of_badExtent h ▸ (by decide : 2 < 3))
    · exact absurd even odd
    · exact nomatch out.symm.trans here
    · exact .inl rfl

end

section
/-! PROOFS. The addresses of an access's elements, and how loads and stores join the accesses in flight (R76, R162, R170, R210, R226, R227,
R229, R230). -/

namespace Sys2Proof.Machine

/-! ## Addresses -/

/-- The length of a vector form: a literal, or the register in AUX. -/
theorem memLen_eq {f : FmtM} {sl : Slot} {n : Nat} (h : (((∀ r, f.aux ≠ .x r) ∨ f.len ≠ 0xFF) ∧ n = f.len.toNat + 1) ∨
    (∃ r, f.aux = .x r ∧ f.len = 0xFF ∧ n = (sl.readX r).toNat)) : sl.memLen f = n := by
  unfold Slot.memLen
  rcases h with ⟨literal, rfl⟩ | ⟨r, haux, hlen, rfl⟩
  · split
    · next r haux =>
      exact if_neg (literal.resolve_left fun no => no r haux)
    · rfl
  · rw [haux]
    exact if_pos hlen

theorem lenBad_none {n limit : Nat} (h : n ≤ limit) : lenBad n limit = [] := if_neg (Nat.not_lt.mpr h)

/-- The elements of the contiguous vector forms: the governed-on ones whose addresses exist. -/
theorem spots_vecContig {f : FmtM} {sl : Slot} {st : Bool} (h : sl.memLen f * mSize f ≤ 128) : (vecContig f sl st).spots =
    (((List.range (sl.memLen f)).filter (gov (sl.mask f.pn f.pred) (mSize f))).filter
      (fun j => decide ((sl.memVa f 0).toNat + mSize f * j < 2 ^ 48))).map (fun j => ⟨j, sl.memVa f (BitVec.ofNat 64 (mSize f * j))⟩) := by
  rw [vecContig, lenBad_none h]
  exact List.filter_map ..

/-! ## Elements in memory -/

/-- Every element lies in memory. -/
def inMem (es : List Elem) : Prop := ∀ e ∈ es, ∃ pa mt gr, e.loc = .mem pa mt gr

theorem splitTile_mem {es : List Elem} (h : inMem es) : splitTile es = ([], [], es) := by
  unfold splitTile
  dsimp only
  rw [(List.filter_eq_nil_iff (l := es)).mpr, (List.filter_eq_self (l := es)).mpr]
  · rfl
  · intro e he
    obtain ⟨pa, mt, gr, loc⟩ := h e he
    rw [loc]
    rfl
  · intro e he
    obtain ⟨pa, mt, gr, loc⟩ := h e he
    rw [loc]
    exact Bool.false_ne_true

theorem readAllHere_mem (s : State) (g : CoreId) (d : Dom) (n : Nat) : ∀ {es : List Elem}, inMem es → s.readAllHere g d n es = (s, [], [], es)
  | [], _ => rfl
  | e :: l, h => by
    obtain ⟨pa, mt, gr, loc⟩ := h e List.mem_cons_self
    rw [State.readAllHere, State.readHere, loc]
    dsimp only
    rw [readAllHere_mem s g d n fun x hx => h x (List.mem_cons_of_mem _ hx)]

theorem storeScratch_mem (s : State) (g : CoreId) (d : Dom) (bytes : Nat → List Byte) :
    ∀ {es : List Elem}, inMem es → s.storeScratch g d bytes es = s
  | [], _ => rfl
  | e :: l, h => by
    obtain ⟨pa, mt, gr, loc⟩ := h e List.mem_cons_self
    rw [State.storeScratch, List.foldl_cons, loc]
    exact storeScratch_mem s g d bytes fun x hx => h x (List.mem_cons_of_mem _ hx)

section
variable {s t : State} {g : CoreId} {i : SlotId} {m : MemOp} {es : List Elem}

/-! ## An access that flies -/

/-- It is performed later than it issues, or all of it lies in memory; its slot is at no tile. -/
theorem flying_cases (h : flying s g i m t es) :
    ∃ late, clearAs s g i m t es late ∧ (s.slot g i).tile = none ∧ (late = false → inMem es) := by
  rcases h with late | ⟨here, mem⟩
  · exact ⟨true, late, late.1.1, nofun⟩
  · exact ⟨false, here, here.1.1, fun _ => mem⟩

theorem spots_ne_nil {late : Bool} (h : clearAs s g i m t es late) (ne : es ≠ []) : m.spots ≠ [] := by
  obtain ⟨_, ⟨_, placed⟩, _⟩ := h
  intro none
  rw [none] at placed
  exact ne (congrArg (fun x => x.2.1) placed).symm

/-- A load all of which is performed in flight. -/
theorem goLoad_flies {late : Bool} {sl : Slot} (tile : sl.tile = none) (mem : late = false → inMem es) (ne : es ≠ []) (clean : t.poison = [])
    (d : LoadDest) : t.goLoad g (.of late i sl) m .read (fun _ => d) es = t.flyLoad g (.of late i sl) m .read d [] es := by
  cases late with
  | true => exact if_neg (by simpa using ne)
  | false =>
    have h := mem rfl
    show t.goLoad g (.now i sl) m .read (fun _ => d) es = t.flyLoad g (.now i sl) m .read d [] es
    have old : (Via.now i sl).soFar = ([], []) := by rw [Via.soFar, tile]
    have still : t.overVia g (.now i sl) = t := by rw [State.overVia, tile]; rfl
    rw [State.goLoad, clean]
    dsimp only
    rw [List.isEmpty_nil, if_pos rfl]
    dsimp only
    rw [splitTile_mem h, readAllHere_mem t g sl.dom m.size h, old, still]
    exact if_neg (by simpa using ne)

/-- A store all of which is performed in flight. -/
theorem goStore_flies {late : Bool} {sl : Slot} (tile : sl.tile = none) (mem : late = false → inMem es) (ne : es ≠ []) (w : Nat → Word) :
    t.goStore g (.of late i sl) m w es = t.flyStore g (.of late i sl) m w es := by
  cases late with
  | true => exact if_neg (by simpa using ne)
  | false =>
    have h := mem rfl
    show t.goStore g (.now i sl) m w es = t.flyStore g (.now i sl) m w es
    have still : t.overVia g (.now i sl) = t := by rw [State.overVia, tile]; rfl
    rw [State.goStore, splitTile_mem h]
    dsimp only
    rw [if_neg (by rw [State.tilesWait]; exact Bool.false_ne_true), State.storeTiles]
    dsimp only
    rw [still, storeScratch_mem t g sl.dom _ h, (List.filter_eq_self (l := es)).mpr]
    · exact if_neg (by simpa using ne)
    · intro e he
      obtain ⟨pa, mt, gr, loc⟩ := h e he
      rw [loc]

/-! ## What joins the accesses in flight -/

/-- An access in flight, and its slot at the next instruction. -/
def onward (u : State) (g : CoreId) (i : SlotId) (m : MemOp) (k : PendKind) (l : List Elem) (d : LoadDest) : State :=
  (u.pushPend g i k l [] d m).pcNext g i

theorem flyVia_of (u : State) (late : Bool) (sl : Slot) (k : PendKind) (l : List Elem) (d : LoadDest) :
    u.flyVia g (.of late i sl) k l [] d m = onward u g i m k l d := by
  cases late <;> rfl

theorem idVia_of (u : State) (late : Bool) (sl : Slot) : u.idVia (.of late i sl) = u.nextPend := by
  cases late <;> rfl

theorem remoteVia_of (u : State) (late : Bool) (sl : Slot) : u.remoteVia (.of late i sl) = u.remoteUp sl.task.tr := by
  cases late <;> rfl

/-- A load joins the accesses in flight at its coherence points, if it has any, and else at the L1. -/
def loadJoins (t : State) (g : CoreId) (i : SlotId) (m : MemOp) (es : List Elem) (d : LoadDest) : State :=
  let far := es.filter (fun e => !e.cached || (m.ord.isAcq && m.scope.wide))
  let near := es.filter (fun e => e.cached && !(m.ord.isAcq && m.scope.wide))
  if far = [] then (onward t g i m .waitLoad near d).tryPend g t.nextPend
  else ((onward t g i m (.cp .read) far d).withRest g t.nextPend (near.map (fun e => (e, 0)))).toPoint g t.nextPend

theorem flyLoad_of (late : Bool) (sl : Slot) (d : LoadDest) : t.flyLoad g (.of late i sl) m .read d [] es = loadJoins t g i m es d := by
  have near : ∀ e, (!m.atPoint e) = (e.cached && !(m.ord.isAcq && m.scope.wide)) := fun e => by
    rw [MemOp.atPoint, Bool.not_or, Bool.not_not]
  simp only [State.flyLoad, flyVia_of, idVia_of, near]
  exact if_congr List.isEmpty_iff rfl rfl

/-- A store joins the accesses in flight at the L1, if nothing of it lies beyond, and else at its coherence points and targets. -/
def storeJoins (t : State) (g : CoreId) (i : SlotId) (sl : Slot) (m : MemOp) (w : Nat → Word) (es : List Elem) : State :=
  let far := es.filter (fun e => !e.cached)
  let near := es.filter Elem.cached
  if far = [] then (onward t g i m (.waitStore (storeData m.size (near.map (fun e => (e, w e.j))))) near .discard).tryPend g t.nextPend
  else ((onward (if far.any (fun e => e.loc.remote) then t.remoteUp sl.task.tr else t) g i m (.cp (.write (far.map (fun e => w e.j)))) far
    .discard).withRest g t.nextPend (near.map (fun e => (e, w e.j)))).toPoint g t.nextPend

theorem flyStore_of (late : Bool) (sl : Slot) (w : Nat → Word) : t.flyStore g (.of late i sl) m w es = storeJoins t g i sl m w es := by
  have back : ∀ l : List Elem, (l.map (fun e => (e, w e.j))).map (fun x => x.1) = l := fun l => by
    rw [List.map_map]
    exact List.map_id l
  simp only [State.flyStore, flyVia_of, idVia_of, remoteVia_of, back]
  exact if_congr List.isEmpty_iff rfl rfl

/-! ## The instructions -/

section
variable (fl : flying s g i m t es) (ne : es ≠ [])
include fl ne

/-- A load that flies, at its instruction. -/
theorem issue_load_flies (clean : t.poison = []) (op : HeldOp) (d d' : LoadDest) : s.issue g i m op d (fun u late l =>
    u.goLoad g (.of late i (s.slot g i)) m .read (fun _ => d') l) = loadJoins t g i m es d' := by
  obtain ⟨late, clr, tile, mem⟩ := flying_cases fl
  rw [issue_clearAs clr, goLoad_flies tile mem ne clean, flyLoad_of]

theorem vecLoad_flies (clean : t.poison = []) (op : HeldOp) (d d' : LoadDest) : s.issue g i m op d (fun u late l =>
    if m.spots.isEmpty then u.pcNext g i else u.goLoad g (.of late i (s.slot g i)) m .read (fun _ => d') l) = loadJoins t g i m es d' := by
  obtain ⟨late, clr, tile, mem⟩ := flying_cases fl
  have some : ¬ m.spots.isEmpty = true := mt List.isEmpty_iff.mp (spots_ne_nil clr ne)
  rw [issue_clearAs clr, if_neg some, goLoad_flies tile mem ne clean, flyLoad_of]

theorem issueStore_flies (w : Nat → Word) : s.issueStore g i m w = storeJoins t g i (s.slot g i) m w es := by
  obtain ⟨late, clr, tile, mem⟩ := flying_cases fl
  rw [State.issueStore, issue_clearAs clr, goStore_flies tile mem ne, flyStore_of]

end

end

/-- The bytes that a store of cached memory alone writes. -/
theorem storeJoins_near {t : State} {g : CoreId} {i : SlotId} {sl : Slot} {m : MemOp} {w : Nat → Word} {es : List Elem}
    (h : es.filter (fun e => !e.cached) = []) : storeJoins t g i sl m w es =
      (onward t g i m (.waitStore (storeData m.size (es.map (fun e => (e, w e.j))))) (es.filter Elem.cached) .discard).tryPend g t.nextPend := by
  have all : es.filter Elem.cached = es := List.filter_eq_self.mpr fun e he => by
    simpa using List.filter_eq_nil_iff.mp h e he
  rw [storeJoins, h, if_pos rfl, all]

section
variable {s t : State} {g : CoreId} {i : SlotId} {f : FmtM} {m : MemOp} {es : List Elem}

theorem ld_flies (tn : turn s g i (mRegs f)) (on : (s.slot g i).guard f.pn f.pred = true) (ne : es ≠ []) (clean : t.poison = [])
    (fl : flying s g i (contigOp f (s.slot g i) false [⟨0, (s.slot g i).memVa f 0⟩]) t es) : execLd f s =
      .next (loadJoins t g i (contigOp f (s.slot g i) false [⟨0, (s.slot g i).memVa f 0⟩]) es (xDest f.data (f.len == 1))) := by
  rw [execLd, guardedM_on f (uses := []) tn on]
  exact congrArg _ (issue_load_flies fl ne clean _ _ _)

theorem st_flies (tn : turn s g i (mRegs f)) (on : (s.slot g i).guard f.pn f.pred = true) (ne : es ≠ [])
    (fl : flying s g i (contigOp f (s.slot g i) true [⟨0, (s.slot g i).memVa f 0⟩]) t es) : execSt f s =
      .next (storeJoins t g i (s.slot g i) (contigOp f (s.slot g i) true [⟨0, (s.slot g i).memVa f 0⟩]) (fun _ => (s.slot g i).srcW f.data) es) := by
  rw [execSt, guardedM_on f (uses := []) tn on]
  exact congrArg _ (issueStore_flies fl ne _)

theorem zero_flies (tn : turn s g i (mRegs f)) (on : (s.slot g i).guard f.pn f.pred = true) (ne : es ≠ [])
    (fl : flying s g i (longOp f (s.slot g i) true) t es) :
    execZero f s = .next (storeJoins t g i (s.slot g i) (longOp f (s.slot g i) true) (fun _ => 0) es) := by
  rw [execZero, guardedM_on f (uses := []) tn on]
  exact congrArg _ (issueStore_flies fl ne _)

theorem vecLoad_joins (tn : turn s g i (mRegs f)) (ne : es ≠ []) (clean : t.poison = []) (op : Slot → MemOp)
    (fl : flying s g i (op (s.slot g i)) t es) : vecLoad f s op = .next (loadJoins t g i (op (s.slot g i)) es (.v (vIndex f.data))) := by
  rw [vecLoad, runCore_turn tn]
  exact congrArg _ (vecLoad_flies fl ne clean _ _ _)

theorem vecStore_joins (tn : turn s g i (mRegs f)) (ne : es ≠ []) (op : Slot → MemOp) (fl : flying s g i (op (s.slot g i)) t es) :
    vecStore f s op = .next (storeJoins t g i (s.slot g i) (op (s.slot g i))
      (fun j => elemOf ((s.slot g i).readV (vIndex f.data)) (mSize f) j) es) := by
  rw [vecStore, runCore_turn tn]
  exact congrArg _ (issueStore_flies fl ne _)

/-- A store that flies, as the spec tells it: of cached memory alone, or with coherence points and targets. -/
theorem stores_of_joins {e : Instr} {w : Nat → Word} (run : exec e s = .next (storeJoins t g i (s.slot g i) m w es)) :
    let far := es.filter (fun e => !e.cached)
    let near := es.filter Elem.cached
    (far = [] → ∃ data, exec e s = .next ((onward t g i m (.waitStore data) near .discard).tryPend g t.nextPend) ∧
      data = es.flatMap (fun e => match e.loc with
        | .mem pa _ _ => (bytesOf m.size (w e.j).toNat).zipIdx.map (fun b => (pa + b.2, b.1))
        | _ => [])) ∧
    (far ≠ [] → exec e s = .next (((onward (if far.any (fun e => e.loc.remote) then t.remoteUp (s.slot g i).task.tr else t) g i m
      (.cp (.write (far.map (fun e => w e.j)))) far .discard).withRest g t.nextPend (near.map (fun e => (e, w e.j)))).toPoint g t.nextPend)) := by
  refine ⟨fun cachedOnly => ⟨_, run.trans (congrArg _ (storeJoins_near cachedOnly)), ?_⟩, fun some => run.trans (congrArg _ (if_neg some))⟩
  exact List.flatMap_map ..

end

end Sys2Proof.Machine

open Sys2Proof Sys2Proof.Machine

/-- Settles O33: the addresses are those of `memVa`; an access that flies is `loadJoins` or `storeJoins` in each of its instructions. -/
theorem accessesInFlight : Obligations.AccessesInFlight := by
  refine ⟨?_, ?_⟩
  · intro sl f st
    refine ⟨spots_word f sl st, fun n hn short => ?_, List.map_congr_left fun _ _ => rfl, List.map_congr_left fun _ _ => rfl⟩
    obtain rfl := memLen_eq hn
    exact spots_vecContig short
  · intro s t g i f es clean ne tn
    refine ⟨fun on => ⟨ld_flies tn on ne clean, fun fl => stores_of_joins (e := .st f) (st_flies tn on ne fl),
        fun fl => stores_of_joins (e := .zero f) (zero_flies tn on ne fl)⟩,
      vecLoad_joins tn ne clean (fun sl => vecContig f sl false), vecLoad_joins tn ne clean (fun sl => vecScatter f sl false (stridedVa f sl)),
      vecLoad_joins tn ne clean (fun sl => vecScatter f sl false (gatherVa f sl)),
      fun fl => stores_of_joins (e := .stv f) (vecStore_joins tn ne (fun sl => vecContig f sl true) fl),
      fun fl => stores_of_joins (e := .stvs f) (vecStore_joins tn ne (fun sl => vecScatter f sl true (stridedVa f sl)) fl),
      fun fl => stores_of_joins (e := .stvg f) (vecStore_joins tn ne (fun sl => vecScatter f sl true (gatherVa f sl)) fl)⟩

end

section
/-! PROOFS. Integer results reduced or clamped to their type (R104, R129). -/

namespace Sys2Proof.Machine

section
variable {t : Ty} {z : Int}

/-- A pattern of an integer is the integer modulo 2^w. -/
theorem patOf_toNat (t : Ty) (z : Int) : ((patOf t z).toNat : Int) = z % ((2 ^ t.width : Nat) : Int) := by
  have modulus : (2 ^ t.width : Nat) ≤ 2 ^ 64 := Nat.pow_le_pow_right (by decide) (width_pos_le t).2
  have pos := Nat.two_pow_pos t.width
  have low := Int.emod_nonneg z (b := ((2 ^ t.width : Nat) : Int)) (by omega)
  have high := Int.emod_lt_of_pos z (b := ((2 ^ t.width : Nat) : Int)) (by omega)
  rw [patOf, BitVec.toNat_ofNat, Nat.mod_eq_of_lt (by omega), Int.toNat_of_nonneg low]

theorem two_pow_width (t : Ty) : 2 ^ t.width = 2 * 2 ^ (t.width - 1) := by
  rw [← pow_succ', Nat.sub_add_cancel (width_pos_le t).1]

/-- An integer in the range of its type is read back from its pattern. -/
theorem intOf_patOf (low : minInt t ≤ z) (high : z ≤ maxInt t) : intOf t (patOf t z) = z := by
  have pat := patOf_toNat t z
  have reduced : (patOf t z).toNat < 2 ^ t.width := by
    have := Int.emod_lt_of_pos z (b := ((2 ^ t.width : Nat) : Int)) (by have := Nat.two_pow_pos t.width; omega)
    omega
  have half := two_pow_width t
  simp only [minInt, maxInt] at low high
  dsimp only [intOf]
  rw [Nat.mod_eq_of_lt reduced]
  rw [half] at pat reduced high ⊢
  generalize 2 ^ (t.width - 1) = k at *
  generalize (patOf t z).toNat = n at *
  by_cases sgn : t.isS = true
  · rw [if_pos sgn] at low high
    rw [sgn, Bool.true_and]
    by_cases neg : z < 0
    · have shift : z % ((2 * k : Nat) : Int) = z + ((2 * k : Nat) : Int) := by
        rw [← Int.add_emod_right, Int.emod_eq_of_lt (by omega) (by omega)]
      rw [if_pos (decide_eq_true (by omega))]
      omega
    · rw [Int.emod_eq_of_lt (by omega) (by omega)] at pat
      rw [if_neg (by simp only [decide_eq_true_eq]; omega)]
      exact pat
  · rw [if_neg sgn] at low high
    rw [Int.emod_eq_of_lt low (by omega)] at pat
    rw [Bool.eq_false_iff.mpr sgn, Bool.false_and, if_neg Bool.false_ne_true]
    exact pat

theorem minInt_le_maxInt (t : Ty) : minInt t ≤ maxInt t := by cases t <;> decide

/-- Clamping is the nearest bound, or the value between them. -/
theorem clampInt_eq (t : Ty) (z : Int) : clampInt t z = Max.max (minInt t) (Min.min (maxInt t) z) := by
  have range := minInt_le_maxInt t
  rw [clampInt]
  split
  · omega
  · split <;> omega

/-- A clamped integer is in the range of its type. -/
theorem clampInt_mem (t : Ty) (z : Int) : minInt t ≤ clampInt t z ∧ clampInt t z ≤ maxInt t := by
  have range := minInt_le_maxInt t
  rw [clampInt_eq]
  omega

end

end Sys2Proof.Machine

open Sys2Proof Sys2Proof.Machine

/-- Settles O11: a pattern is its integer modulo 2^w (`patOf_toNat`); a clamped integer is in range, so that its pattern reads back. -/
theorem wrapAndClamp : Obligations.WrapAndClamp := by
  intro t z _
  obtain ⟨low, high⟩ := clampInt_mem t z
  exact ⟨patOf_toNat t z, (intOf_patOf low high).trans (clampInt_eq t z), rfl, rfl⟩

end

section
/-! PROOFS. Reductions and scans (R121, R122, R158, R159). -/

namespace Sys2Proof.Machine

/-! ## Folds in which the places that do not count enter as an identity -/

section
variable {op : Int → Int → Int} {z : Int}

/-- A fold in which the places left out enter as an identity of the values reached is the fold over the places that count. -/
theorem foldl_filter_identity (P : Int → Prop) (keeps : ∀ a b, P a → P (op a b)) (neutral : ∀ a, P a → op a z = a)
    (on : Nat → Bool) (v : Nat → Int) : ∀ (l : List Nat) (a : Int), P a →
      l.foldl (fun a j => op a (if on j then v j else z)) a = ((l.filter on).map v).foldl op a
  | [], _, _ => rfl
  | j :: l, a, ha => by
    rw [List.foldl_cons]
    cases h : on j with
    | true =>
      rw [if_pos rfl, List.filter_cons_of_pos h, List.map_cons, List.foldl_cons]
      exact foldl_filter_identity P keeps neutral on v l _ (keeps a _ ha)
    | false =>
      rw [if_neg Bool.false_ne_true, neutral a ha, List.filter_cons_of_neg (Bool.eq_false_iff.mp h)]
      exact foldl_filter_identity P keeps neutral on v l a ha

end

section
variable (on : Nat → Bool) (v : Nat → Int) (l : List Nat)

theorem foldl_sum_filter : l.foldl (fun a j => a + (if on j then v j else 0)) 0 = ((l.filter on).map v).sum := by
  rw [foldl_filter_identity (fun _ => True) (fun _ _ _ => trivial) (fun a _ => Int.add_zero a) on v l 0 trivial, ← List.sum_eq_foldl]

theorem foldl_max_filter (z : Int) :
    l.foldl (fun a j => Max.max a (if on j then v j else z)) z = ((l.filter on).map v).foldl Max.max z :=
  foldl_filter_identity (op := Max.max) (fun a => z ≤ a) (fun _ _ h => h.trans (le_max_left ..)) (fun _ h => max_eq_left h) on v l z le_rfl

theorem foldl_min_filter (z : Int) :
    l.foldl (fun a j => Min.min a (if on j then v j else z)) z = ((l.filter on).map v).foldl Min.min z :=
  foldl_filter_identity (op := Min.min) (fun a => a ≤ z) (fun _ _ h => (min_le_left ..).trans h) (fun _ h => min_eq_left h) on v l z le_rfl

end

/-! ## The instructions at their turn -/

/-- The integers of the governed-on elements among the first k of a source. -/
def governedInts (f : FmtR) (sl : Slot) (k : Nat) : List Int :=
  ((List.range k).filter (gov (sl.mask f.pn f.pred) f.ty.size)).map (sl.vint f.sa f.ty)

/-- The elements of a source, with an identity in place of the governed-off ones. -/
def filledElems (f : FmtR) (sl : Slot) (z : Word) : List Word :=
  (List.range (128 / f.ty.size)).map (fun j => if gov (sl.mask f.pn f.pred) f.ty.size j then sl.vsrc f.sa f.ty j else z)

section
variable {s : State} {g : CoreId} {i : SlotId}

theorem reduceInt_turn (f : FmtR) (tn : turn s g i (rRegs f)) (ident : Int) (op : Int → Int → Int) :
    let sl := s.slot g i
    reduceInt f s ident op = .next (after s g i (sl.wr f.dst f.ty (patOf f.ty ((List.range (128 / f.ty.size)).foldl
      (fun a j => op a (if gov (sl.mask f.pn f.pred) f.ty.size j then sl.vint f.sa f.ty j else ident)) ident)))) := runSlot_done tn rfl

theorem reduceFloat_turn (f : FmtR) (tn : turn s g i (rRegs f)) (ident : Slot → Word) (op : Slot → Word → Word → Word × BitVec 5) :
    let sl := s.slot g i
    let r := reduceTree (op sl) 7 (filledElems f sl (ident sl)) 0
    reduceFloat f s ident op = .next (after s g i ((sl.wr f.dst f.ty r.1).orFlags r.2)) := runSlot_done tn rfl

theorem vredsum_turn (f : FmtR) (tn : turn s g i (rRegs f)) :
    let sl := s.slot g i
    execVredsum f s = .next (after s g i (sl.wr f.dst f.ty (patOf f.ty (governedInts f sl (128 / f.ty.size)).sum))) := by
  rw [execVredsum, reduceInt_turn f tn, foldl_sum_filter]
  rfl

theorem vredmax_turn (f : FmtR) (tn : turn s g i (rRegs f)) :
    let sl := s.slot g i
    execVredmax f s = .next (after s g i (sl.wr f.dst f.ty
      (patOf f.ty ((governedInts f sl (128 / f.ty.size)).foldl Max.max (minInt f.ty))))) := by
  have larger : (fun a b : Int => if a < b then b else a) = Max.max := funext fun _ => funext fun _ => (max_def_lt ..).symm
  rw [execVredmax, larger, reduceInt_turn f tn, foldl_max_filter]
  rfl

theorem vredmin_turn (f : FmtR) (tn : turn s g i (rRegs f)) :
    let sl := s.slot g i
    execVredmin f s = .next (after s g i (sl.wr f.dst f.ty
      (patOf f.ty ((governedInts f sl (128 / f.ty.size)).foldl Min.min (maxInt f.ty))))) := by
  have smaller : (fun a b : Int => if a < b then a else b) = Min.min := funext fun _ => funext fun _ => (min_def_lt ..).symm
  rw [execVredmin, smaller, reduceInt_turn f tn, foldl_min_filter]
  rfl

theorem prefixSum_eq (f : FmtR) (sl : Slot) (j : Nat) : prefixSum f sl (sl.mask f.pn f.pred) j = (governedInts f sl (j + 1)).sum :=
  foldl_sum_filter ..

theorem vscan_turn (f : FmtR) (tn : turn s g i (rRegs f)) :
    let sl := s.slot g i
    execVscan f s = .next (after s g i (sl.wrV f.dst (vmerge (sl.mask f.pn f.pred) f.ty.size (sl.oldV f.dst)
      (fun j => wrapInt f.ty false (governedInts f sl (j + 1)).sum)))) := by
  rw [execVscan, vecOp_turn f tn, govFlags_none, orFlags_none]
  simp only [prefixSum_eq]

theorem vfscan_turn (f : FmtR) (tn : turn s g i (rRegs f)) :
    let sl := s.slot g i
    let mode := sl.modeOf f.mode
    let y := scanSteps (addStd f.ty mode f.sat) 7 1 ((filledElems f sl (sumIdentity f.ty mode)).map (fun w => (w, 0)))
    execVfscan f s = .next (after s g i ((sl.wrV f.dst (vmerge (sl.mask f.pn f.pred) f.ty.size (sl.oldV f.dst)
      (fun j => (y.getD j (0, 0)).1))).orFlags
      (govFlags (sl.mask f.pn f.pred) f.ty.size (128 / f.ty.size) (fun j => (y.getD j (0, 0)).2)))) := by
  intro sl mode y
  refine runSlot_done tn ?_
  have start : (filledElems f sl (sumIdentity f.ty mode)).map (fun w => (w, (0 : BitVec 5))) = (List.range (128 / f.ty.size)).map (fun j =>
      (if gov (sl.mask f.pn f.pred) f.ty.size j then sl.vsrc f.sa f.ty j else sumIdentity f.ty mode, (0 : BitVec 5))) := List.map_map ..
  simp only [y, start]
  rfl

end

end Sys2Proof.Machine

open Sys2Proof Sys2Proof.Machine

/-- Settles O29: an integer reduction is a fold over the governed-on elements (`foldl_filter_identity`); a float one is `reduceTree`, and VFSCAN
`scanSteps`, on the elements with the identity filled in. -/
theorem reductionResults : Obligations.ReductionResults := by
  intro s g i f tn
  refine ⟨vredsum_turn f tn, vredmax_turn f tn, vredmin_turn f tn, vscan_turn f tn, ?_, ?_, ?_, ?_⟩
  · exact reduceFloat_turn f tn (fun sl => sumIdentity f.ty (sl.modeOf f.mode)) (fun sl => addStd f.ty (sl.modeOf f.mode) f.sat)
  · exact reduceFloat_turn f tn (fun _ => canonNan f.ty) (fun _ => minNum f.ty true)
  · exact reduceFloat_turn f tn (fun _ => canonNan f.ty) (fun _ => minNum f.ty false)
  · exact vfscan_turn f tn

end

section
/-! PROOFS. NaN operands, and the special cases of float arithmetic (R102, R103, R120, R133, R134). -/

namespace Sys2Proof.Machine

/-! ## NaN values (R102, R103) -/

theorem isNan_iff {x : FVal} : x.isNan = true ↔ ∃ s, x = .nan s := by
  cases x with
  | nan s => exact ⟨fun _ => ⟨s, rfl⟩, fun _ => rfl⟩
  | inf p => exact ⟨nofun, nofun⟩
  | fin p m e more => exact ⟨nofun, nofun⟩

theorem isSig_of_not_nan {x : FVal} (h : x.isNan = false) : x.isSig = false := by
  cases x with
  | nan s => contradiction
  | inf p => rfl
  | fin p m e more => rfl

theorem negate_nan {x : FVal} : (∃ s, x.negate = .nan s) ↔ ∃ s, x = .nan s := by
  cases x with
  | nan s => exact Iff.rfl
  | inf p => exact ⟨nofun, nofun⟩
  | fin p m e more => exact ⟨nofun, nofun⟩

@[simp] theorem negate_isSig (x : FVal) : x.negate.isSig = x.isSig := by cases x <;> rfl

theorem sigFlag_pair (x y : FVal) : sigFlag [x, y] = if x.isSig || y.isSig then fNV else 0 := by
  simp only [sigFlag, flagIf, List.any_cons, List.any_nil, Bool.or_false]

/-- A pattern is a NaN above the pattern of infinity, a signalling one in the lower half there. -/
theorem decodeStd_nan {t : Ty} {b : Word} {s : Bool} (h : decodeStd t b = .nan s) :
    (stdGrid t).maxK + 1 < b.toNat % 2 ^ (t.width - 1) ∧
    s = decide (b.toNat % 2 ^ (t.width - 1) < (stdGrid t).maxK + 1 + 2 ^ ((stdGrid t).prec - 2)) := by
  dsimp only [decodeStd] at h
  split at h
  · contradiction
  next below =>
    split at h
    · contradiction
    next apart =>
      refine ⟨?_, (FVal.nan.inj h).symm⟩
      have apart : b.toNat % 2 ^ (t.width - 1) ≠ (stdGrid t).maxK + 1 := by simpa using apart
      omega

/-- The most significant trailing bit of a magnitude above infinity, in each float type. -/
theorem quietBit_iff {t : Ty} (h : t.isFloat = true) {n : Nat} (nan : (stdGrid t).maxK + 1 < n % 2 ^ (t.width - 1)) :
    n % 2 ^ (t.width - 1) < (stdGrid t).maxK + 1 + 2 ^ ((stdGrid t).prec - 2) ↔ n / 2 ^ ((stdGrid t).prec - 2) % 2 ≠ 1 := by
  cases t with
  | s8 | s16 | s32 | s64 | n8 | n16 | n32 | n64 => contradiction
  | f16 | bf16 | f32 | f64 =>
    simp only [stdGrid, Ty.width, Ty.size] at nan ⊢
    omega

/-- A NaN is signalling where its most significant trailing bit is 0. -/
theorem decodeStd_isSig {t : Ty} (h : t.isFloat = true) {b : Word} (nan : (decodeStd t b).isNan = true) :
    (decodeStd t b).isSig = !b.getLsbD ((stdGrid t).prec - 2) := by
  obtain ⟨s, e⟩ := isNan_iff.mp nan
  obtain ⟨above, rfl⟩ := decodeStd_nan e
  rw [e, FVal.isSig, ← BitVec.testBit_toNat, Nat.testBit_eq_decide_div_mod_eq, ← decide_not]
  exact decide_eq_decide.mpr (quietBit_iff h above)

/-! ## Operations on NaN operands (R103, R120) -/

theorem rounded_nan (t : Ty) (mode : RMode) (sat s : Bool) (fl : BitVec 5) : rounded t mode sat (.nan s, fl) = (canonNan t, fl) :=
  congrArg (Prod.mk _) BitVec.zero_or

section
variable {x y : FVal}

theorem addNum_nan (mode : RMode) (h : (∃ s, x = .nan s) ∨ ∃ s, y = .nan s) : addNum mode x y = (.nan false, sigFlag [x, y]) := by
  rcases h with ⟨s, rfl⟩ | ⟨s, rfl⟩
  · cases y <;> rfl
  · cases x <;> rfl

theorem mulNum_nan (h : (∃ s, x = .nan s) ∨ ∃ s, y = .nan s) : mulNum x y = (.nan false, sigFlag [x, y]) := by
  rcases h with ⟨s, rfl⟩ | ⟨s, rfl⟩
  · cases y <;> rfl
  · cases x <;> rfl

theorem divNum_nan (h : (∃ s, x = .nan s) ∨ ∃ s, y = .nan s) : divNum x y = (.nan false, sigFlag [x, y]) := by
  rcases h with ⟨s, rfl⟩ | ⟨s, rfl⟩
  · cases y <;> rfl
  · cases x <;> rfl

theorem cmpNum_nan (h : (∃ s, x = .nan s) ∨ ∃ s, y = .nan s) : cmpNum x y = none := by
  rcases h with ⟨s, rfl⟩ | ⟨s, rfl⟩
  · rfl
  · cases x <;> rfl

/-- Without an order, only the conditions "not equal" and "unordered" hold (R90). -/
theorem floatCond_none {c : Nat} (small : c ≤ 9) (ne : c ≠ 1) : floatCond c none = false := by
  revert c; decide

/-- A sum, product or quotient that is NaN for its operands rounds to the canonical NaN, with NV for a signalling one. -/
theorem rounded_of_nan {r : FVal × BitVec 5} (h : r = (.nan false, sigFlag [x, y])) (t : Ty) (mode : RMode) (sat : Bool) :
    rounded t mode sat r = (canonNan t, if x.isSig || y.isSig then fNV else 0) := by
  rw [h, rounded_nan, sigFlag_pair]

end

/-- A conversion of a float type to itself is a rounding, with NV for a signalling NaN. -/
theorem convert_self {t : Ty} (float : t.isFloat = true) (mode : RMode) (sat : Bool) (b : Word) :
    convert t t mode sat b = ((roundStd t mode sat (decodeStd t b)).1,
      (roundStd t mode sat (decodeStd t b)).2 ||| flagIf (decodeStd t b).isSig fNV) := by
  have int : t.isInt = false := by simpa [Ty.isFloat] using float
  rw [convert, int, if_neg Bool.false_ne_true, if_neg Bool.false_ne_true]

section
variable {t : Ty} {a : Word} {s : Bool}

theorem convert_float_nan (h : t.isFloat = true) (e : decodeStd t a = .nan s) (mode : RMode) (sat : Bool) :
    convert t t mode sat a = (canonNan t, flagIf s fNV) := by
  rw [convert_self h, e]
  exact congrArg (Prod.mk _) BitVec.zero_or

theorem convert_int_nan (h : t.isFloat = true) (e : decodeStd t a = .nan s) {r : Ty} (int : r.isInt = true) (mode : RMode) (sat : Bool) :
    convert t r mode sat a = (0, fNV) := by
  have float : t.isInt = false := by simpa [Ty.isFloat] using h
  rw [convert, float, if_neg Bool.false_ne_true, if_pos int, floatToInt, e]

theorem frintOf_nan (e : decodeStd t a = .nan s) (mode : RMode) : frintOf t mode a = (canonNan t, flagIf s fNV) := by
  rw [frintOf, e]

/-- Minimum and maximum number give the operand that is not a NaN. -/
theorem minNum_nan_left {b : Word} (mx : Bool) (x : (decodeStd t a).isNan = true) (y : (decodeStd t b).isNan = false) :
    minNum t mx a b = (b, if (decodeStd t a).isSig then fNV else 0) := by
  rw [minNum, x, y, Bool.and_false, if_neg Bool.false_ne_true, if_pos rfl, sigFlag_pair, isSig_of_not_nan y, Bool.or_false]

theorem minNum_nan_right {b : Word} (mx : Bool) (x : (decodeStd t a).isNan = true) (y : (decodeStd t b).isNan = false) :
    minNum t mx b a = (b, if (decodeStd t a).isSig then fNV else 0) := by
  rw [minNum, x, y, Bool.false_and, if_neg Bool.false_ne_true, if_neg Bool.false_ne_true, if_pos rfl, sigFlag_pair, isSig_of_not_nan y,
    Bool.false_or]

end

/-! ## Exact zeros, infinities and division by zero (R120, R133) -/

theorem scaled_not (p : Bool) (m : Nat) (e e0 : Int) : scaled (!p) m e e0 = -scaled p m e e0 := by
  cases p
  · rfl
  · exact (Int.neg_neg _).symm

/-- The sum of two zeros keeps a common sign; it is minus zero otherwise where the mode rounds down. -/
theorem addNum_zeros (mode : RMode) (e : Int) (p q : Bool) :
    addNum mode (.fin p 0 e false) (.fin q 0 e false) = (.fin (if p = q then p else mode == .rdn) 0 0 false, 0) := by
  cases p <;> cases q <;> rfl

/-- A number and its opposite sum to zero, minus zero where the mode rounds down. -/
theorem addNum_opposite (mode : RMode) (e : Int) {m : Nat} (p : Bool) (ne : m ≠ 0) :
    addNum mode (.fin p m e false) (.fin (!p) m e false) = (.fin (mode == .rdn) 0 0 false, 0) := by
  simp [addNum, ne, scaled_not]

theorem addNum_infs (mode : RMode) (p q : Bool) :
    addNum mode (.inf p) (.inf q) = if p = q then (.inf p, 0) else (.nan false, fNV) := if_congr beq_iff_eq rfl rfl

/-- Zero times infinity is invalid, in a fused operation with a quiet NaN too. -/
theorem fmaNum_inf_zero (mode : RMode) (e : Int) (p q : Bool) : fmaNum mode (.inf p) (.fin q 0 e false) (.nan false) = (.nan false, fNV) :=
  congrArg (Prod.mk _) BitVec.or_zero

theorem divNum_zero (e : Int) (m : Nat) (p q : Bool) :
    divNum (.fin p m e false) (.fin q 0 e false) = if m = 0 then (.nan false, fNV) else (.inf (p != q), fDZ) := rfl

theorem sqrtNum_negative (e : Int) {m : Nat} (ne : m ≠ 0) : sqrtNum (.fin true m e false) = (.nan false, fNV) := by
  rw [sqrtNum, if_neg ne, if_pos rfl]

end Sys2Proof.Machine

open Sys2Proof Sys2Proof.Machine

/-- Settles O22: each operation has one lemma for NaN operands and one for each special case above. -/
theorem nanResults : Obligations.NanResults := by
  refine ⟨fun t mode sat a b float => ⟨decodeStd_isSig float, fun nan => ?_, fun nan => ?_⟩, fun mode e m p q => ?_⟩
  · rw [isNan_iff, isNan_iff] at nan
    have minus : (∃ s, decodeStd t a = .nan s) ∨ ∃ s, (decodeStd t b).negate = .nan s := by rwa [negate_nan]
    refine ⟨rounded_of_nan (addNum_nan mode nan) .., ?_, rounded_of_nan (mulNum_nan nan) ..,
      rounded_of_nan (divNum_nan nan) .., fun c small ne => ?_⟩
    · simpa only [negate_isSig] using rounded_of_nan (addNum_nan mode minus) t mode sat
    · rw [cmpNum_nan nan, floatCond_none small ne]
  · obtain ⟨s, e⟩ := isNan_iff.mp nan
    refine ⟨?_, ?_, ?_, ?_, ?_, ?_, fun num => ⟨minNum_nan_left false nan num, minNum_nan_right true nan num⟩,
      fun r int => convert_int_nan float e int mode sat⟩
    · rw [e]; exact rounded_nan ..
    · rw [e]; exact rounded_nan ..
    · rw [e]; exact rounded_nan ..
    · rw [e]; exact rounded_nan ..
    · rw [e]; exact convert_float_nan float e mode sat
    · rw [e]; exact frintOf_nan e mode
  · exact ⟨addNum_zeros mode e p q, addNum_opposite mode e p, addNum_infs mode p q, rfl, fmaNum_inf_zero mode e p q,
      divNum_zero e m p q, rfl, rfl, sqrtNum_negative e, rfl⟩

end

section
/-! PROOFS. The grid of a format as rational numbers, and the lower neighbour of a magnitude on it (R107, R112, R114). -/

namespace Sys2Proof.Machine

/-- The rational m * 2^e. -/
def magValue (m : Nat) (e : Int) : ℚ := (m : ℚ) * (2 : ℚ) ^ e

/-- The value of a grid index as a rational. -/
def Grid.value (g : Grid) (k : Nat) : ℚ := magValue (g.val k).1 (g.val k).2

/-- How many grid values share one spacing. -/
def Grid.span (g : Grid) : Nat := 2 ^ (g.prec - 1)

/-- The exponent of the smallest spacing of a grid. -/
def Grid.unit (g : Grid) : Int := g.emin - (g.prec : Int) + 1

theorem spacing_pos (q : Int) : (0 : ℚ) < 2 ^ q := zpow_pos two_pos q

theorem magValue_add (m : Nat) (q : Int) (j : Nat) : magValue m (q + j) = magValue (m * 2 ^ j) q := by
  rw [magValue, magValue, zpow_add₀ two_ne_zero, zpow_natCast]
  push_cast
  ring

theorem magValue_succ (n : Nat) (q : Int) : magValue (n + 1) q = magValue n q + 2 ^ q := by
  rw [magValue, magValue, Nat.cast_succ, add_one_mul]

theorem magValue_two_pow (i : Nat) (q : Int) : magValue (2 ^ i) q = 2 ^ (q + i) := by
  rw [← one_mul (2 ^ i), ← magValue_add, magValue, Nat.cast_one, one_mul]

theorem magValue_lt_iff {a b : Nat} {q : Int} : magValue a q < magValue b q ↔ a < b := by
  rw [magValue, magValue, mul_lt_mul_iff_left₀ (spacing_pos q), Nat.cast_lt]

/-! ## The values of a grid (R107) -/

section
variable {g : Grid} {n j : Nat}

theorem span_pos (g : Grid) : 0 < g.span := Nat.two_pow_pos _

theorem value_below {k : Nat} (h : k < g.span) : g.value k = magValue k g.unit := by
  have : g.val k = (k, g.unit) := if_pos h
  rw [Grid.value, this]

theorem value_above {k : Nat} (h : g.span ≤ k) : g.value k = magValue (g.span + k % g.span) (g.unit + ((k / g.span - 1 : Nat) : Int)) := by
  have : g.val k = (g.span + k % g.span, g.unit + ((k / g.span - 1 : Nat) : Int)) := if_neg (Nat.not_lt.mpr h)
  rw [Grid.value, this]

/-- Index n + j * span stands at n times the spacing of its binade, the end of the binade included. -/
theorem value_binade (low : j = 0 ∨ g.span ≤ n) (high : n ≤ 2 * g.span) : g.value (n + j * g.span) = magValue n (g.unit + j) := by
  have pos := span_pos g
  rcases Nat.lt_or_ge n g.span with below | above
  · obtain rfl : j = 0 := by omega
    rw [Nat.zero_mul, Nat.add_zero, value_below below, Nat.cast_zero, add_zero]
  · obtain ⟨i, rfl⟩ := Nat.exists_eq_add_of_le above
    have index : g.span + i + j * g.span = i + g.span * (1 + j) := by ring
    rw [value_above (le_trans above (Nat.le_add_right ..)), index, Nat.add_mul_mod_self_left, Nat.add_mul_div_left _ _ pos]
    rcases Nat.lt_or_ge i g.span with inside | atEnd
    · rw [Nat.mod_eq_of_lt inside, Nat.div_eq_of_lt inside, Nat.zero_add, Nat.add_sub_cancel_left]
    · obtain rfl : i = g.span := by omega
      rw [Nat.mod_self, Nat.div_self pos, Nat.add_zero, Nat.add_sub_cancel_left, Nat.add_comm 1 j, Nat.cast_succ, ← add_assoc]
      rw [← Nat.mul_two]
      exact magValue_add g.span _ 1

/-- Two neighbours within a binade lie its spacing apart. -/
theorem value_next (low : j = 0 ∨ g.span ≤ n) (high : n < 2 * g.span) :
    g.value (n + j * g.span + 1) = g.value (n + j * g.span) + 2 ^ (g.unit + (j : Int)) := by
  rw [Nat.add_right_comm, value_binade (low.imp_right Nat.le_succ_of_le) high, value_binade low high.le, magValue_succ]

/-- Every index lies in a binade. -/
theorem exists_binade (g : Grid) (k : Nat) : ∃ n j, (j = 0 ∨ g.span ≤ n) ∧ n < 2 * g.span ∧ k = n + j * g.span := by
  have pos := span_pos g
  rcases Nat.lt_or_ge k g.span with below | above
  · exact ⟨k, 0, .inl rfl, by omega, by omega⟩
  · have rest := Nat.mod_lt k pos
    have quot : 1 ≤ k / g.span := (Nat.one_le_div_iff pos).mpr above
    refine ⟨g.span + k % g.span, k / g.span - 1, .inr (Nat.le_add_right ..), by omega, ?_⟩
    calc k = k % g.span + (k / g.span - 1 + 1) * g.span := by rw [Nat.sub_add_cancel quot, Nat.mul_comm, Nat.mod_add_div]
      _ = g.span + k % g.span + (k / g.span - 1) * g.span := by ring

theorem value_strictMono (g : Grid) : StrictMono g.value := by
  refine strictMono_nat_of_lt_succ fun k => ?_
  obtain ⟨n, j, low, high, rfl⟩ := exists_binade g k
  rw [value_next low high]
  exact lt_add_of_pos_right _ (spacing_pos _)

end

/-! ## What remains of a magnitude above a multiple of the spacing (R112) -/

/-- A rest tells where a remainder x lies in a spacing u. -/
def Rest.Within (r : Rest) (x u : ℚ) : Prop :=
  match r with
  | .none => x = 0
  | .low => 0 < x ∧ 2 * x < u
  | .half => 2 * x = u
  | .high => u < 2 * x ∧ x < u

theorem Rest.Within.scale {r : Rest} {x u c : ℚ} (h : r.Within x u) (pos : 0 < c) : r.Within (x * c) (u * c) := by
  cases r with
  | none => exact mul_eq_zero_of_left h c
  | low => exact ⟨mul_pos h.1 pos, by rw [← mul_assoc]; exact mul_lt_mul_of_pos_right h.2 pos⟩
  | half => rw [Rest.Within, ← mul_assoc]; exact congrArg (· * c) h
  | high => exact ⟨by rw [← mul_assoc]; exact mul_lt_mul_of_pos_right h.1 pos, mul_lt_mul_of_pos_right h.2 pos⟩

/-- A remainder is at least 0 and less than the spacing. -/
theorem Rest.Within.bounds {r : Rest} {x u : ℚ} (pos : 0 < u) (h : r.Within x u) : 0 ≤ x ∧ x < u := by
  cases r <;> simp only [Rest.Within] at h <;> constructor <;> linarith

/-- The rest of a remainder r in a spacing of twice h. -/
def restOf (r h : Nat) : Rest := if r < h then (if r = 0 then .none else .low) else if r = h then .half else .high

theorem restOf_within {r h : Nat} (lt : r < 2 * h) : (restOf r h).Within (r : ℚ) ((2 * h : Nat) : ℚ) := by
  rw [restOf]
  split_ifs with small zero half
  · exact Nat.cast_eq_zero.mpr zero
  · exact ⟨by exact_mod_cast Nat.pos_of_ne_zero zero, by exact_mod_cast (by omega : 2 * r < 2 * h)⟩
  · rw [half]; exact (Nat.cast_mul 2 h).symm
  · exact ⟨by exact_mod_cast (by omega : 2 * h < 2 * r), by exact_mod_cast lt⟩

theorem shiftRest_zero (m : Nat) : shiftRest m 0 false = (m, .none) := rfl

theorem shiftRest_past {m sh : Nat} (ne : m ≠ 0) (past : m.log2 + 1 < sh) : shiftRest m sh false = (0, .low) := by
  rw [shiftRest, if_neg (by omega), if_pos past, decide_eq_false ne]
  rfl

theorem shiftRest_succ {m sh : Nat} (within : ¬ m.log2 + 1 < sh + 1) :
    shiftRest m (sh + 1) false = (m / 2 ^ (sh + 1), restOf (m % 2 ^ (sh + 1)) (2 ^ sh)) := by
  rw [shiftRest, if_neg (Nat.succ_ne_zero sh), if_neg within, restOf]
  simp only [Bool.not_false, Bool.and_true, decide_eq_true_eq, Nat.add_sub_cancel]

/-- A shift right leaves the quotient, and a rest that tells where the remainder lies. -/
theorem shiftRest_within {m : Nat} (ne : m ≠ 0) (sh : Nat) :
    (shiftRest m sh false).2.Within ((m : ℚ) - (shiftRest m sh false).1 * 2 ^ sh) (2 ^ sh) := by
  cases sh with
  | zero => rw [shiftRest_zero]; simp [Rest.Within]
  | succ sh =>
    by_cases past : m.log2 + 1 < sh + 1
    · have small : 2 * m < 2 ^ (sh + 1) := by
        have := Nat.pow_le_pow_right two_pos (Nat.lt_succ_iff.mp past)
        have := Nat.lt_log2_self (n := m)
        omega
      rw [shiftRest_past ne past, Nat.cast_zero, zero_mul, sub_zero]
      exact ⟨Nat.cast_pos.mpr (Nat.pos_of_ne_zero ne), by exact_mod_cast small⟩
    · have rest := restOf_within (r := m % 2 ^ (sh + 1)) (h := 2 ^ sh) (pow_succ' 2 sh ▸ Nat.mod_lt m (Nat.two_pow_pos _))
      have shifted : ((m % 2 ^ (sh + 1) : Nat) : ℚ) = (m : ℚ) - ((m / 2 ^ (sh + 1) : Nat) : ℚ) * 2 ^ (sh + 1) := by
        rw [eq_sub_iff_add_eq]
        exact_mod_cast Nat.mod_add_div' m (2 ^ (sh + 1))
      rw [shifted, ← pow_succ'] at rest
      rw [shiftRest_succ past]
      exact_mod_cast rest

/-- A magnitude in units of 2^q, and what remains of it. -/
def alignTo (m : Nat) (e q : Int) : Nat × Rest := if q ≤ e then (m * 2 ^ (e - q).toNat, .none) else shiftRest m (q - e).toNat false

theorem alignTo_within {m : Nat} (ne : m ≠ 0) (e q : Int) :
    (alignTo m e q).2.Within (magValue m e - magValue (alignTo m e q).1 q) (2 ^ q) := by
  rw [alignTo]
  split_ifs with coarse
  · obtain ⟨j, rfl⟩ := Int.le.dest coarse
    rw [magValue_add, add_sub_cancel_left, Int.toNat_natCast]
    exact sub_self _
  · obtain ⟨j, rfl⟩ := Int.le.dest (Int.le_of_not_le coarse)
    have inUnits := (shiftRest_within ne j).scale (spacing_pos e)
    rw [add_sub_cancel_left, Int.toNat_natCast, magValue_add, magValue, magValue, ← sub_mul, zpow_add₀ two_ne_zero,
      zpow_natCast, mul_comm (2 ^ e)]
    exact_mod_cast inUnits

/-! ## The lower neighbour (R112, R114) -/

/-- A magnitude that is not 0 lies between two powers of two. -/
theorem magValue_log2 {m : Nat} (ne : m ≠ 0) (e : Int) :
    (2 : ℚ) ^ ((m.log2 : Int) + e) ≤ magValue m e ∧ magValue m e < 2 ^ ((m.log2 : Int) + e + 1) := by
  have above : ((2 ^ m.log2 : Nat) : ℚ) ≤ m := Nat.cast_le.mpr (Nat.log2_self_le ne)
  have below : (m : ℚ) < ((2 ^ (m.log2 + 1) : Nat) : ℚ) := Nat.cast_lt.mpr Nat.lt_log2_self
  rw [add_right_comm, zpow_add₀ two_ne_zero, zpow_add₀ two_ne_zero, ← Nat.cast_succ, zpow_natCast, zpow_natCast, magValue]
  push_cast at above below
  exact ⟨mul_le_mul_of_nonneg_right above (spacing_pos e).le, mul_lt_mul_of_pos_right below (spacing_pos e)⟩

/-- The exponent of the spacing at a magnitude whose leading bit stands at `top`. -/
def Grid.spacing (g : Grid) (top : Int) : Int := (if top < g.emin then g.emin else top) - (g.prec : Int) + 1

/-- The spacing at a magnitude is that of its binade. -/
theorem spacing_binade (g : Grid) (top : Int) :
    ∃ j : Nat, g.spacing top = g.unit + j ∧ (j = 0 ∨ g.emin ≤ top) ∧ top < g.spacing top + g.prec := by
  rw [Grid.spacing, Grid.unit]
  split_ifs with small
  · exact ⟨0, by omega, .inl rfl, by omega⟩
  · exact ⟨(top - g.emin).toNat, by omega, .inr (by omega), by omega⟩

/-- The magnitude in units of its spacing lies in the binade of that spacing. -/
theorem alignTo_binade {g : Grid} (two : 2 ≤ g.prec) {m : Nat} (ne : m ≠ 0) (e : Int) :
    let top := (m.log2 : Int) + e
    let n := (alignTo m e (g.spacing top)).1
    (top < g.emin ∨ g.span ≤ n) ∧ n < 2 * g.span := by
  intro top n
  obtain ⟨above, below⟩ := magValue_log2 ne e
  obtain ⟨fromBelow, upto⟩ := (alignTo_within ne e (g.spacing top)).bounds (spacing_pos _)
  obtain ⟨j, _, _, reach⟩ := spacing_binade g top
  have least : magValue n (g.spacing top) ≤ magValue m e := sub_nonneg.mp fromBelow
  have next : magValue m e < magValue (n + 1) (g.spacing top) := by rw [magValue_succ]; exact sub_lt_iff_lt_add'.mp upto
  constructor
  · by_cases small : top < g.emin
    · exact .inl small
    · have first : magValue g.span (g.spacing top) = 2 ^ top := by
        rw [Grid.span, magValue_two_pow, Grid.spacing, if_neg small]
        exact congrArg _ (by omega)
      exact .inr (Nat.lt_succ_iff.mp (magValue_lt_iff.mp ((first.trans_le above).trans_lt next)))
  · have last : magValue (2 * g.span) (g.spacing top) = 2 ^ (g.spacing top + g.prec) := by
      rw [Grid.span, ← pow_succ', Nat.sub_add_cancel (by omega), magValue_two_pow]
    refine magValue_lt_iff.mp (lt_of_le_of_lt least (below.trans_le ?_))
    rw [last]
    exact zpow_le_zpow_right₀ one_le_two reach

theorem lowerIndex_zero (g : Grid) (e : Int) : lowerIndex g 0 e false = (0, 0, .none, true) := rfl

theorem lowerIndex_eq (g : Grid) {m : Nat} (ne : m ≠ 0) (e : Int) :
    let top := (m.log2 : Int) + e
    let nr := alignTo m e (g.spacing top)
    lowerIndex g m e false = (nr.1 + (g.spacing top - g.unit).toNat * g.span, nr.1, nr.2, decide (top < g.emin)) := if_neg ne

/-- What is known of the lower neighbour of a magnitude: where the magnitude lies above it, whether its index is even, and whether the
magnitude is below the smallest normal. -/
structure LowerOf (g : Grid) (y : ℚ) (l : Nat × Nat × Rest × Bool) : Prop where
  rest : l.2.2.1.Within (y - g.value l.1) (g.value (l.1 + 1) - g.value l.1)
  parity : l.2.1 % 2 = l.1 % 2
  tiny : l.2.2.2 = true ↔ y < 2 ^ g.emin

theorem span_even {g : Grid} (two : 2 ≤ g.prec) : g.span % 2 = 0 := by
  rw [Grid.span, (by omega : g.prec - 1 = g.prec - 2 + 1), pow_succ, Nat.mul_mod_left]

/-- A magnitude is below the smallest normal where its leading bit is. -/
theorem tiny_iff {m : Nat} (ne : m ≠ 0) (e emin : Int) : (m.log2 : Int) + e < emin ↔ magValue m e < 2 ^ emin := by
  obtain ⟨above, below⟩ := magValue_log2 ne e
  constructor
  · intro small
    exact below.trans_le (zpow_le_zpow_right₀ one_le_two small)
  · intro small
    by_contra large
    exact absurd small (not_lt.mpr ((zpow_le_zpow_right₀ one_le_two (not_lt.mp large)).trans above))

theorem lowerIndex_spec {g : Grid} (two : 2 ≤ g.prec) (m : Nat) (e : Int) : LowerOf g (magValue m e) (lowerIndex g m e false) := by
  by_cases ne : m = 0
  · subst ne
    have zero : magValue 0 e = 0 := zero_mul _
    have first : g.value 0 = 0 := by rw [value_below (span_pos g), magValue, Nat.cast_zero, zero_mul]
    rw [lowerIndex_zero, zero]
    exact ⟨by rw [first]; exact sub_zero _, rfl, iff_of_true rfl (spacing_pos _)⟩
  · obtain ⟨low, high⟩ := alignTo_binade two ne e
    have rest := alignTo_within ne e (g.spacing (m.log2 + e))
    obtain ⟨j, spacing, zero, _⟩ := spacing_binade g (m.log2 + e)
    have low : j = 0 ∨ g.span ≤ (alignTo m e (g.spacing (m.log2 + e))).1 := by
      rcases low with small | low
      · exact .inl (zero.resolve_right (not_le.mpr small))
      · exact .inr low
    rw [lowerIndex_eq g ne]
    rw [spacing] at low high rest ⊢
    rw [add_sub_cancel_left, Int.toNat_natCast]
    refine ⟨?_, ?_, decide_eq_true_iff.trans (tiny_iff ne e g.emin)⟩
    · rw [value_next low high, value_binade low high.le, add_sub_cancel_left]
      exact rest
    · rw [Nat.add_mod, Nat.mul_mod, span_even two, Nat.mul_zero, Nat.zero_mod, Nat.add_zero, Nat.mod_mod]

end Sys2Proof.Machine
end

section
/-! PROOFS. Rounding to a neighbour, its flags, and overflow (R112 to R114, R116, R120). -/

namespace Sys2Proof.Machine

/-! ## Neighbours on a grid -/

/-- An index whose value is the greatest that is not above y. -/
def LowerAt (v : Nat → ℚ) (y : ℚ) (k : Nat) : Prop := v k ≤ y ∧ y < v (k + 1)

/-- An index whose value is the least that is not below y. -/
def UpperAt (v : Nat → ℚ) (y : ℚ) (k : Nat) : Prop := y ≤ v k ∧ ∀ j, j + 1 = k → v j < y

/-- An index whose value is as near to y as its neighbours', and even where it is one of two nearest. -/
def NearestAt (v : Nat → ℚ) (y : ℚ) (k : Nat) : Prop :=
  ∀ j, j + 1 = k ∨ j = k + 1 → |y - v k| ≤ |y - v j| ∧ (|y - v k| = |y - v j| → k % 2 = 0)

section
variable {v : Nat → ℚ} (mono : StrictMono v) {y : ℚ} {k l : Nat}
include mono

theorem LowerAt.lt_iff (h : LowerAt v y k) (j : Nat) : j < k ↔ v (j + 1) ≤ y :=
  ⟨fun lt => (mono.monotone lt).trans h.1, fun le => Nat.lt_of_succ_lt_succ (mono.lt_iff_lt.mp (le.trans_lt h.2))⟩

theorem UpperAt.lt_iff (h : UpperAt v y k) (j : Nat) : j < k ↔ v j < y := by
  refine ⟨fun lt => ?_, fun lt => mono.lt_iff_lt.mp (lt.trans_le h.1)⟩
  obtain ⟨i, rfl⟩ := Nat.exists_eq_succ_of_ne_zero (Nat.ne_zero_of_lt lt)
  exact (mono.monotone (Nat.lt_succ_iff.mp lt)).trans_lt (h.2 i rfl)

/-- The lower neighbour of a grid value is its own index. -/
theorem LowerAt.unique (h : LowerAt v (v k) l) : l = k :=
  Nat.le_antisymm (mono.le_iff_le.mp h.1) (Nat.lt_succ_iff.mp (mono.lt_iff_lt.mp h.2))

section
variable {r : Rest} (rest : r.Within (y - v l) (v (l + 1) - v l))
include rest

theorem lowerAt_of_rest : LowerAt v y l := by
  obtain ⟨low, high⟩ := rest.bounds (sub_pos.mpr (mono (Nat.lt_succ_self l)))
  exact ⟨sub_nonneg.mp low, sub_lt_sub_iff_right _ |>.mp high⟩

/-- Nothing remains exactly of a grid value. -/
theorem rest_none_iff : r = .none ↔ v l = y := by
  have up := mono (Nat.lt_succ_self l)
  cases r with
  | none => exact iff_of_true rfl (sub_eq_zero.mp rest).symm
  | low => exact iff_of_false nofun (sub_pos.mp rest.1).ne
  | half => exact iff_of_false nofun (by simp only [Rest.Within] at rest; intro e; linarith)
  | high => exact iff_of_false nofun (by simp only [Rest.Within] at rest; intro e; linarith)

/-- At least half of the spacing remains from the middle between the neighbours on. -/
theorem rest_half_iff : r = .half ∨ r = .high ↔ (v l + v (l + 1)) / 2 ≤ y := by
  have up := mono (Nat.lt_succ_self l)
  cases r with
  | none => exact iff_of_false (by simp) (by simp only [Rest.Within] at rest; intro e; linarith)
  | low => exact iff_of_false (by simp) (by simp only [Rest.Within] at rest; intro e; linarith)
  | half => exact iff_of_true (.inl rfl) (by simp only [Rest.Within] at rest; linarith)
  | high => exact iff_of_true (.inr rfl) (by simp only [Rest.Within] at rest; linarith)

/-- Where something remains, the upper neighbour is the next index. -/
theorem upperAt_of_rest : UpperAt v y (if r = .none then l else l + 1) := by
  have exactly := rest_none_iff mono rest
  obtain ⟨low, high⟩ := lowerAt_of_rest mono rest
  split_ifs with none
  · exact ⟨(exactly.mp none).ge, fun j next => (mono (by omega : j < l)).trans_le low⟩
  · refine ⟨high.le, fun j next => ?_⟩
    obtain rfl : j = l := by omega
    exact lt_of_le_of_ne low (mt exactly.mpr none)

/-- The lower neighbour is the nearest where at most half remains, on a tie where it is even. -/
theorem nearestAt_lower (h : 2 * (y - v l) ≤ v (l + 1) - v l) (tie : 2 * (y - v l) = v (l + 1) - v l → l % 2 = 0) : NearestAt v y l := by
  obtain ⟨low, high⟩ := lowerAt_of_rest mono rest
  intro j side
  rw [abs_of_nonneg (sub_nonneg.mpr low)]
  rcases side with below | rfl
  · have less := mono (by omega : j < l)
    rw [abs_of_nonneg (by linarith)]
    exact ⟨by linarith, fun e => by linarith⟩
  · rw [abs_of_neg (by linarith)]
    exact ⟨by linarith, fun e => tie (by linarith)⟩

/-- The upper neighbour is the nearest where at least half remains, on a tie where it is even. -/
theorem nearestAt_upper (h : v (l + 1) - v l ≤ 2 * (y - v l)) (tie : 2 * (y - v l) = v (l + 1) - v l → (l + 1) % 2 = 0) :
    NearestAt v y (l + 1) := by
  obtain ⟨low, high⟩ := lowerAt_of_rest mono rest
  intro j side
  rw [abs_of_neg (sub_neg.mpr high)]
  rcases side with below | rfl
  · obtain rfl : j = l := by omega
    rw [abs_of_nonneg (sub_nonneg.mpr low)]
    exact ⟨by linarith, fun e => tie (by linarith)⟩
  · have more := mono (Nat.lt_succ_self (l + 1))
    rw [abs_of_neg (by linarith)]
    exact ⟨by linarith, fun e => by linarith⟩

end

end

/-! ## What each mode does with a rest (R112) -/

section
variable (neg : Bool) (n : Nat) (r : Rest)

theorem roundsUp_none (mode : RMode) : roundsUp mode neg n .none = false := rfl

/-- A mode that rounds toward zero for a sign drops what remains. -/
theorem roundsUp_toward {mode : RMode} {neg : Bool} (toward : towardZero mode neg = true) (n : Nat) (r : Rest) : roundsUp mode neg n r = false := by
  cases mode with
  | rne | frm => contradiction
  | rtz => cases r <;> rfl
  | rdn =>
    obtain rfl : neg = false := (Bool.not_eq_true' neg).mp toward
    cases r <;> rfl
  | rup =>
    obtain rfl : neg = true := toward
    cases r <;> rfl

/-- A directed mode that does not round toward zero for a sign rounds up whatever remains. -/
theorem roundsUp_away {mode : RMode} {neg : Bool} (directed : mode ≠ .rne ∧ mode ≠ .frm) (away : towardZero mode neg = false)
    (n : Nat) (r : Rest) : roundsUp mode neg n r = (r != .none) := by
  cases mode with
  | rne => exact absurd rfl directed.1
  | frm => exact absurd rfl directed.2
  | rtz => contradiction
  | rdn =>
    obtain rfl : neg = true := (Bool.not_eq_false' neg).mp away
    cases r <;> rfl
  | rup =>
    obtain rfl : neg = false := away
    cases r <;> rfl

end

/-! ## Rounding a magnitude -/

/-- The index that a magnitude is rounded to on the unbounded grid. -/
def Grid.rounded (g : Grid) (mode : RMode) (neg : Bool) (m : Nat) (e : Int) : Nat :=
  let l := lowerIndex g m e false
  if roundsUp mode neg l.2.1 l.2.2.1 then l.1 + 1 else l.1

/-- A magnitude lies at least half-way beyond the largest of the grid. -/
def Grid.overflowsNear (g : Grid) (m : Nat) (e : Int) : Bool :=
  let l := lowerIndex g m e false
  decide (g.maxK < l.1) || (l.1 == g.maxK && (l.2.2.1 == Rest.half || l.2.2.1 == Rest.high))

/-- The rounded magnitude overflows the grid (R113). -/
def Grid.overflows (g : Grid) (mode : RMode) (neg : Bool) (m : Nat) (e : Int) : Bool :=
  match mode with
  | .rtz | .rdn | .rup => decide (g.maxK < g.rounded mode neg m e)
  | _ => g.overflowsNear m e

/-- NX and UF of a rounding that does not overflow (R120). -/
def Grid.flags (g : Grid) (m : Nat) (e : Int) : BitVec 5 :=
  let l := lowerIndex g m e false
  flagIf (l.2.2.1 != Rest.none) fNX ||| flagIf (l.2.2.1 != Rest.none && l.2.2.2) fUF

theorem roundMag_eq (g : Grid) (mode : RMode) (sat neg : Bool) (m : Nat) (e : Int) : roundMag g mode sat neg m e false =
    if g.overflows mode neg m e then (overflowMag g mode sat neg, fOF ||| fNX) else (.idx (g.rounded mode neg m e), g.flags m e) := by
  cases mode <;> rfl

theorem roundMag_overflow {g : Grid} {mode : RMode} {neg : Bool} {m : Nat} {e : Int} (h : g.overflows mode neg m e = true) (sat : Bool) :
    roundMag g mode sat neg m e false = (overflowMag g mode sat neg, fOF ||| fNX) := by rw [roundMag_eq, if_pos h]

theorem roundMag_fits {g : Grid} {mode : RMode} {neg : Bool} {m : Nat} {e : Int} (h : g.overflows mode neg m e = false) (sat : Bool) :
    roundMag g mode sat neg m e false = (.idx (g.rounded mode neg m e), g.flags m e) := by rw [roundMag_eq, h, if_neg Bool.false_ne_true]

/-- A rounding without OF gives the rounded index and its flags. -/
theorem roundMag_without_of {g : Grid} {mode : RMode} {sat neg : Bool} {m : Nat} {e : Int} {r : Nat} {fl : BitVec 5}
    (h : roundMag g mode sat neg m e false = (.idx r, fl)) (noOf : fl &&& fOF = 0) : r = g.rounded mode neg m e ∧ fl = g.flags m e := by
  by_cases ovf : g.overflows mode neg m e = true
  · rw [roundMag_overflow ovf] at h
    obtain ⟨_, rfl⟩ := Prod.mk.inj h
    exact absurd noOf (by decide)
  · rw [roundMag_fits (Bool.not_eq_true _ ▸ ovf)] at h
    obtain ⟨hr, hf⟩ := Prod.mk.inj h
    exact ⟨(Mag.idx.inj hr).symm, hf.symm⟩

/-! ## Flags -/

theorem flagIf_nx (a b : Bool) : (flagIf a fNX ||| flagIf b fUF) &&& fNX ≠ 0 ↔ a = true := by revert a b; decide
theorem flagIf_uf (a b : Bool) : (flagIf a fNX ||| flagIf b fUF) &&& fUF ≠ 0 ↔ b = true := by revert a b; decide
theorem flagIf_of (a b : Bool) : (flagIf a fNX ||| flagIf b fUF) &&& fOF = 0 := by revert a b; decide

section
variable {g : Grid} (two : 2 ≤ g.prec) (neg : Bool) (m : Nat) (e : Int)
include two

/-- A mode that rounds toward zero for a sign gives the lower neighbour of the magnitude. -/
theorem rounded_toward {mode : RMode} {neg : Bool} (toward : towardZero mode neg = true) :
    LowerAt g.value (magValue m e) (g.rounded mode neg m e) := by
  rw [Grid.rounded, roundsUp_toward toward, if_neg Bool.false_ne_true]
  exact lowerAt_of_rest (value_strictMono g) (lowerIndex_spec two m e).rest

/-- Another directed mode gives the upper neighbour. -/
theorem rounded_away {mode : RMode} {neg : Bool} (directed : mode ≠ .rne ∧ mode ≠ .frm) (away : towardZero mode neg = false) :
    UpperAt g.value (magValue m e) (g.rounded mode neg m e) := by
  have upper := upperAt_of_rest (value_strictMono g) (lowerIndex_spec two m e).rest
  rw [Grid.rounded, roundsUp_away directed away]
  rwa [if_congr bne_iff_ne rfl rfl, ite_not]

/-- RNE gives the nearest neighbour, the even one on a tie. -/
theorem rounded_rne : NearestAt g.value (magValue m e) (g.rounded .rne neg m e) := by
  obtain ⟨rest, parity, _⟩ := lowerIndex_spec two m e
  have mono := value_strictMono g
  rw [Grid.rounded]
  generalize lowerIndex g m e false = l at *
  obtain ⟨l, n, r, t⟩ := l
  have lower := nearestAt_lower mono rest
  have upper := nearestAt_upper mono rest
  have step := mono (Nat.lt_succ_self l)
  dsimp only at rest parity lower upper ⊢
  cases r with
  | none =>
    simp only [Rest.Within] at rest
    exact lower (by linarith) (fun e => by linarith)
  | low => exact lower rest.2.le (fun e => absurd e rest.2.ne)
  | high => exact upper rest.1.le (fun e => absurd e rest.1.ne')
  | half =>
    show NearestAt g.value (magValue m e) (if (n % 2 == 1) = true then l + 1 else l)
    split_ifs with odd
    · have odd : n % 2 = 1 := by simpa using odd
      exact upper (le_of_eq (Eq.symm rest)) (fun _ => by omega)
    · have even : ¬ n % 2 = 1 := by simpa using odd
      exact lower (le_of_eq rest) (fun _ => by omega)

/-- The rounded value differs exactly where something remains. -/
theorem rounded_ne_iff (mode : RMode) : g.value (g.rounded mode neg m e) ≠ magValue m e ↔ (lowerIndex g m e false).2.2.1 ≠ .none := by
  have rest := (lowerIndex_spec two m e).rest
  have mono := value_strictMono g
  have exactly := rest_none_iff mono rest
  have above := (lowerAt_of_rest mono rest).2
  refine not_congr ⟨fun same => ?_, fun none => ?_⟩
  · rw [Grid.rounded] at same
    split_ifs at same
    · exact absurd same above.ne'
    · exact exactly.mpr same
  · rw [Grid.rounded, none, roundsUp_none, if_neg Bool.false_ne_true]
    exact exactly.mp none

theorem flags_nx (mode : RMode) : g.flags m e &&& fNX ≠ 0 ↔ g.value (g.rounded mode neg m e) ≠ magValue m e :=
  (flagIf_nx ..).trans (bne_iff_ne.trans (rounded_ne_iff two neg m e mode).symm)

theorem flags_uf (mode : RMode) :
    g.flags m e &&& fUF ≠ 0 ↔ g.value (g.rounded mode neg m e) ≠ magValue m e ∧ magValue m e < 2 ^ g.emin := by
  rw [rounded_ne_iff two neg m e mode, ← (lowerIndex_spec two m e).tiny]
  refine (flagIf_uf ..).trans ?_
  rw [Bool.and_eq_true, bne_iff_ne]

/-! ## Overflow (R113) -/

theorem overflowsNear_iff : g.overflowsNear m e = true ↔ (g.value g.maxK + g.value (g.maxK + 1)) / 2 ≤ magValue m e := by
  have rest := (lowerIndex_spec two m e).rest
  have mono := value_strictMono g
  have lower := lowerAt_of_rest mono rest
  have half := rest_half_iff mono rest
  have step := mono (Nat.lt_succ_self g.maxK)
  rw [Grid.overflowsNear]
  generalize lowerIndex g m e false = l at *
  simp only [Bool.or_eq_true, Bool.and_eq_true, decide_eq_true_eq, beq_iff_eq]
  rw [half]
  rcases Nat.lt_trichotomy g.maxK l.1 with beyond | same | below
  · refine iff_of_true (.inl beyond) ?_
    have := (lower.lt_iff mono g.maxK).mp beyond
    linarith
  · rw [same]
    simp
  · refine iff_of_false (by omega) ?_
    have := lower.2.trans_le (mono.monotone (Nat.succ_le_of_lt below))
    linarith

end

/-- A result is beyond what a mode rounds into a grid: from half-way to the next grid value on under RNE, from that value on under a mode that
rounds toward zero, and above the largest value under one that rounds away from it. -/
def Grid.Exceeds (g : Grid) (mode : RMode) (neg : Bool) (y : ℚ) : Prop :=
  if mode = .rne then (g.value g.maxK + g.value (g.maxK + 1)) / 2 ≤ y
  else if mode = .rtz ∨ (mode = .rdn ∧ neg = false) ∨ (mode = .rup ∧ neg = true) then g.value (g.maxK + 1) ≤ y else g.value g.maxK < y

theorem towardZero_iff (mode : RMode) (neg : Bool) :
    towardZero mode neg = true ↔ mode = .rtz ∨ (mode = .rdn ∧ neg = false) ∨ (mode = .rup ∧ neg = true) := by
  cases mode <;> cases neg <;> decide

theorem overflows_directed (g : Grid) {mode : RMode} (directed : mode ≠ .rne ∧ mode ≠ .frm) (neg : Bool) (m : Nat) (e : Int) :
    g.overflows mode neg m e = decide (g.maxK < g.rounded mode neg m e) := by
  cases mode with
  | rne => exact absurd rfl directed.1
  | frm => exact absurd rfl directed.2
  | rtz | rdn | rup => rfl

theorem overflows_iff {g : Grid} (two : 2 ≤ g.prec) {mode : RMode} (resolved : mode ≠ .frm) (neg : Bool) (m : Nat) (e : Int) :
    g.overflows mode neg m e = true ↔ g.Exceeds mode neg (magValue m e) := by
  have mono := value_strictMono g
  rw [Grid.Exceeds, ← if_congr (towardZero_iff mode neg) rfl rfl]
  by_cases near : mode = .rne
  · subst near
    rw [if_pos rfl]
    exact overflowsNear_iff two m e
  · rw [if_neg near, overflows_directed g ⟨near, resolved⟩, decide_eq_true_eq]
    cases toward : towardZero mode neg with
    | true => rw [if_pos rfl]; exact (rounded_toward two m e toward).lt_iff mono _
    | false => rw [if_neg Bool.false_ne_true]; exact (rounded_away two m e ⟨near, resolved⟩ toward).lt_iff mono _

/-! ## What is representable (R112, R116) -/

/-- Nothing remains of a grid value above its own index. -/
theorem lowerIndex_val {g : Grid} (two : 2 ≤ g.prec) (k : Nat) :
    (lowerIndex g (g.val k).1 (g.val k).2 false).1 = k ∧ (lowerIndex g (g.val k).1 (g.val k).2 false).2.2.1 = .none := by
  have mono := value_strictMono g
  have rest := (lowerIndex_spec two (g.val k).1 (g.val k).2).rest
  have index := LowerAt.unique mono (lowerAt_of_rest mono rest)
  exact ⟨index, (rest_none_iff mono rest).mpr (congrArg g.value index)⟩

/-- A value of the grid is its own rounding, with no flag. -/
theorem roundMag_val {g : Grid} (two : 2 ≤ g.prec) {k : Nat} (fits : k ≤ g.maxK) (mode : RMode) (sat neg : Bool) :
    roundMag g mode sat neg (g.val k).1 (g.val k).2 false = (.idx k, 0) := by
  obtain ⟨index, none⟩ := lowerIndex_val two k
  have same : g.rounded mode neg (g.val k).1 (g.val k).2 = k := by rw [Grid.rounded, none, roundsUp_none, if_neg Bool.false_ne_true, index]
  have near : g.overflowsNear (g.val k).1 (g.val k).2 = false := by
    rw [Grid.overflowsNear, none, index, decide_eq_false (Nat.not_lt.mpr fits)]
    exact Bool.and_false _
  have noOverflow : g.overflows mode neg (g.val k).1 (g.val k).2 = false := by
    cases mode with
    | rne | frm => exact near
    | rtz | rdn | rup => exact decide_eq_false (by rw [same]; exact Nat.not_lt.mpr fits)
  have noFlag : g.flags (g.val k).1 (g.val k).2 = 0 := by rw [Grid.flags, none]; exact BitVec.or_zero (x := 0)
  rw [roundMag_fits noOverflow, same, noFlag]

theorem stdGrid_prec (t : Ty) : 2 ≤ (stdGrid t).prec := by cases t <;> decide

/-- A pattern that is not a NaN is finite or infinite, by its magnitude. -/
theorem decodeStd_num {t : Ty} {b : Word} (num : (decodeStd t b).isNan = false) :
    let k := b.toNat % 2 ^ (t.width - 1)
    (k ≤ (stdGrid t).maxK ∧ decodeStd t b = .fin (signBit t b) ((stdGrid t).val k).1 ((stdGrid t).val k).2 false) ∨
    (k = (stdGrid t).maxK + 1 ∧ decodeStd t b = .inf (signBit t b)) := by
  dsimp only [decodeStd] at num ⊢
  split_ifs at num ⊢ with finite infinite
  · exact .inl ⟨Nat.lt_succ_iff.mp finite, rfl⟩
  · exact .inr ⟨beq_iff_eq.mp infinite, rfl⟩
  · contradiction

/-- A pattern is made of its sign and its magnitude. -/
theorem packStd_signBit {t : Ty} {b : Word} (fits : b.toNat < 2 ^ t.width) :
    packStd t (signBit t b) (.idx (b.toNat % 2 ^ (t.width - 1))) = b := by
  have parts := Nat.mod_add_div b.toNat (2 ^ (t.width - 1))
  have sign : b.toNat / 2 ^ (t.width - 1) < 2 := Nat.div_lt_of_lt_mul (by rwa [Nat.mul_comm, ← two_pow_width])
  have value : (if signBit t b = true then 2 ^ (t.width - 1) else 0) = 2 ^ (t.width - 1) * (b.toNat / 2 ^ (t.width - 1)) := by
    rw [signBit, Nat.mod_eq_of_lt sign]
    generalize b.toNat / 2 ^ (t.width - 1) = q at *
    interval_cases q <;> simp
  show BitVec.ofNat 64 ((if signBit t b = true then 2 ^ (t.width - 1) else 0) + _) = b
  rw [value, Nat.add_comm, parts, BitVec.ofNat_toNat, BitVec.setWidth_eq]

/-- A pattern that is not a NaN is its own rounding (R112). -/
theorem roundStd_decodeStd {t : Ty} {b : Word} (fits : b.toNat < 2 ^ t.width) (num : (decodeStd t b).isNan = false) (mode : RMode) (sat : Bool) :
    roundStd t mode sat (decodeStd t b) = (b, 0) := by
  have pack := packStd_signBit fits
  rcases decodeStd_num num with ⟨le, e⟩ | ⟨top, e⟩
  · rw [e, roundStd, roundMag_val (stdGrid_prec t) le, pack]
  · rw [top] at pack
    rw [e]
    exact congrArg (·, 0) pack

/-- A conversion to the same type changes no number (R116). -/
theorem convert_num {t : Ty} (float : t.isFloat = true) {b : Word} (fits : b.toNat < 2 ^ t.width) (num : (decodeStd t b).isNan = false)
    (mode : RMode) (sat : Bool) : convert t t mode sat b = (b, 0) := by
  rw [convert_self float, roundStd_decodeStd fits num, isSig_of_not_nan num]
  exact congrArg (Prod.mk b) BitVec.or_zero

/-! ## The results of an overflow (R113) -/

theorem stdGrid_inf (t : Ty) : (stdGrid t).inf = true := by cases t <;> rfl

/-- An overflow gives the largest finite value under SAT or a mode that rounds toward zero, and infinity otherwise. -/
theorem packStd_overflow (t : Ty) (mode : RMode) (sat neg : Bool) : packStd t neg (overflowMag (stdGrid t) mode sat neg) =
    packStd t neg (.idx (if sat || towardZero mode neg then (stdGrid t).maxK else (stdGrid t).maxK + 1)) := by
  rw [overflowMag, stdGrid_inf, if_pos (rfl : true = true)]
  split_ifs <;> rfl

theorem roundStd_overflow {t : Ty} {mode : RMode} {neg : Bool} {m : Nat} {e : Int} (h : (stdGrid t).overflows mode neg m e = true) (sat : Bool) :
    roundStd t mode sat (.fin neg m e false) =
      (packStd t neg (.idx (if sat || towardZero mode neg then (stdGrid t).maxK else (stdGrid t).maxK + 1)), fOF ||| fNX) := by
  rw [roundStd, roundMag_overflow h, packStd_overflow]

theorem roundStd_fits {t : Ty} {mode : RMode} {neg : Bool} {m : Nat} {e : Int} (h : (stdGrid t).overflows mode neg m e = false) (sat : Bool) :
    (roundStd t mode sat (.fin neg m e false)).2 &&& fOF = 0 := by
  rw [roundStd, roundMag_fits h]
  exact flagIf_of ..

end Sys2Proof.Machine

open Sys2Proof Sys2Proof.Machine

/-- Settles O20: a magnitude has a lower neighbour and a rest (`lowerIndex_spec`), of which each mode makes the neighbour that it names; nothing
remains of a grid value (`roundMag_val`); where a result overflows is `overflows_iff`. -/
theorem roundsToNeighbour : Obligations.RoundsToNeighbour := by
  refine ⟨fun t mode neg m e r fl _ h noOf => ?_, fun t mode sat b float fits num => ?_, fun t mode sat neg m e _ resolved => ?_⟩
  · have two := stdGrid_prec t
    obtain ⟨rfl, rfl⟩ := roundMag_without_of h noOf
    refine ⟨?_, ?_, ?_, ?_, flags_nx two neg m e mode, flags_uf two neg m e mode⟩
    · rintro rfl
      exact rounded_toward two m e rfl
    · rintro rfl
      cases neg with
      | true => exact rounded_away two m e (by decide) rfl
      | false => exact rounded_toward two m e rfl
    · rintro rfl
      cases neg with
      | true => exact rounded_toward two m e rfl
      | false => exact rounded_away two m e (by decide) rfl
    · rintro rfl
      exact rounded_rne two neg m e
  · exact ⟨roundStd_decodeStd fits num mode sat, convert_num float fits num mode sat⟩
  · have two := stdGrid_prec t
    have beyond := overflows_iff two resolved neg m e
    refine ⟨fun exceeds => ?_, fun fits => roundStd_fits (Bool.eq_false_iff.mpr (mt beyond.mp fits)) sat⟩
    have choice := (Bool.or_eq_true sat (towardZero mode neg)).trans (congrArg _ (propext (towardZero_iff mode neg)))
    rw [roundStd_overflow (beyond.mpr exceeds), if_congr (Iff.of_eq choice) rfl rfl]
    rfl

end

section
/-! PROOFS. The scalar integer arithmetic, the immediates, the predicates, RNG, IDENT and CLOCK (R128 to R130, R132, R139 to R141). -/

namespace Sys2Proof.Machine

variable {s : State} {g : CoreId} {i : SlotId}

/-! ## Integer arithmetic -/

/-- A two-operand integer instruction whose exact result is `z`. -/
theorem intOp2_gives (f : FmtR) (tn : turn s g i (rRegs f)) {op : Int → Int → Int} {z : Int}
    (h : op (intOf f.ty ((s.slot g i).src f.sa f.ty)) (intOf f.ty ((s.slot g i).src f.sb f.ty)) = z) :
    intOp2 f s op = .next (after s g i (guarded (s.slot g i) f.pn f.pred ((s.slot g i).wr f.dst f.ty (wrapInt f.ty f.sat z)))) :=
  h ▸ scalarR_turn f tn _

/-- The least value of a signed type over -1: the quotient is not in the type (R129). -/
def divOverflows (t : Ty) (a b : Int) : Prop := t.isS = true ∧ a = -((2 ^ (t.width - 1) : Nat) : Int) ∧ b = -1

section
variable {t : Ty} {a b : Int}

theorem divOverflows_iff : (t.isS && a == minInt t && b == -1) = true ↔ divOverflows t a b := by
  rw [divOverflows, Bool.and_eq_true, Bool.and_eq_true, beq_iff_eq, beq_iff_eq, and_assoc]
  exact and_congr_right fun signed => by rw [minInt, if_pos signed]

theorem divInt_zero (zero : b = 0) : divInt t a b = ((2 ^ t.width : Nat) : Int) - 1 := if_pos zero

theorem divInt_overflow (h : divOverflows t a b) : divInt t a b = a := by
  have beyond := divOverflows_iff.mpr h
  obtain ⟨signed, least, rfl⟩ := h
  rw [divInt, if_neg (by decide), if_pos beyond, minInt, if_pos signed, least]

theorem divInt_quotient (ne : b ≠ 0) (h : ¬ divOverflows t a b) : divInt t a b = a.tdiv b := by
  rw [divInt, if_neg ne, if_neg (mt divOverflows_iff.mp h)]

theorem remInt_zero (zero : b = 0) : remInt t a b = a := if_pos zero

theorem remInt_overflow (h : divOverflows t a b) : remInt t a b = 0 := by
  have beyond := divOverflows_iff.mpr h
  obtain ⟨_, _, rfl⟩ := h
  rw [remInt, if_neg (by decide), if_pos beyond]

theorem remInt_remainder (ne : b ≠ 0) (h : ¬ divOverflows t a b) : remInt t a b = a - b * a.tdiv b := by
  rw [remInt, if_neg ne, if_neg (mt divOverflows_iff.mp h)]

end

/-- A signed and an unsigned instruction of one meaning: the types of their operands tell them apart. -/
theorem runs_both {c d : Instr} {r : Host.Outcome State Fault Refusal} (hc : exec c s = r) (hd : exec d s = r) : ∀ e ∈ [c, d], exec e s = r :=
  List.forall_mem_cons.mpr ⟨hc, List.forall_mem_cons.mpr ⟨hd, List.forall_mem_nil _⟩⟩

/-! ## Literals of 64 bits -/

/-- A literal of 64 bits is sign-extended (R81). -/
theorem srcW_lit (sl : Slot) (n : BitVec 6) : sl.srcW (.lit n) = n.signExtend 64 := patOf_n64 n.toInt

/-! ## IDENT and CLOCK -/

theorem ident_writes (f : FmtS) (tn : turn s g i (specRegs [f.dst])) (may : f.imm.toNat ≠ 11 ∨ (s.slot g i).level = 2) :
    execIdent f s = .next (after s g i ((s.slot g i).wrW f.dst (s.identity g i (s.slot g i) f.imm.toNat))) := by
  have allowed : (f.imm.toNat = 11 && (s.slot g i).level != 2) = false := by
    rcases may with other | host
    · rw [decide_eq_false other, Bool.false_and]
    · rw [host]; exact Bool.and_false _
  exact runSlot_done tn (by rw [tn.1]; exact if_neg (by rw [allowed]; nofun))

theorem ident_below (f : FmtS) (tn : turn s g i (specRegs [f.dst])) (own : f.imm.toNat = 11) (below : (s.slot g i).level ≠ 2) :
    execIdent f s = .next (raise s g i (trapOf .priv)) := by
  have refused : (f.imm.toNat = 11 && (s.slot g i).level != 2) = true := Bool.and_eq_true_iff.mpr ⟨decide_eq_true own, bne_iff_ne.mpr below⟩
  exact runSlot_trap tn (by rw [tn.1]; exact if_pos refused)

theorem clock_writes (f : FmtS) (tn : turn s g i (specRegs [f.dst])) : execClock f s =
    .next (after s g i ((s.slot g i).wrW f.dst (if f.imm = 0 then s.cycleOf (s.slot g i).dom else s.timeOf (s.slot g i).dom))) :=
  runSlot_done tn rfl

end Sys2Proof.Machine

open Sys2Proof Sys2Proof.Machine

/-- Settles O12: each instruction is `intOp2` on its exact result; DIV and REM by their three cases. -/
theorem integerResults : Obligations.IntegerResults := by
  intro s g i f tn
  have gives := fun (op : Int → Int → Int) z h => intOp2_gives (op := op) (z := z) f tn h
  refine ⟨gives (fun a b => a + b) _ rfl, gives (fun a b => a - b) _ rfl, gives (fun a b => a * b) _ rfl, gives (highInt f.ty) _ rfl,
    gives (highInt f.ty) _ rfl, ?_, ?_, ?_, ?_⟩
  · intro e he
    have run := runs_both (r := intOp2 f s (divInt f.ty)) rfl rfl e he
    exact ⟨fun z => run.trans (gives _ _ (divInt_zero z)), fun o => run.trans (gives _ _ (divInt_overflow o)),
      fun n o => run.trans (gives _ _ (divInt_quotient n o))⟩
  · intro e he
    have run := runs_both (r := intOp2 f s (remInt f.ty)) rfl rfl e he
    exact ⟨fun z => run.trans (gives _ _ (remInt_zero z)), fun o => run.trans (gives _ _ (remInt_overflow o)),
      fun n o => run.trans (gives _ _ (remInt_remainder n o))⟩
  · intro e he
    have run := runs_both (r := intOp2 f s (fun a b => if a < b then a else b)) rfl rfl e he
    exact run.trans (gives _ _ (min_def_lt _ _).symm)
  · intro e he
    have run := runs_both (r := intOp2 f s (fun a b => if a < b then b else a)) rfl rfl e he
    exact run.trans (gives _ _ (max_def_lt _ _).symm)

/-- Settles O14: each instruction is `immOp` on the function of the spec. -/
theorem immediateResults : Obligations.ImmediateResults := by
  intro s g i f tn
  exact ⟨immOp_turn f tn (fun sl => sl.srcW f.sa + immS f), immOp_turn f tn (fun sl => sl.srcW f.sa &&& immS f),
    immOp_turn f tn (fun sl => sl.srcW f.sa ||| immS f), immOp_turn f tn (fun sl => sl.srcW f.sa ^^^ immS f),
    immOp_turn f tn (fun sl => sl.srcW f.sa <<< f.imm.toNat), immOp_turn f tn (fun sl => sl.srcW f.sa >>> f.imm.toNat),
    immOp_turn f tn (fun sl => (sl.srcW f.sa).sshiftRight f.imm.toNat),
    immOp_turn f tn (fun sl => if (sl.srcW f.sa).slt (immS f) then 1 else 0), immOp_turn f tn (fun _ => immS f),
    immOp_turn f tn (fun sl => f.imm ++ (sl.srcW f.dst).extractLsb' 0 32),
    immOp_turn f tn (fun sl => (sl.pc + f.imm.signExtend 48).setWidth 64)⟩

/-- Settles O16: each instruction is `predOp` on the function of the spec. -/
theorem predicateResults : Obligations.PredicateResults := by
  intro s g i f tn
  exact ⟨predOp_turn f tn (fun sl => (sl.src f.sa .n32).setWidth 32), predOp_turn f tn (fun sl => sl.readP (FmtR.pa f) &&& sl.readP (FmtR.pb f)),
    predOp_turn f tn (fun sl => sl.readP (FmtR.pa f) ||| sl.readP (FmtR.pb f)),
    predOp_turn f tn (fun sl => sl.readP (FmtR.pa f) ^^^ sl.readP (FmtR.pb f)), predOp_turn f tn (fun sl => ~~~ sl.readP (FmtR.pa f))⟩

/-- Settles O17: RNG works in its slot alone; the word decodes by evaluation. -/
theorem rngResult : Obligations.RngResult :=
  ⟨fun _ _ _ f tn => runSlot_done (f := fun sl => .done (sl.wrW f.dst (rngOf (sl.srcW f.sa) (sl.srcW f.sb)))) tn rfl, srcW_lit, rfl⟩

/-- Settles O18: IDENT by its one check, NOP and CLOCK at once. -/
theorem identityAndClock : Obligations.IdentityAndClock := by
  intro s g i
  refine ⟨fun tn => runSlot_done tn rfl, fun f tn => ⟨ident_writes f tn, ident_below f tn, fun zero => ?_, fun ne => ?_⟩⟩
  · exact (clock_writes f tn).trans (by rw [if_pos zero])
  · exact (clock_writes f tn).trans (by rw [if_neg ne])

end

section
/-! PROOFS. The bit instructions of row 0x3, told by the bits of their results (R131, R132). -/

namespace Sys2Proof.Machine

/-! ## Sources have the bits of their type -/

section
variable {t : Ty}

/-- A mode that rounds to nearest goes up from the half-way point or beyond. -/
theorem rest_of_roundsUp {mode : RMode} (nearest : mode = .rne ∨ mode = .frm) {neg : Bool} {n : Nat} {r : Rest}
    (up : roundsUp mode neg n r = true) : r = .half ∨ r = .high := by
  cases r with
  | none | low => rcases nearest with rfl | rfl <;> contradiction
  | half => exact .inl rfl
  | high => exact .inr rfl

theorem rounded_le_of_near {g : Grid} {mode : RMode} (nearest : mode = .rne ∨ mode = .frm) {neg : Bool} {m : Nat} {e : Int}
    (fits : g.overflowsNear m e = false) : g.rounded mode neg m e ≤ g.maxK := by
  simp only [Grid.overflowsNear, Bool.or_eq_false_iff, Bool.and_eq_false_iff, decide_eq_false_iff_not, beq_eq_false_iff_ne] at fits
  obtain ⟨le, below⟩ := fits
  dsimp only [Grid.rounded]
  split
  · next up =>
    have ne := below.resolve_right fun ⟨half, high⟩ => (rest_of_roundsUp nearest up).elim half high
    omega
  · exact Nat.not_lt.mp le

/-- Rounding up brings no index beyond the largest, where nothing overflows. -/
theorem rounded_le {g : Grid} {mode : RMode} {neg : Bool} {m : Nat} {e : Int} (fits : g.overflows mode neg m e = false) :
    g.rounded mode neg m e ≤ g.maxK := by
  cases mode with
  | rtz | rdn | rup => exact Nat.not_lt.mp (of_decide_eq_false fits)
  | rne => exact rounded_le_of_near (.inl rfl) fits
  | frm => exact rounded_le_of_near (.inr rfl) fits

/-- The largest index of a type, infinity included, leaves its sign bit free. -/
theorem maxK_lt (float : t.isInt = false) : (stdGrid t).maxK + 1 < 2 ^ (t.width - 1) := by
  cases t with
  | s8 | s16 | s32 | s64 | n8 | n16 | n32 | n64 => contradiction
  | f16 | bf16 | f32 | f64 => decide

theorem packStd_lt (float : t.isInt = false) (neg : Bool) {k : Nat} (hk : k ≤ (stdGrid t).maxK + 1) :
    (packStd t neg (.idx k)).toNat < 2 ^ t.width := by
  have top := maxK_lt float
  have half := two_pow_width t
  refine lt_of_le_of_lt (BitVec.toNat_ofNat .. ▸ Nat.mod_le _ _) ?_
  split <;> omega

/-- A rounded number has the bits of its type. -/
theorem roundStd_lt (float : t.isInt = false) (mode : RMode) (sat neg : Bool) (m : Nat) (e : Int) :
    (roundStd t mode sat (.fin neg m e false)).1.toNat < 2 ^ t.width := by
  by_cases ovf : (stdGrid t).overflows mode neg m e = true
  · rw [roundStd_overflow ovf]
    refine packStd_lt float neg ?_
    split <;> omega
  · have fits := Bool.not_eq_true _ ▸ ovf
    rw [roundStd, roundMag_fits fits]
    exact packStd_lt float neg (Nat.le_succ_of_le (rounded_le fits))

theorem patOf_lt (t : Ty) (z : Int) : (patOf t z).toNat < 2 ^ t.width := by
  have pat := patOf_toNat t z
  have high := Int.emod_lt_of_pos z (b := ((2 ^ t.width : Nat) : Int)) (by have := Nat.two_pow_pos t.width; omega)
  omega

theorem lowBits_lt (t : Ty) (w : Word) : (lowBits t w).toNat < 2 ^ t.width := by
  rw [toNat_lowBits]
  exact Nat.mod_lt _ (Nat.two_pow_pos _)

/-- A source is a pattern of w bits (R127). -/
theorem src_lt (sl : Slot) (sp : Spec) (t : Ty) : (sl.src sp t).toNat < 2 ^ t.width := by
  cases sp with
  | v n => exact Nat.two_pow_pos _
  | x n => exact lowBits_lt ..
  | c n => exact lowBits_lt ..
  | lit n =>
    change (literal n t).toNat < _
    rw [literal]
    split
    · exact patOf_lt ..
    · next float => exact roundStd_lt (Bool.not_eq_true _ ▸ float) ..

theorem getLsbD_beyond {a : Word} {k n : Nat} (fits : a.toNat < 2 ^ n) (hk : n ≤ k) : a.getLsbD k = false :=
  Nat.testBit_lt_two_pow (lt_of_lt_of_le fits (Nat.pow_le_pow_right Nat.zero_lt_two hk))

/-- The bits of a source lie below its width. -/
theorem getLsbD_src (sl : Slot) (sp : Spec) (t : Ty) (k : Nat) : (sl.src sp t).getLsbD k = (decide (k < t.width) && (sl.src sp t).getLsbD k) := by
  by_cases hk : k < t.width
  · rw [decide_eq_true hk, Bool.true_and]
  · rw [getLsbD_beyond (src_lt sl sp t) (Nat.not_lt.mp hk), Bool.and_false]

/-- A count is less than the width. -/
theorem count_lt (t : Ty) (z : Int) : (z % (t.width : Int)).toNat < t.width := by
  have pos := (width_pos_le t).1
  have low := Int.emod_nonneg z (b := (t.width : Int)) (by omega)
  have high := Int.emod_lt_of_pos z (b := (t.width : Int)) (by omega)
  omega

end

/-! ## The bits of a pattern -/

section
variable {t : Ty} {k : Nat}

theorem getLsbD_lowBits (hk : k < t.width) (w : Word) : (lowBits t w).getLsbD k = w.getLsbD k := by
  have bound := (width_pos_le t).2
  rw [lowBits_eq_setWidth, BitVec.getLsbD_setWidth, BitVec.getLsbD_setWidth, decide_eq_true hk, decide_eq_true (by omega : k < 64),
    Bool.true_and, Bool.true_and]

/-- A pattern is the low bits of the integer in 64 bits. -/
theorem patOf_eq_lowBits (t : Ty) (z : Int) : patOf t z = lowBits t (BitVec.ofInt 64 z) := by
  have divides : ((2 ^ t.width : Nat) : Int) ∣ ((2 ^ 64 : Nat) : Int) := Int.natCast_dvd_natCast.mpr (Nat.pow_dvd_pow 2 (width_pos_le t).2)
  apply BitVec.eq_of_toNat_eq
  rw [toNat_lowBits, BitVec.toNat_ofInt]
  zify
  rw [patOf_toNat, Int.toNat_of_nonneg (Int.emod_nonneg _ (by decide))]
  push_cast at divides ⊢
  exact (Int.emod_emod_of_dvd z divides).symm

theorem testBit_packFields {b n j i : Nat} (f : Nat → Nat) (hj : j < n) (hi : i < b) :
    (packFields b f n).testBit (b * j + i) = (f j).testBit i := by
  have field := congrArg (fun x => x.testBit i) (packFields_field b f j n hj)
  simpa only [Nat.testBit_mod_two_pow, Nat.testBit_div_two_pow, decide_eq_true hi, Bool.true_and, Nat.add_comm i] using field

/-- Bit i of group j comes from the group that lies as far from the other end. -/
theorem testBit_reverseGroups {b n j i : Nat} (x : Nat) (hj : j < n) (hi : i < b) :
    (reverseGroups b n x).testBit (b * j + i) = x.testBit (b * (n - 1 - j) + i) := by
  rw [reverseGroups, testBit_packFields _ hj hi, Nat.testBit_div_two_pow, Nat.add_comm]

theorem getLsbD_ofNat_width (hk : k < t.width) (n : Nat) : (BitVec.ofNat 64 n).getLsbD k = n.testBit k := by
  rw [BitVec.getLsbD_ofNat, decide_eq_true (lt_of_lt_of_le hk (width_pos_le t).2), Bool.true_and]

theorem getLsbD_brev (hk : k < t.width) (a : Word) :
    (BitVec.ofNat 64 (reverseGroups 1 t.width a.toNat)).getLsbD k = a.getLsbD (t.width - 1 - k) := by
  have bit := testBit_reverseGroups a.toNat hk Nat.zero_lt_one
  rw [getLsbD_ofNat_width hk]
  rwa [one_mul, one_mul, Nat.add_zero, Nat.add_zero] at bit

theorem getLsbD_bswap (hk : k < t.width) (a : Word) :
    (BitVec.ofNat 64 (reverseGroups 8 t.size a.toNat)).getLsbD k = a.getLsbD (8 * (t.width / 8 - 1 - k / 8) + k % 8) := by
  have bit := testBit_reverseGroups a.toNat (Nat.div_lt_of_lt_mul hk) (Nat.mod_lt k (by decide : 0 < 8))
  have size : t.width / 8 = t.size := Nat.mul_div_cancel_left _ (by decide)
  rw [Nat.div_add_mod] at bit
  rw [getLsbD_ofNat_width hk, size]
  exact bit

end

/-! ## Counts of bits -/

/-- How many of the low n bits are set. -/
theorem popCount_eq (x : Nat) : ∀ n, popCount x n = ((List.range n).filter (fun k => x.testBit k)).length
  | 0 => rfl
  | n + 1 => by
    rw [popCount, popCount_eq x n, ← Nat.toNat_testBit, List.range_succ, List.filter_append, List.length_append]
    cases h : x.testBit n <;> simp [h]

/-- CTZ's scan: zeros up to where it ends, and a set bit there. -/
theorem ctzFrom_spec (x : Nat) : ∀ n i, ctzFrom x n i ≤ n ∧ (∀ k, k < ctzFrom x n i → x.testBit (i + k) = false) ∧
    (ctzFrom x n i < n → x.testBit (i + ctzFrom x n i) = true)
  | 0, _ => ⟨le_rfl, nofun, nofun⟩
  | n + 1, i => by
    have first := Nat.testBit_eq_decide_div_mod_eq (i := i) (x := x)
    rw [ctzFrom]
    split
    · next set => exact ⟨Nat.zero_le _, nofun, fun _ => first.trans (decide_eq_true set)⟩
    · next clear =>
      obtain ⟨le, zeros, one⟩ := ctzFrom_spec x n (i + 1)
      have shift (k : Nat) : i + (k + 1) = i + 1 + k := by omega
      refine ⟨Nat.succ_le_succ le, fun k hk => ?_, fun lt => ?_⟩
      · cases k with
        | zero => exact first.trans (decide_eq_false clear)
        | succ k => rw [shift]; exact zeros k (Nat.lt_of_succ_lt_succ hk)
      · rw [shift]; exact one (Nat.lt_of_succ_lt_succ lt)

/-- CLZ: how many zeros stand above the first set bit. -/
theorem clzOf_spec (t : Ty) (a : Word) : ∃ n, n ≤ t.width ∧ clzOf t a = BitVec.ofNat 64 n ∧
    (∀ k, k < t.width → t.width - n ≤ k → a.getLsbD k = false) ∧ (n < t.width → a.getLsbD (t.width - 1 - n) = true) := by
  have low (k : Nat) (hk : k < t.width) : a.getLsbD k = (a.toNat % 2 ^ t.width).testBit k := by
    rw [Nat.testBit_mod_two_pow, decide_eq_true hk, Bool.true_and]; rfl
  by_cases zero : a.toNat % 2 ^ t.width = 0
  · refine ⟨t.width, le_rfl, by rw [clzOf, if_pos zero], fun k hk _ => ?_, fun lt => absurd lt (lt_irrefl _)⟩
    rw [low k hk, zero, Nat.zero_testBit]
  · have top : (a.toNat % 2 ^ t.width).log2 < t.width := (Nat.log2_lt zero).mpr (Nat.mod_lt _ (Nat.two_pow_pos _))
    refine ⟨t.width - 1 - (a.toNat % 2 ^ t.width).log2, by omega, by rw [clzOf, if_neg zero], fun k hk above => ?_, fun _ => ?_⟩
    · rw [low k hk]
      exact Nat.testBit_lt_two_pow (lt_of_lt_of_le Nat.lt_log2_self (Nat.pow_le_pow_right Nat.zero_lt_two (by omega)))
    · rw [show t.width - 1 - (t.width - 1 - (a.toNat % 2 ^ t.width).log2) = (a.toNat % 2 ^ t.width).log2 by omega, low _ top]
      exact Nat.testBit_log2 zero

/-! ## Rotations -/

section
variable {t : Ty} {k : Nat} {a : Word}

theorem shrPat_eq (a : Word) (n : Nat) : shrPat a n = a >>> n := by
  apply BitVec.eq_of_toNat_eq
  rw [shrPat, BitVec.toNat_ofNat, BitVec.toNat_ushiftRight, Nat.shiftRight_eq_div_pow]
  exact Nat.mod_eq_of_lt (lt_of_le_of_lt (Nat.div_le_self ..) a.isLt)

theorem shlPat_eq (t : Ty) (a : Word) (n : Nat) : shlPat t a n = lowBits t (a <<< n) := by
  rw [shlPat]
  congr 1
  apply BitVec.eq_of_toNat_eq
  rw [BitVec.toNat_ofNat, BitVec.toNat_shiftLeft, Nat.shiftLeft_eq]

theorem getLsbD_shlPat (hk : k < t.width) (n : Nat) : (shlPat t a n).getLsbD k = (decide (n ≤ k) && a.getLsbD (k - n)) := by
  rw [shlPat_eq, getLsbD_lowBits hk, BitVec.getLsbD_shiftLeft, decide_eq_true (lt_of_lt_of_le hk (width_pos_le t).2), Bool.true_and,
    ← decide_not, decide_eq_decide.mpr Nat.not_lt]

/-- Two shifts of a pattern in opposite directions, by counts that make up the width, are a rotation. -/
theorem getLsbD_rotate (fits : a.toNat < 2 ^ t.width) (hk : k < t.width) {m n : Nat} (whole : m + n = t.width) :
    (shlPat t a m ||| shrPat a n).getLsbD k = a.getLsbD ((k + n) % t.width) := by
  rw [BitVec.getLsbD_or, getLsbD_shlPat hk, shrPat_eq, BitVec.getLsbD_ushiftRight]
  by_cases above : m ≤ k
  · have place : (k + n) % t.width = k - m := by
      rw [show k + n = k - m + t.width by omega, Nat.add_mod_right, Nat.mod_eq_of_lt (by omega)]
    rw [decide_eq_true above, Bool.true_and, getLsbD_beyond fits (by omega : t.width ≤ n + k), Bool.or_false, place]
  · rw [decide_eq_false above, Bool.false_and, Bool.false_or, Nat.mod_eq_of_lt (by omega), Nat.add_comm]

theorem getLsbD_rol (fits : a.toNat < 2 ^ t.width) (hk : k < t.width) {n : Nat} (hn : n < t.width) :
    (shlPat t a n ||| shrPat a (t.width - n)).getLsbD k = a.getLsbD ((k + t.width - n) % t.width) := by
  rw [getLsbD_rotate fits hk (by omega), Nat.add_sub_assoc (by omega)]

theorem getLsbD_ror (fits : a.toNat < 2 ^ t.width) (hk : k < t.width) {n : Nat} (hn : n < t.width) :
    (shrPat a n ||| shlPat t a (t.width - n)).getLsbD k = a.getLsbD ((k + n) % t.width) := by
  rw [BitVec.or_comm, getLsbD_rotate fits hk (by omega)]

/-! ## Fields -/

/-- INS replaces the bits of the field. -/
theorem getLsbD_insertField (hk : k < t.width) (old a : Word) (pos len : Nat) : (insertField t old a pos len).getLsbD k =
    if pos ≤ k ∧ k < pos + len then a.getLsbD (k - pos) else old.getLsbD k := by
  have low : old.toNat % 2 ^ pos < 2 ^ pos := Nat.mod_lt _ (Nat.two_pow_pos _)
  have field : a.toNat % 2 ^ len < 2 ^ len := Nat.mod_lt _ (Nat.two_pow_pos _)
  have both : 2 ^ pos * (a.toNat % 2 ^ len) + old.toNat % 2 ^ pos < 2 ^ (pos + len) := by
    rw [Nat.pow_add]
    calc _ < 2 ^ pos * (a.toNat % 2 ^ len + 1) := by rw [Nat.mul_add]; omega
      _ ≤ _ := Nat.mul_le_mul_left _ field
  have parts : old.toNat % 2 ^ pos + (a.toNat % 2 ^ len) * 2 ^ pos + old.toNat / 2 ^ (pos + len) * 2 ^ (pos + len) =
      2 ^ (pos + len) * (old.toNat / 2 ^ (pos + len)) + (2 ^ pos * (a.toNat % 2 ^ len) + old.toNat % 2 ^ pos) := by ring
  rw [insertField, getLsbD_lowBits hk, getLsbD_ofNat_width hk, parts, Nat.testBit_two_pow_mul_add _ both, Nat.testBit_two_pow_mul_add _ low,
    Nat.testBit_div_two_pow, Nat.testBit_mod_two_pow, Nat.testBit_mod_two_pow]
  by_cases below : k < pos
  · rw [if_pos (by omega), if_pos below, if_neg (by omega), decide_eq_true below, Bool.true_and]; rfl
  · by_cases within : k < pos + len
    · rw [if_pos within, if_neg below, if_pos (by omega), decide_eq_true (by omega), Bool.true_and]; rfl
    · rw [if_neg within, if_neg (by omega), Nat.sub_add_cancel (by omega)]; rfl

/-- The highest bit of a field. -/
theorem msb_field (a : Word) (pos len : Nat) : (a.extractLsb' pos (len + 1)).msb = a.getLsbD (pos + len) := by
  rw [BitVec.msb_eq_getLsbD_last, BitVec.getLsbD_extractLsb', Nat.add_sub_cancel, decide_eq_true (Nat.lt_succ_self len), Bool.true_and]

/-- A field of a pattern as a bit vector, extended by its highest bit where that is set and the type is signed, and by zeros elsewhere. -/
theorem extractField_eq (t : Ty) (a : Word) (pos len : Nat) : extractField t a pos (len + 1) =
    if t.isS && a.getLsbD (pos + len) then lowBits t ((a.extractLsb' pos (len + 1)).signExtend 64)
    else (a.extractLsb' pos (len + 1)).setWidth 64 := by
  have value : (a.extractLsb' pos (len + 1)).toNat = a.toNat / 2 ^ pos % 2 ^ (len + 1) := by
    rw [BitVec.extractLsb'_toNat, Nat.shiftRight_eq_div_pow]
  have sign : (a.toNat / 2 ^ pos % 2 ^ (len + 1) / 2 ^ len % 2 == 1) = a.getLsbD (pos + len) := by
    rw [← msb_field, BitVec.msb_eq_getLsbD_last, BitVec.getLsbD, value, Nat.testBit_eq_decide_div_mod_eq]; rfl
  dsimp only [extractField]
  rw [Nat.add_sub_cancel, sign, ← value]
  split
  · next neg => rw [patOf_eq_lowBits, BitVec.signExtend, BitVec.toInt_eq_msb_cond, msb_field, if_pos (Bool.and_eq_true_iff.mp neg).2]
  · exact BitVec.ofNat_toNat ..

/-- EXTR moves the field down, and extends it by its highest bit or by zeros. -/
theorem getLsbD_extractField (hk : k < t.width) (a : Word) (pos len : Nat) : (extractField t a pos (len + 1)).getLsbD k =
    (a.getLsbD (if k < len + 1 then pos + k else pos + len) && (decide (k < len + 1) || t.isS)) := by
  have bound : k < 64 := lt_of_lt_of_le hk (width_pos_le t).2
  have inside (h : k < len + 1) : (a.extractLsb' pos (len + 1)).getLsbD k = a.getLsbD (pos + k) := by
    rw [BitVec.getLsbD_extractLsb', decide_eq_true h, Bool.true_and]
  rw [extractField_eq]
  by_cases within : k < len + 1
  · rw [if_pos within, decide_eq_true within, Bool.true_or, Bool.and_true]
    split
    · rw [getLsbD_lowBits hk, BitVec.getLsbD_signExtend, decide_eq_true bound, Bool.true_and, if_pos within, inside within]
    · rw [BitVec.getLsbD_setWidth, decide_eq_true bound, Bool.true_and, inside within]
  · rw [if_neg within, decide_eq_false within, Bool.false_or, Bool.and_comm]
    split
    · next neg => rw [getLsbD_lowBits hk, BitVec.getLsbD_signExtend, decide_eq_true bound, Bool.true_and, if_neg within, msb_field, neg,
        (Bool.and_eq_true_iff.mp neg).1]
    · next zero => rw [BitVec.getLsbD_setWidth, BitVec.getLsbD_of_ge _ _ (Nat.not_lt.mp within), Bool.and_false, Bool.eq_false_iff.mpr zero]

end

/-! ## The instructions at their turn -/

section
variable {s : State} {g : CoreId} {i : SlotId}

theorem bitOp1_turn (f : FmtR) (tn : turn s g i (rRegs f)) (op : Word → Word) :
    bitOp1 f s op = .next (after s g i (guarded (s.slot g i) f.pn f.pred ((s.slot g i).wr f.dst f.ty (op ((s.slot g i).src f.sa f.ty))))) :=
  scalarR_turn f tn _

theorem csel_turn (f : FmtR) (tn : turn s g i (rRegs f)) :
    let sl := s.slot g i
    execCsel f s = .next (after s g i (guarded sl f.pn f.pred
      (sl.wr f.dst f.ty (if sl.src f.sc f.ty = 0 then sl.src f.sb f.ty else sl.src f.sa f.ty)))) := by
  intro sl
  refine (scalarR_turn f tn _).trans (congrArg (fun w => Host.Outcome.next (after s g i (guarded _ _ _ (Slot.wr _ _ _ w)))) ?_)
  exact (if_congr bne_iff_ne rfl rfl).trans (ite_not ..)

end

end Sys2Proof.Machine

open Sys2Proof Sys2Proof.Machine

/-- Settles O15: CLZ, CTZ and POPC by what their counts say (`clzOf_spec`, `ctzFrom_spec`, `popCount_eq`), the others bit by bit. -/
theorem bitResults : Obligations.BitResults := by
  intro s g i f tn
  have fits := src_lt (s.slot g i) f.sa f.ty
  have posLt := count_lt f.ty ((s.slot g i).srcCount f.sb f.ty)
  refine ⟨?_, ?_, ?_, ?_, ?_, ?_, ?_, ?_, ?_, csel_turn f tn,
    scalarR_turn f tn (fun sl => sl.wrW f.dst ((sl.readP (FmtR.pa f)).setWidth 64))⟩
  · obtain ⟨n, le, value, zeros, one⟩ := clzOf_spec f.ty ((s.slot g i).src f.sa f.ty)
    exact ⟨n, le, value ▸ bitOp1_turn f tn (clzOf f.ty), zeros, one⟩
  · obtain ⟨le, zeros, one⟩ := ctzFrom_spec ((s.slot g i).src f.sa f.ty).toNat f.ty.width 0
    simp only [Nat.zero_add] at zeros one
    exact ⟨_, le, bitOp1_turn f tn (fun a => BitVec.ofNat 64 (ctzFrom a.toNat f.ty.width 0)), zeros, one⟩
  · exact (bitOp1_turn f tn (fun a => BitVec.ofNat 64 (popCount a.toNat f.ty.width))).trans (by rw [popCount_eq]; rfl)
  · exact ⟨_, bitOp1_turn f tn (fun a => BitVec.ofNat 64 (reverseGroups 1 f.ty.width a.toNat)), fun k hk => getLsbD_brev hk _⟩
  · exact ⟨_, bitOp1_turn f tn (fun a => BitVec.ofNat 64 (reverseGroups 8 f.ty.size a.toNat)), fun k hk => getLsbD_bswap hk _⟩
  · refine ⟨_, scalarR_turn f tn (fun sl => sl.wr f.dst f.ty (extractField f.ty (sl.src f.sa f.ty) (fieldPos f sl) (fieldLen f))),
      fun k hk => ?_⟩
    exact (getLsbD_extractField hk _ _ _).trans (congrArg (· && _) (getLsbD_src ..))
  · exact ⟨_, scalarR_turn f tn (fun sl => sl.wr f.dst f.ty (insertField f.ty (sl.src f.dst f.ty) (sl.src f.sa f.ty) (fieldPos f sl) (fieldLen f))),
      fun k hk => getLsbD_insertField hk ..⟩
  · exact ⟨_, shiftOp_turn f tn (fun a n => shlPat f.ty a n ||| shrPat a (f.ty.width - n)), fun k hk => getLsbD_rol fits hk posLt⟩
  · exact ⟨_, shiftOp_turn f tn (fun a n => shrPat a n ||| shlPat f.ty a (f.ty.width - n)), fun k hk => getLsbD_ror fits hk posLt⟩

end

section
/-! PROOFS. TLBINV, FENCEI, RESUME and ABORT at the levels that may use them, and what a TLBINV leaves held (R143, R286, R319, R333 to R337). -/

namespace Sys2Proof.Machine

variable {s : State} {g : CoreId} {i : SlotId} {f : FmtS}

/-! ## The domain that S and H name -/

theorem not_isU_of_level {sl : Slot} (h : sl.level ≠ 0) : sl.isU = false := beq_eq_false_iff_ne.mpr h

/-- H names the domain of the field, S its own, with a field of 0 (R334, R336). -/
theorem domOperand_priv {sl : Slot} {field : BitVec 8} (may : sl.level = 2 ∨ field = 0) :
    domOperand sl field = some (if sl.level = 2 then field else sl.dom) := by
  rw [domOperand]
  by_cases host : sl.level = 2
  · rw [if_pos host, if_pos host]
  · obtain rfl := may.resolve_left host
    rw [if_neg host, if_neg host, if_neg (by rw [bne_self_eq_false, Bool.and_false]; nofun)]

/-! ## FENCEI -/

theorem fencei_turn (tn : turn s g i []) (done : (s.core g).storesDone (s.slot g i).task.act = true) : execFencei f s =
    .next ((s.modCore g (fun c => { c with fetched := c.fetched.filter (fun e => e.dom != (s.slot g i).dom) })).pcNext g i) := by
  rw [execFencei, runCore_turn tn, done]
  rfl

/-! ## RESUME and ABORT -/

/-- RESUME and ABORT may act: the level, the DOM field, and the release that they wait for (R334). -/
def mayResume (s : State) (g : CoreId) (i : SlotId) (f : FmtS) : Prop :=
  let sl := s.slot g i
  sl.level ≠ 0 ∧ (sl.level = 2 ∨ resumeDom f = 0) ∧ (s.core g).storesDone sl.task.act = true ∧
    (s.core g).released sl.task.act sl.acq false = true

/-- The domain that a RESUME or an ABORT names. -/
def namedDom (s : State) (g : CoreId) (i : SlotId) (f : FmtS) : Dom := if (s.slot g i).level = 2 then resumeDom f else (s.slot g i).dom

/-- What RESUME or ABORT comes to at S and H. -/
def State.privRes (s : State) (g : CoreId) (i : SlotId) : SupRes → State
  | .waits s1 => s1
  | .trap t => raise s g i t
  | .done s1 => s1.pcNext g i

theorem supOp_priv {uses : List RegName} (tn : turn s g i uses) (may : mayResume s g i f) (go : CoreId → Slot → Dom → SupRes) :
    supOp f s uses go = .next (s.privRes g i (go g (s.slot g i) (namedDom s g i f))) := by
  obtain ⟨level, field, stores, released⟩ := may
  have ready : (s.core g).supReady (s.slot g i).task.act (s.slot g i).acq = true := by rw [Core.supReady, stores, released]; rfl
  have u := not_isU_of_level level
  rw [supOp, runCore_turn tn]
  simp only [domOperand_priv field, ready, u, Bool.not_true, Bool.and_false, Bool.false_and, Bool.false_eq_true, if_false]
  unfold namedDom
  cases go g (s.slot g i) (if (s.slot g i).level = 2 then resumeDom f else (s.slot g i).dom) <;> rfl

theorem stoppedCmd_priv (tn : turn s g i (specRegs [f.sa])) (may : mayResume s g i f) {h : CoreId} {q : QueueId} {m : Cmd}
    (stopped : s.stoppedCmd (namedDom s g i f) ((s.slot g i).srcW f.sa) = some (h, q, m)) :
    execResumeCmd f s = .next ((s.resumeStopped h q m).pcNext g i) ∧ execAbortCmd f s = .next ((s.abortStoppedCmd h q m).pcNext g i) := by
  constructor
  · rw [execResumeCmd, supOp_priv tn may]
    simp only [stopped]
    rfl
  · rw [execAbortCmd, supOp_priv tn may]
    simp only [stopped]
    rfl

/-- The frame VA that a RESUME or an ABORT names. -/
def frameVa (s : State) (g : CoreId) (i : SlotId) (f : FmtS) : VA := ((s.slot g i).srcW f.sa).setWidth 48

/-- A page that the frame's check looks at is awaited (R365). -/
theorem abortTask_waits (tn : turn s g i (specRegs [f.sa])) (may : mayResume s g i f) {s1 : State}
    (found : s.frameTask g (namedDom s g i f) (frameVa s g i f) = .waits s1) : execAbortTask f s = .next s1 := by
  unfold frameVa at found
  rw [execAbortTask, supOp_priv tn may]
  simp only [found]
  rfl

theorem resumeTask_waits (tn : turn s g i (specRegs [f.sa, f.sb])) (may : mayResume s g i f) {s1 : State}
    (found : s.frameTask g (namedDom s g i f) (frameVa s g i f) = .waits s1) : execResumeTask f s = .next s1 := by
  unfold frameVa at found
  rw [execResumeTask, supOp_priv tn may]
  simp only [found]
  rfl

theorem abortTask_priv (tn : turn s g i (specRegs [f.sa])) (may : mayResume s g i f) {c : Cont} {x : FrameLook}
    (found : s.frameTask g (namedDom s g i f) (frameVa s g i f) = .task c x) : execAbortTask f s = .next ((s.abortCont c).pcNext g i) := by
  unfold frameVa at found
  rw [execAbortTask, supOp_priv tn may]
  simp only [found]
  rfl

/-- The number that a task is re-homed to is the one given, or the one that its frame has (R334). -/
theorem resumeTarget_number {d : Dom} {c : Cont} {home : Word} {given : Option Word} {h : CoreId} {v : Word}
    (target : s.resumeTarget d c home given = some (h, v)) : v = given.getD home := by
  cases given with
  | none =>
    rw [State.resumeTarget] at target
    split at target
    · exact (Prod.mk.inj (Option.some.inj target)).2.symm
    · split at target
      · exact (Prod.mk.inj (Option.some.inj target)).2.symm
      · contradiction
  | some t =>
    rw [State.resumeTarget] at target
    split at target
    · exact (Prod.mk.inj (Option.some.inj target)).2.symm
    · contradiction

/-- RESUME of a task whose frame keeps the rules, and that is sent elsewhere only where it is not busy (R319, R334). -/
theorem resumeTask_priv (tn : turn s g i (specRegs [f.sa, f.sb])) (may : mayResume s g i f) {c : Cont} {x : FrameLook} {h : CoreId} {v : Word}
    {image : Option (List Word)} (found : s.frameTask g (namedDom s g i f) (frameVa s g i f) = .task c x) (legal : x.legal = true)
    (target : s.resumeTarget (namedDom s g i f) c x.s17 (if f.sb = Spec.none then none else some ((s.slot g i).srcW f.sb)) = some (h, v))
    (free : v = x.s17 ∨ x.busy = false) (read : s.resumeImage g c = .got image) :
    execResumeTask f s = .next ((s.resumeCont g c h v image).pcNext g i) := by
  have number := resumeTarget_number target
  have kept : (!x.legal || (v != x.s17 && x.busy)) = false := by
    rcases free with same | idle
    · rw [legal, same, bne_self_eq_false]; rfl
    · rw [legal, idle, Bool.and_false]; rfl
  unfold frameVa at found
  rw [execResumeTask, supOp_priv tn may]
  simp only [found, ← number, kept, target, not_isU_of_level may.1, read, Bool.false_eq_true, if_false]
  rfl

/-! ## TLBINV -/

/-- The bytes that a TLBINV names: from where, and how many (R336). -/
def invLo (s : State) (g : CoreId) (i : SlotId) (f : FmtS) : Nat := if f.imm.getLsbD 13 then 0 else ((s.slot g i).srcW f.sa).toNat
def invLen (s : State) (g : CoreId) (i : SlotId) (f : FmtS) : Nat := if f.imm.getLsbD 13 then 2 ^ 48 else ((s.slot g i).srcW f.sb).toNat

/-- The scope of a TLBINV. -/
def invScope (f : FmtS) : Nat := (f.imm.extractLsb' 0 3).toNat

/-- What a TLBINV at S or H names. -/
def invNamed (s : State) (g : CoreId) (i : SlotId) (f : FmtS) : InvRange :=
  ⟨if (s.slot g i).level = 2 then f.imm.extractLsb' 16 8 else (s.slot g i).dom, invLo s g i f, invLo s g i f + invLen s g i f,
    f.imm.extractLsb' 8 4, f.imm.getLsbD 14⟩

/-- TLBINV holds its slot while accesses that used what it drops are under way; the region entries go with its end (R39, R337). -/
theorem tlbinv_priv (tn : turn s g i (specRegs [f.sa, f.sb])) (level : (s.slot g i).level ≠ 0)
    (stores : (s.core g).storesDone (s.slot g i).task.act = true) (field : (s.slot g i).level = 2 ∨ f.imm.extractLsb' 16 8 = 0)
    (inside : invLo s g i f + invLen s g i f ≤ 2 ^ 48) (ne : invLen s g i f ≠ 0) :
    let uses := s.inFlight g (invScope f) (invNamed s g i f) || s.tilesBusy (invNamed s g i f)
    (uses = false → execTlbinv f s = .next ((s.tlbInv g (invScope f) (invNamed s g i f)).pcNext g i)) ∧
    (uses = true → execTlbinv f s = .next (s.tlbInvFirst g (invScope f) (invNamed s g i f))) := by
  intro uses
  have run : execTlbinv f s = .next (if uses then s.tlbInvFirst g (invScope f) (invNamed s g i f)
      else (s.tlbInv g (invScope f) (invNamed s g i f)).pcNext g i) := by
    unfold uses invNamed invScope
    unfold invLo invLen at *
    rw [execTlbinv, runCore_turn tn]
    simp only [Nat.not_lt.mpr inside, domOperand_priv field, not_isU_of_level level, stores, ne, Bool.not_true, Bool.false_eq_true, if_false]
  exact ⟨fun idle => by rw [run, idle, if_neg Bool.false_ne_true], fun busy => by rw [run, busy, if_pos rfl]⟩

/-! ## What a TLBINV leaves held -/

/-- The TLB of one core of the scope loses what is named. -/
def State.tlbDropAt (g : CoreId) (scope : Nat) (r : InvRange) (s : State) (h : CoreId) : State :=
  if inScope scope g h && !(s.core h).tlb.isEmpty then s.modCore h (fun c => { c with tlb := c.tlb.filter (fun e => !r.drops e) }) else s

/-- What remains of the translations that a core holds. -/
def tlbKept (g : CoreId) (scope : Nat) (r : InvRange) (h : CoreId) (l : List TlbEntry) : List TlbEntry :=
  if inScope scope g h then l.filter (fun e => !r.drops e) else l

variable {scope : Nat} {r : InvRange} {h : CoreId}

@[simp] theorem tlbKept_nil : tlbKept g scope r h [] = [] := by
  rw [tlbKept, List.filter_nil]
  exact ite_self ..

@[simp] theorem tlbKept_twice (l : List TlbEntry) : tlbKept g scope r h (tlbKept g scope r h l) = tlbKept g scope r h l := by
  unfold tlbKept
  by_cases inside : inScope scope g h = true
  · rw [if_pos inside, if_pos inside, List.filter_filter]
    simp only [Bool.and_self]
  · rw [if_neg inside, if_neg inside]

theorem tlb_tlbDropAt (s : State) (k : CoreId) : ((s.tlbDropAt g scope r k).core h).tlb =
    if h = k then tlbKept g scope r h (s.core h).tlb else (s.core h).tlb := by
  rw [State.tlbDropAt]
  by_cases same : h = k
  · subst same
    rw [if_pos rfl]
    by_cases inside : inScope scope g h = true
    · cases held : (s.core h).tlb with
      | nil => simp [inside, held]
      | cons e l => simp [inside, held, State.modCore, tlbKept]
    · simp [inside, tlbKept]
  · rw [if_neg same]
    split
    · rw [State.modCore, core_setCore_ne _ _ _ _ same]
    · rfl

theorem tlb_drops : ∀ (l : List CoreId) (s : State), ((l.foldl (State.tlbDropAt g scope r) s).core h).tlb =
    if h ∈ l then tlbKept g scope r h (s.core h).tlb else (s.core h).tlb
  | [], _ => rfl
  | k :: l, s => by
    rw [List.foldl_cons, tlb_drops l, tlb_tlbDropAt]
    by_cases same : h = k
    · rw [if_pos same, if_pos (List.mem_cons.mpr (.inl same)), tlbKept_twice, ite_self]
    · rw [if_neg same]
      exact if_congr (List.mem_cons.trans (or_iff_right same)).symm rfl rfl

/-- The drops on the dies leave the cores as the drops on the cores leave them. -/
theorem tlbInv_cores (s : State) : (s.tlbInv g scope r).cores = ((List.finRange 768).foldl (State.tlbDropAt g scope r) s).cores := by
  have regions : (s.tlbInv g scope r).cores = (s.tlbInvFirst g scope r).cores := foldl_cores (fun s d => by split <;> rfl) _ _
  have dies : (s.tlbDrop g scope r).cores = ((List.finRange 768).foldl (State.tlbDropAt g scope r) s).cores :=
    foldl_cores (fun s d => by split <;> rfl) _ _
  exact regions.trans dies

/-- A core of the scope loses what is named, any other keeps all that it holds (R337). -/
theorem tlb_tlbInv (s : State) : ((s.tlbInv g scope r).core h).tlb = tlbKept g scope r h (s.core h).tlb := by
  have all := tlb_drops (g := g) (scope := scope) (r := r) (h := h) (List.finRange 768) s
  rw [if_pos (List.mem_finRange h)] at all
  rwa [State.core, tlbInv_cores]

/-- A held translation goes where it is of the domain, of a named size, meets the range, and is not a global one that stays. -/
theorem drops_iff (e : TlbEntry) : r.drops e = true ↔ e.dom = r.d ∧ r.sizes.getLsbD e.level.val = true ∧ e.va < r.hi ∧
    r.lo < e.va + 2 ^ levelShift e.level.val ∧ (r.global = true ∨ pteBit e.pte 6 = false) := by
  simp only [InvRange.drops, InvRange.meets, Bool.and_eq_true, Bool.or_eq_true, beq_iff_eq, decide_eq_true_eq, Bool.not_eq_true', and_assoc]

end Sys2Proof.Machine

open Sys2Proof Sys2Proof.Machine

/-- Settles O46: each instruction where it may act, and the translations of one core after the drops of all (`tlb_tlbInv`). -/
theorem systemResults : Obligations.SystemResults := by
  refine ⟨fun s g i f => ⟨fencei_turn (f := f), tlbinv_priv, fun h q m tn may => stoppedCmd_priv tn may, fun may => ⟨fun s1 found =>
      ⟨fun tn => abortTask_waits tn may found, fun tn => resumeTask_waits tn may found⟩, fun c x found =>
      ⟨fun tn => abortTask_priv tn may found, fun h v image tn => resumeTask_priv tn may found⟩⟩⟩,
    fun s g h scope r => ⟨fun inside => ?_, fun outside => ?_, drops_iff⟩⟩
  · rw [tlb_tlbInv, tlbKept, if_pos inside]
  · rw [tlb_tlbInv, tlbKept, outside, if_neg Bool.false_ne_true]

end

section
/-! PROOFS. The elementwise vector instructions: integer arithmetic, float arithmetic with its flags, and single-element transforms (R144, R146 to
R148, R150). -/

namespace Sys2Proof.Machine

section
variable {s : State} {g : CoreId} {i : SlotId}

/-! ## Elementwise instructions that raise no flag -/

/-- An elementwise instruction with no flag merges its elements into the old destination, and nothing else (R144). -/
theorem vecOp_merges (f : FmtR) (tn : turn s g i (rRegs f)) (op : Slot → Nat → Word) :
    let sl := s.slot g i
    vecOp f s (fun sl j => (op sl j, 0)) =
      .next (after s g i (sl.wrV f.dst (vmerge (sl.mask f.pn f.pred) f.ty.size (sl.oldV f.dst) (op sl)))) := by
  rw [vecOp_turn f tn, govFlags_none, orFlags_none]

theorem vecInt_merges (f : FmtR) (tn : turn s g i (rRegs f)) (sat : Bool) (op : Int → Int → Int) :
    let sl := s.slot g i
    vecInt f s sat op = .next (after s g i (sl.wrV f.dst (vmerge (sl.mask f.pn f.pred) f.ty.size (sl.oldV f.dst)
      (fun j => wrapInt f.ty sat (op (sl.vint f.sa f.ty j) (sl.vint f.sb f.ty j)))))) := vecOp_merges f tn _

theorem vecBits_merges (f : FmtR) (tn : turn s g i (rRegs f)) (op : Word → Word → Word) :
    let sl := s.slot g i
    vecBits f s op = .next (after s g i (sl.wrV f.dst (vmerge (sl.mask f.pn f.pred) f.ty.size (sl.oldV f.dst)
      (fun j => op (sl.vsrc f.sa f.ty j) (sl.vsrc f.sb f.ty j))))) := vecOp_merges f tn _

/-- The count of a shift is taken modulo the width, a literal one as a signed integer (R81, R146). -/
theorem vecShift_merges (f : FmtR) (tn : turn s g i (rRegs f)) (op : Word → Nat → Word) :
    let sl := s.slot g i
    vecShift f s op = .next (after s g i (sl.wrV f.dst (vmerge (sl.mask f.pn f.pred) f.ty.size (sl.oldV f.dst)
      (fun j => op (sl.vsrc f.sa f.ty j) (sl.vcount f.sb f.ty j % (f.ty.width : Int)).toNat)))) := vecOp_merges f tn _

theorem vmin_merges (f : FmtR) (tn : turn s g i (rRegs f)) :
    let sl := s.slot g i
    execVmin f s = .next (after s g i (sl.wrV f.dst (vmerge (sl.mask f.pn f.pred) f.ty.size (sl.oldV f.dst)
      (fun j => wrapInt f.ty false (Min.min (sl.vint f.sa f.ty j) (sl.vint f.sb f.ty j)))))) := by
  simp only [min_def_lt]
  exact vecInt_merges f tn false _

theorem vmax_merges (f : FmtR) (tn : turn s g i (rRegs f)) :
    let sl := s.slot g i
    execVmax f s = .next (after s g i (sl.wrV f.dst (vmerge (sl.mask f.pn f.pred) f.ty.size (sl.oldV f.dst)
      (fun j => wrapInt f.ty false (Max.max (sl.vint f.sa f.ty j) (sl.vint f.sb f.ty j)))))) := by
  simp only [max_def_lt]
  exact vecInt_merges f tn false _

/-- VABS of the least value of a signed type wraps, as its absolute value does (R146). -/
theorem vabs_merges (f : FmtR) (tn : turn s g i (rRegs f)) :
    let sl := s.slot g i
    execVabs f s = .next (after s g i (sl.wrV f.dst (vmerge (sl.mask f.pn f.pred) f.ty.size (sl.oldV f.dst)
      (fun j => wrapInt f.ty false |sl.vint f.sa f.ty j|)))) := by
  simp only [Int.abs_eq_natAbs]
  exact vecOp_merges f tn _

/-! ## Float arithmetic -/

/-- Elementwise float arithmetic is one rounding of each exact result, with the flags of both for the governed-on elements (R144, R147). -/
theorem vecArith_turn (f : FmtR) (tn : turn s g i (rRegs f)) (op : RMode → Slot → Nat → FVal × BitVec 5) :
    let sl := s.slot g i
    let m := sl.mask f.pn f.pred
    let mode := sl.modeOf f.mode
    let r := fun j => roundStd f.ty mode f.sat (op mode sl j).1
    vecArith f s op = .next (after s g i ((sl.wrV f.dst (vmerge m f.ty.size (sl.oldV f.dst) (fun j => (r j).1))).orFlags
      (govFlags m f.ty.size (128 / f.ty.size) (fun j => (r j).2 ||| (op mode sl j).2)))) := vecOp_turn f tn _

end

end Sys2Proof.Machine

open Sys2Proof Sys2Proof.Machine

/-- Settles O24: the arithmetic is `vecInt` on the exact result, the bitwise members `vecBits`, the shifts `vecShift`; the others are `vecOp` with no
flag. -/
theorem vectorIntegerResults : Obligations.VectorIntegerResults := by
  refine ⟨fun s g i f tn => ?_, fun s g i f tn => ?_⟩
  · refine ⟨?_, ?_, ?_, ?_, ?_, ?_, ?_, ?_, ?_, ?_, ?_, ?_, ?_, ?_, ?_, ?_, ?_⟩
    · exact vecInt_merges f tn false (fun a b => a + b)
    · exact vecInt_merges f tn false (fun a b => a - b)
    · exact vecInt_merges f tn false (fun a b => a * b)
    · exact vecInt_merges f tn false (highInt f.ty)
    · exact vecOp_merges f tn (fun sl j => wrapInt f.ty false (sl.vint f.sa f.ty j * sl.vint f.sb f.ty j + sl.vint f.sc f.ty j))
    · exact vmin_merges f tn
    · exact vmax_merges f tn
    · exact vabs_merges f tn
    · exact vecInt_merges f tn true (fun a b => a + b)
    · exact vecInt_merges f tn true (fun a b => a - b)
    · exact vecOp_merges f tn (fun sl j => wrapInt f.ty false (sl.vint f.sa f.ty j + (j : Int) * sl.vint f.sb f.ty j))
    · exact vecBits_merges f tn (fun a b => a &&& b)
    · exact vecBits_merges f tn (fun a b => a ||| b)
    · exact vecBits_merges f tn (fun a b => a ^^^ b)
    · exact vecShift_merges f tn (shlPat f.ty)
    · exact vecShift_merges f tn shrPat
    · exact vecShift_merges f tn (sraPat f.ty)
  · refine ⟨?_, ?_, ?_, ?_, ?_, ?_, ?_, ?_⟩
    · exact vecOp_merges f tn (fun sl j => withSign f.ty (sl.vsrc f.sa f.ty j) false)
    · exact vecOp_merges f tn (fun sl j => withSign f.ty (sl.vsrc f.sa f.ty j) (!signBit f.ty (sl.vsrc f.sa f.ty j)))
    · exact vecOp_merges f tn (fun sl j => if gov (sl.readP (FmtR.pa f)) f.ty.size j then sl.vsrc f.sa f.ty j else sl.vsrc f.sb f.ty j)
    · exact vecOp_merges f tn (fun sl j => sl.vsrc f.sa f.ty j)
    · exact vecOp_merges f tn (fun sl j => clzOf f.ty (sl.vsrc f.sa f.ty j))
    · exact vecOp_merges f tn (fun sl j => BitVec.ofNat 64 (popCount (sl.vsrc f.sa f.ty j).toNat f.ty.width))
    · exact vecOp_merges f tn (fun sl j => classOf f.ty (sl.vsrc f.sa f.ty j))
    · exact vecOp_merges f tn (fun sl j => if gov (sl.readP (FmtR.pa f)) f.ty.size j then BitVec.ofNat 64 (2 ^ f.ty.width - 1) else 0)

/-- Settles O25: the arithmetic is `vecArith` on the exact operation; the others are `vecOp` on the function that the spec names. -/
theorem vectorFloatResults : Obligations.VectorFloatResults := by
  intro s g i f tn
  refine ⟨?_, ?_, ?_, ?_, ?_, ?_, ?_, ?_, ?_, ?_, ?_, ?_, ?_, ?_, ?_⟩
  · exact vecArith_turn f tn (fun m sl j => addNum m (sl.vflt f.sa f.ty j) (sl.vflt f.sb f.ty j))
  · exact vecArith_turn f tn (fun m sl j => addNum m (sl.vflt f.sa f.ty j) (sl.vflt f.sb f.ty j).negate)
  · exact vecArith_turn f tn (fun _ sl j => mulNum (sl.vflt f.sa f.ty j) (sl.vflt f.sb f.ty j))
  · exact vecArith_turn f tn (fun m sl j => fmaNum m (sl.vflt f.sa f.ty j) (sl.vflt f.sb f.ty j) (sl.vflt f.sc f.ty j))
  · exact vecArith_turn f tn (fun _ sl j => divNum (sl.vflt f.sa f.ty j) (sl.vflt f.sb f.ty j))
  · exact vecArith_turn f tn (fun _ sl j => sqrtNum (sl.vflt f.sa f.ty j))
  · exact vecArith_turn f tn (fun _ sl j => rcpNum (sl.vflt f.sa f.ty j))
  · exact vecArith_turn f tn (fun _ sl j => rsqNum (sl.vflt f.sa f.ty j))
  · exact vecArith_turn f tn (fun _ sl j => exp2Num (sl.vflt f.sa f.ty j))
  · exact vecArith_turn f tn (fun _ sl j => log2Num (sl.vflt f.sa f.ty j))
  · exact vecArith_turn f tn (fun _ sl j => scalNum (sl.vflt f.sa f.ty j) (scaleCount sl f j))
  · exact vecOp_turn f tn (fun sl j => minNum f.ty false (sl.vsrc f.sa f.ty j) (sl.vsrc f.sb f.ty j))
  · exact vecOp_turn f tn (fun sl j => minNum f.ty true (sl.vsrc f.sa f.ty j) (sl.vsrc f.sb f.ty j))
  · exact vecOp_turn f tn (fun sl j => frintOf f.ty (sl.modeOf f.mode) (sl.vsrc f.sa f.ty j))
  · exact vecOp_turn f tn (fun sl j =>
      let r := minNum f.ty true (sl.vsrc f.sa f.ty j) (sl.vsrc f.sb f.ty j)
      let q := minNum f.ty false r.1 (sl.vsrc f.sc f.ty j)
      (q.1, q.2 ||| r.2))

end

section
/-! PROOFS. Bytes stored at their homes and in scratch read back, and every other byte is as before (R163, R165, R205, R206). -/

namespace Sys2Proof.Machine

/-! ## Bytes at their homes -/

theorem homeByte_clearPoison (s : State) (pa n a : Nat) : (s.clearPoison pa n).homeByte a = s.homeByte a := by
  unfold State.clearPoison
  split <;> rfl

/-- A byte written at its home reads back. -/
theorem homeByte_writeByte {s : State} (ok : memoriesOk s) (pa : Nat) (b : Byte) : (s.homeWriteByte pa b).homeByte pa = b := by
  obtain ⟨mem, fabric, _⟩ := ok
  by_cases h : isFabric pa = true
  · simpa only [State.homeWriteByte, State.homeByte, h, if_true] using cellRead_write _ pa b fabric
  · simpa only [State.homeWriteByte, State.homeByte, h, Bool.false_eq_true, if_false] using cellRead_write _ pa b mem

/-- Every other byte reads as before. -/
theorem homeByte_writeByte_ne {s : State} (ok : memoriesOk s) {pa a : Nat} (ne : a ≠ pa) (b : Byte) :
    (s.homeWriteByte pa b).homeByte a = s.homeByte a := by
  obtain ⟨mem, fabric, _⟩ := ok
  by_cases h : isFabric pa = true <;> by_cases k : isFabric a = true <;> simp only [State.homeWriteByte, State.homeByte, h, k, Bool.false_eq_true, if_true, if_false]
  · exact cellRead_write_ne _ pa b ne fabric
  · exact cellRead_write_ne _ pa b ne mem

theorem homeWriteByte_memoriesOk {s : State} (ok : memoriesOk s) (pa : Nat) (b : Byte) : memoriesOk (s.homeWriteByte pa b) :=
  homeBytes_memoriesOk [b] s pa ok

/-- Bytes outside a write at their homes read as before. -/
theorem homeByte_homeBytes_out : ∀ (l : List Byte) {s : State} (pa : Nat), memoriesOk s → ∀ a, a < pa ∨ pa + l.length ≤ a →
    (s.homeBytes pa l).homeByte a = s.homeByte a
  | [], _, _, _, _, _ => rfl
  | b :: l, s, pa, ok, a, out => by
    simp only [List.length_cons] at out
    exact (homeByte_homeBytes_out l (pa + 1) (homeWriteByte_memoriesOk ok pa b) a (by omega)).trans
      (homeByte_writeByte_ne ok (by omega) b)

/-- Bytes written at their homes read back. -/
theorem homeByte_homeBytes : ∀ (l : List Byte) {s : State} (pa : Nat), memoriesOk s → ∀ k, k < l.length →
    (s.homeBytes pa l).homeByte (pa + k) = l.getD k 0
  | b :: l, s, pa, ok, 0, _ =>
    (homeByte_homeBytes_out l (pa + 1) (homeWriteByte_memoriesOk ok pa b) pa (.inl (Nat.lt_succ_self pa))).trans (homeByte_writeByte ok pa b)
  | b :: l, s, pa, ok, k + 1, lt => by
    have rest := homeByte_homeBytes l (pa + 1) (homeWriteByte_memoriesOk ok pa b) k (Nat.lt_of_succ_lt_succ lt)
    rwa [Nat.add_assoc, Nat.add_comm 1 k] at rest

/-! ## A store event -/

/-- A store event changes reservations, continuations and watches alone. -/
theorem storeEvent_eq (s : State) (g : Option CoreId) (d : Dom) (l : Loc) (n : Nat) :
    ∃ r c w, s.storeEvent g d l n = { s with resv := r, conts := c, watches := w } := by
  have wakes : ∀ (hit : List Watch) (t : State), (∃ r c w, t = { s with resv := r, conts := c, watches := w }) →
      ∃ r c w, hit.foldl (fun u x => u.wake x.cont) t = { s with resv := r, conts := c, watches := w } := by
    intro hit
    induction hit with
    | nil => exact fun _ h => h
    | cons x hit ih =>
      rintro _ ⟨r, c, w, rfl⟩
      exact ih _ ⟨_, _, _, rfl⟩
  unfold State.storeEvent
  dsimp only
  split
  · split
    · exact ⟨_, _, _, rfl⟩
    · exact ⟨_, _, _, rfl⟩
  · refine wakes _ _ ?_
    split
    · exact ⟨_, _, _, rfl⟩
    · exact ⟨_, _, _, rfl⟩

section
variable (s : State) (g : Option CoreId) (d : Dom) (l : Loc) (n : Nat)

@[simp] theorem storeEvent_core (h : CoreId) : (s.storeEvent g d l n).core h = s.core h := by
  obtain ⟨r, c, w, e⟩ := storeEvent_eq s g d l n
  rw [e]
  rfl

@[simp] theorem storeEvent_homeByte (pa : Nat) : (s.storeEvent g d l n).homeByte pa = s.homeByte pa := by
  obtain ⟨r, c, w, e⟩ := storeEvent_eq s g d l n
  rw [e]
  rfl

theorem storeEvent_memoriesOk (h : memoriesOk s) : memoriesOk (s.storeEvent g d l n) := by
  obtain ⟨r, c, w, e⟩ := storeEvent_eq s g d l n
  rw [e]
  exact h

end

/-! ## Bytes in scratch -/

section
variable {s t u : State} {g : CoreId}

theorem onlyScratch_refl (s : State) (g : CoreId) (out : Nat → Prop) : onlyScratch s s g out :=
  ⟨fun _ => rfl, fun _ _ => rfl, fun _ _ => rfl⟩

theorem onlyScratch_trans {out : Nat → Prop} (a : onlyScratch s t g out) (b : onlyScratch t u g out) : onlyScratch s u g out :=
  ⟨fun pa => (b.1 pa).trans (a.1 pa), fun h ne => (b.2.1 h ne).trans (a.2.1 h ne), fun off o => (b.2.2 off o).trans (a.2.2 off o)⟩

theorem onlyScratch_mono {out out' : Nat → Prop} (h : onlyScratch s t g out) (sub : ∀ a, out' a → out a) : onlyScratch s t g out' :=
  ⟨h.1, h.2.1, fun off o => h.2.2 off (sub off o)⟩

theorem scratchWrite_core (s : State) (g : CoreId) (d : Dom) (off : Nat) (l : List Byte) :
    (s.scratchWrite g d off l).core g = { s.core g with scratch := cellsWrite zeroByte (s.core g).scratch off l } :=
  (storeEvent_core ..).trans (core_setCore ..)

theorem scratchWrite_core_ne (s : State) (g : CoreId) (d : Dom) (off : Nat) (l : List Byte) {h : CoreId} (ne : h ≠ g) :
    (s.scratchWrite g d off l).core h = s.core h :=
  (storeEvent_core ..).trans (core_setCore_ne _ _ _ _ ne)

theorem scratchWrite_wf (d : Dom) (off : Nat) (l : List Byte) (wf : Memory.wf zeroByte (s.core g).scratch = true) :
    Memory.wf zeroByte ((s.scratchWrite g d off l).core g).scratch = true := by
  rw [scratchWrite_core]
  exact cellsWrite_wf _ _ _ wf

theorem scratchWrite_memoriesOk (g : CoreId) (d : Dom) (off : Nat) (l : List Byte) (ok : memoriesOk s) :
    memoriesOk (s.scratchWrite g d off l) := by
  refine storeEvent_memoriesOk _ _ _ _ _ ⟨ok.1, ok.2.1, fun h => ?_⟩
  by_cases e : h = g
  · subst e
    rw [State.modCore, core_setCore]
    exact cellsWrite_wf _ _ _ (ok.2.2 h)
  · rw [State.modCore, core_setCore_ne _ _ _ _ e]
    exact ok.2.2 h

/-- Bytes stored in scratch read back (R163). -/
theorem scratchRead_scratchWrite (d : Dom) (off : Nat) (l : List Byte) (wf : Memory.wf zeroByte (s.core g).scratch = true) :
    ((s.scratchWrite g d off l).core g).scratchRead off l.length = l := by
  rw [scratchWrite_core]
  exact cellsRead_writes _ _ _ wf

/-- A store in scratch leaves every other byte as before. -/
theorem scratchWrite_only (d : Dom) (off : Nat) (l : List Byte) (wf : Memory.wf zeroByte (s.core g).scratch = true) :
    onlyScratch s (s.scratchWrite g d off l) g (fun a => a < off ∨ off + l.length ≤ a) := by
  refine ⟨fun pa => storeEvent_homeByte .., fun h ne => congrArg Core.scratch (scratchWrite_core_ne _ _ _ _ _ ne), fun a out => ?_⟩
  rw [scratchWrite_core]
  exact cellRead_writes_out _ _ _ _ wf out

end

end Sys2Proof.Machine

open Sys2Proof Sys2Proof.Machine

/-- Settles O59: a write at homes byte by byte, a write in scratch by its cells; what follows a write (poison, a store event) changes no
byte. -/
theorem storesReadBack : Obligations.StoresReadBack := by
  intro s l ok
  refine ⟨fun pa => ⟨homeWrite_memoriesOk s pa l ok, fun k lt => ?_, fun a out => ?_⟩, fun g d off => ?_⟩
  · exact (homeByte_clearPoison ..).trans (homeByte_homeBytes l pa ok k lt)
  · exact (homeByte_clearPoison ..).trans (homeByte_homeBytes_out l pa ok a out)
  · exact ⟨scratchWrite_memoriesOk g d off l ok, scratchRead_scratchWrite d off l (ok.2.2 g), scratchWrite_only d off l (ok.2.2 g)⟩

end

section
/-! PROOFS. Loads from and stores to the core's scratch at their instruction (R163, R206, R213, R215, R230, R233 to R236, R240). -/

namespace Sys2Proof.Machine

variable {s : State} {g : CoreId} {i : SlotId}

/-! ## A slot written twice -/

theorem coreSetSlot_twice (c : Core) (i : SlotId) (a b : Slot) : (c.setSlot i a).setSlot i b = c.setSlot i b := by
  simp only [Core.setSlot, Vector.set_set]

theorem setCore_twice (s : State) (g : CoreId) (a b : Core) : (s.setCore g a).setCore g b = s.setCore g b := by
  simp only [State.setCore, Vector.set_set]

theorem setSlot_twice (s : State) (g : CoreId) (i : SlotId) (a b : Slot) : (s.setSlot g i a).setSlot g i b = s.setSlot g i b := by
  rw [State.setSlot, core_setSlot, coreSetSlot_twice, State.setSlot, setCore_twice]
  rfl

/-- A slot changed without its PC, and then at the next instruction. -/
theorem pcNext_modSlot (f : Slot → Slot) (pc : (f (s.slot g i)).pc = (s.slot g i).pc) :
    (s.modSlot g i f).pcNext g i = after s g i (f (s.slot g i)) := by
  rw [State.pcNext, State.modSlot, slot_modSlot, State.modSlot, setSlot_twice, pc]
  rfl

theorem putKs_pc (r : BitVec 6) : ∀ (vals : List (Nat × Word)) (sl : Slot), (putKs sl r vals).pc = sl.pc
  | [], _ => rfl
  | _ :: l, _ => putKs_pc r l _

theorem putXs_pc (r : BitVec 5) : ∀ (vals : List (Nat × Word)) (sl : Slot), (putXs sl r vals).pc = sl.pc
  | [], _ => rfl
  | _ :: l, _ => (putXs_pc r l _).trans (writeX_pc ..)

theorem putLoad_pc (sl : Slot) (sz : Nat) (d : LoadDest) (vals : List (Nat × Word)) : (sl.putLoad sz d vals).pc = sl.pc := by
  cases d with
  | discard => rfl
  | x r sext => cases vals <;> simp [Slot.putLoad]
  | v r => rfl
  | k r n => exact putKs_pc r vals sl
  | xs r => exact putXs_pc r vals sl
  | vx r pd present => simp [Slot.putLoad]

/-! ## Elements in scratch -/

theorem loc_scratchElems {l : List Spot} {e : Elem} (h : e ∈ scratchElems l) : ∃ off, e.loc = .scratch off := by
  obtain ⟨x, _, rfl⟩ := List.mem_map.mp h
  exact ⟨_, rfl⟩

theorem splitTile_scratch (l : List Spot) : splitTile (scratchElems l) = ([], [], scratchElems l) := by
  unfold splitTile
  dsimp only
  rw [(List.filter_eq_nil_iff (l := scratchElems l)).mpr, (List.filter_eq_self (l := scratchElems l)).mpr]
  · rfl
  · intro e he
    obtain ⟨off, loc⟩ := loc_scratchElems he
    rw [loc]
    rfl
  · intro e he
    obtain ⟨off, loc⟩ := loc_scratchElems he
    rw [loc]
    exact Bool.false_ne_true

theorem poisonedTile_scratch (d : Dom) (n : Nat) : ∀ l : List Spot, s.poisonedTile g d n (scratchElems l) = (s, none)
  | [] => rfl
  | _ :: l => poisonedTile_scratch d n l

/-- The values of elements in scratch. -/
def scratchVals (c : Core) (n : Nat) (l : List Spot) : List (Nat × Word) :=
  l.map (fun x => (x.j, wordOf (c.scratchRead (x.va.toNat - scratchBase) n)))

theorem readAllHere_scratch (d : Dom) (n : Nat) : ∀ l : List Spot,
    s.readAllHere g d n (scratchElems l) = (s, scratchVals (s.core g) n l, [], [])
  | [] => rfl
  | x :: l => by
    show s.readAllHere g d n (⟨x.j, x.va, .scratch (x.va.toNat - scratchBase)⟩ :: scratchElems l) = _
    rw [State.readAllHere, State.readHere]
    dsimp only
    rw [readAllHere_scratch d n l]
    rfl

theorem overVia_none {sl : Slot} (tile : sl.tile = none) : s.overVia g (.now i sl) = s := by
  rw [State.overVia, tile]
  rfl

/-! ## Loads -/

/-- What a load from scratch leaves: its registers, its PC, and its acquire. -/
def loadedHere (s : State) (g : CoreId) (i : SlotId) (m : MemOp) (d : LoadDest) : State :=
  let t := marked (after s g i ((s.slot g i).putLoad m.size d (scratchVals (s.core g) m.size m.spots))) g i m.ord m.scope
  if m.ord.isAcq && m.scope.wide then t.acquireDrop g else t

/-- A load at its instruction ends: its registers, its PC, and what its acquire does (R213, R215). -/
theorem endLoad_marked (sl : Slot) (m : MemOp) (d : LoadDest) (vals : List (Nat × Word)) : s.endLoad g (.now i sl) m d vals =
    let t := marked ((s.modSlot g i (fun x => x.putLoad m.size d vals)).pcNext g i) g i m.ord m.scope
    if m.ord.isAcq && m.scope.wide then t.acquireDrop g else t := by
  rw [State.endLoad]
  unfold marked
  cases m.ord.isAcq with
  | false => rfl
  | true =>
    rw [if_pos rfl, State.acquireAt]
    cases m.scope <;> rfl

theorem endLoad_now (sl : Slot) (m : MemOp) (d : LoadDest) (vals : List (Nat × Word)) : s.endLoad g (.now i sl) m d vals =
    let t := marked (after s g i ((s.slot g i).putLoad m.size d vals)) g i m.ord m.scope
    if m.ord.isAcq && m.scope.wide then t.acquireDrop g else t := by
  rw [endLoad_marked, pcNext_modSlot _ (putLoad_pc ..)]

theorem goLoad_scratch {m : MemOp} {sl : Slot} (tile : sl.tile = none) (op : CpOp) (d : List Nat → LoadDest) (l : List Spot) :
    s.goLoad g (.now i sl) m op d (scratchElems l) = s.endLoad g (.now i sl) m (d []) (scratchVals (s.core g) m.size l) := by
  have clean : (if s.poison.isEmpty = true then (s, none) else s.poisonedTile g sl.dom m.size (scratchElems l)) = (s, none) := by
    rw [poisonedTile_scratch, ite_self]
  have old : (Via.now i sl).soFar = ([], []) := by rw [Via.soFar, tile]
  rw [State.goLoad, clean]
  dsimp only
  rw [splitTile_scratch, readAllHere_scratch, old, overVia_none tile]
  rfl

section
variable {m : MemOp} (h : clearHere s g i m)
include h

/-- A load whose elements all lie in scratch, at its instruction. -/
theorem issue_load_here (op : HeldOp) (cp : CpOp) (d : LoadDest) (d' : List Nat → LoadDest) : s.issue g i m op d (fun u late l =>
    u.goLoad g (.of late i (s.slot g i)) m cp d' l) = loadedHere s g i m (d' []) := by
  rw [issue_here h]
  exact (goLoad_scratch h.1.1 cp d' m.spots).trans (endLoad_now ..)

theorem vecLoad_here {f : FmtM} {op : Slot → MemOp} (tn : turn s g i (mRegs f)) (e : op (s.slot g i) = m) (ne : m.spots ≠ []) :
    vecLoad f s op = .next (loadedHere s g i m (.v (vIndex f.data))) := by
  have some : ¬ m.spots.isEmpty = true := mt List.isEmpty_iff.mp ne
  rw [vecLoad, runCore_turn tn]
  dsimp only
  rw [e, issue_here h, if_neg some]
  exact congrArg _ ((goLoad_scratch h.1.1 .read _ m.spots).trans (endLoad_now ..))

end

theorem nearMeets_nil (c : Core) (d : Dom) : c.nearMeets d [] = false := by
  simp [Core.nearMeets, placesMeet]

/-- An access of no element is performed by its instruction. -/
theorem lateness_nil (d : Dom) (m : MemOp) : s.lateness g d m [] = some false := by
  have none : (s.core g).nearMeets d (m.places []) = false := nearMeets_nil _ _
  simp [State.lateness, State.mayDefer, none]

/-- An access of no element whose checks pass. -/
theorem clear_nil {m : MemOp} (none : m.spots = []) (free : unheld s g i m) (good : worst (earlyBad s g i m) = .none) : clear s g i m s [] :=
  ⟨free, ⟨good, by rw [none]; rfl⟩, .inl rfl, lateness_nil _ _⟩

/-- A vector load of no element, whose checks pass, does nothing (log 84). -/
theorem vecLoad_none {f : FmtM} {op : Slot → MemOp} {m : MemOp} (tn : turn s g i (mRegs f)) (e : op (s.slot g i) = m) (none : m.spots = [])
    (free : unheld s g i m) (good : worst (earlyBad s g i m) = .none) : vecLoad f s op = .next (after s g i (s.slot g i)) := by
  rw [vecLoad, runCore_turn tn]
  dsimp only
  rw [e, issue_clear (clear_nil none free good), if_pos (List.isEmpty_iff.mpr none)]
  rfl

/-- A vector load: of some elements, and of none. -/
theorem vecLoad_scratch {f : FmtM} {op : Slot → MemOp} (tn : turn s g i (mRegs f)) :
    ((op (s.slot g i)).spots ≠ [] → clearHere s g i (op (s.slot g i)) →
      vecLoad f s op = .next (loadedHere s g i (op (s.slot g i)) (.v (vIndex f.data)))) ∧
    ((op (s.slot g i)).spots = [] → unheld s g i (op (s.slot g i)) → worst (earlyBad s g i (op (s.slot g i))) = none →
      vecLoad f s op = .next (after s g i (s.slot g i))) :=
  ⟨fun ne h => vecLoad_here h tn rfl ne, fun none free good => vecLoad_none tn rfl none free good⟩

end Sys2Proof.Machine

open Sys2Proof Sys2Proof.Machine

/-- Settles O31: each load issues at once and reads its elements where they lie, so that it leaves `loadedHere`. -/
theorem scratchLoads : Obligations.ScratchLoads := by
  intro s g i f sl gives vec
  refine ⟨fun tn on h => ?_, fun tn on h => ?_, fun tn => ⟨?_, ?_, ?_⟩, fun tn h => ?_⟩
  · change execLd f s = _
    rw [execLd, guardedM_on f (uses := []) tn on]
    exact congrArg _ (issue_load_here h _ _ _ _)
  · change execLdk f s = _
    rw [execLdk, guardedM_on f tn on]
    exact congrArg _ (issue_load_here h _ _ _ _)
  · exact vecLoad_scratch tn (op := fun sl => vecContig f sl false)
  · exact vecLoad_scratch tn (op := fun sl => vecScatter f sl false (stridedVa f sl))
  · exact vecLoad_scratch tn (op := fun sl => vecScatter f sl false (gatherVa f sl))
  · change execLdx f s = _
    rw [execLdx, runCore_turn tn]
    exact congrArg _ (issue_load_here h _ _ _ _)

end

section
/-! PROOFS. Stores to the core's scratch at their instruction, with their frame (R163, R206, R230, R233, R234, R236). -/

namespace Sys2Proof.Machine

variable {s : State} {g : CoreId} {i : SlotId}

/-! ## Elements stored in scratch -/

/-- The offset of an element in the scratch window. -/
def Spot.off (x : Spot) : Nat := x.va.toNat - scratchBase

/-- A store of elements in scratch, one after another. -/
def storeSpots (s : State) (g : CoreId) (d : Dom) (bytes : Nat → List Byte) : List Spot → State
  | [] => s
  | x :: l => storeSpots (s.scratchWrite g d x.off (bytes x.j)) g d bytes l

theorem storeScratch_spots (d : Dom) (bytes : Nat → List Byte) : ∀ (l : List Spot) (s : State),
    s.storeScratch g d bytes (scratchElems l) = storeSpots s g d bytes l
  | [], _ => rfl
  | _ :: l, _ => storeScratch_spots d bytes l _

theorem cellsRead_congr {c c' : List Host.Cell} : ∀ {n a : Nat}, (∀ x, a ≤ x → x < a + n → cellRead zeroByte c x = cellRead zeroByte c' x) →
    cellsRead zeroByte c a n = cellsRead zeroByte c' a n
  | 0, _, _ => rfl
  | n + 1, a, h => by
    rw [cellsRead, cellsRead, h a le_rfl (by omega), cellsRead_congr fun x lo hi => h x (by omega) (by omega)]

section
variable (d : Dom) {bytes : Nat → List Byte} {n : Nat} (len : ∀ j, (bytes j).length = n)
include len

/-- Elements stored in scratch leave every byte of no element as before. -/
theorem storeSpots_only (l : List Spot) : ∀ {s : State}, Memory.wf zeroByte (s.core g).scratch = true →
    onlyScratch s (storeSpots s g d bytes l) g (fun a => ∀ x ∈ l, a < x.off ∨ x.off + n ≤ a) := by
  induction l with
  | nil => exact fun _ => onlyScratch_refl ..
  | cons x l ih =>
    intro s wf
    have first := scratchWrite_only d x.off (bytes x.j) wf
    rw [len] at first
    exact onlyScratch_trans (onlyScratch_mono first fun a out => out x List.mem_cons_self)
      (onlyScratch_mono (ih (scratchWrite_wf d x.off (bytes x.j) wf)) fun a out y hy => out y (List.mem_cons_of_mem _ hy))

/-- Where no two elements meet, each reads back. -/
theorem storeSpots_read (l : List Spot) : ∀ {s : State}, Memory.wf zeroByte (s.core g).scratch = true →
    l.Pairwise (fun x y => x.off + n ≤ y.off ∨ y.off + n ≤ x.off) → ∀ x ∈ l,
    ((storeSpots s g d bytes l).core g).scratchRead x.off n = bytes x.j := by
  induction l with
  | nil => exact fun _ _ _ h => nomatch h
  | cons y l ih =>
    intro s wf apart x hx
    obtain ⟨first, rest⟩ := List.pairwise_cons.mp apart
    have wf' := scratchWrite_wf d y.off (bytes y.j) wf
    rcases List.mem_cons.mp hx with rfl | hx
    · have kept := (storeSpots_only d len l wf').2.2
      have back := scratchRead_scratchWrite d x.off (bytes x.j) wf
      rw [len] at back
      refine (cellsRead_congr fun a lo hi => kept a fun z hz => ?_).trans back
      have := first z hz
      generalize x.off = p at *
      generalize z.off = q at *
      omega
    · exact ih wf' rest x hx

end

theorem storeSpots_slot (d : Dom) (bytes : Nat → List Byte) : ∀ (l : List Spot) (s : State), (storeSpots s g d bytes l).slot g i = s.slot g i
  | [], _ => rfl
  | x :: l, s => by
    rw [storeSpots, storeSpots_slot d bytes l, State.slot, scratchWrite_core]
    rfl

/-! ## Stores -/

theorem goStore_scratch {m : MemOp} {sl : Slot} (tile : sl.tile = none) (w : Nat → Word) (l : List Spot) :
    s.goStore g (.now i sl) m w (scratchElems l) = (storeSpots s g sl.dom (fun j => bytesOf m.size (w j).toNat) l).pcNext g i := by
  rw [State.goStore, splitTile_scratch]
  dsimp only
  rw [if_neg (by rw [State.tilesWait]; exact Bool.false_ne_true), State.storeTiles]
  dsimp only
  rw [overVia_none tile, storeScratch_spots, (List.filter_eq_nil_iff (l := scratchElems l)).mpr]
  · rfl
  · intro e he
    obtain ⟨off, loc⟩ := loc_scratchElems he
    rw [loc]
    exact Bool.false_ne_true

/-- The next instruction: no register changes, and no byte of memory or scratch. -/
theorem pcNext_keeps (s : State) (g : CoreId) (i : SlotId) : ((s.pcNext g i).slot g i).pc = (s.slot g i).pc + 8 ∧
    keepsRegs (s.slot g i) ((s.pcNext g i).slot g i) [] false ∧ ((s.pcNext g i).core g).scratch = (s.core g).scratch ∧
    ∀ out, onlyScratch s (s.pcNext g i) g out := by
  have scratch : ((s.pcNext g i).core g).scratch = (s.core g).scratch := by rw [State.pcNext, State.modSlot, core_setSlot]; rfl
  rw [State.pcNext, slot_modSlot]
  exact ⟨rfl, keepsRegs_refl _ _ _, scratch, fun out => ⟨fun _ => rfl, fun h ne => congrArg Core.scratch (core_setSlot_ne _ _ _ _ _ ne),
    fun off _ => congrArg (cellRead zeroByte · off) scratch⟩⟩

/-- A store whose elements all lie in scratch, at its instruction. -/
theorem issueStore_here {m : MemOp} (h : clearHere s g i m) (w : Nat → Word) : s.issueStore g i m w =
    (storeSpots s g (s.slot g i).dom (fun j => bytesOf m.size (w j).toNat) m.spots).pcNext g i := by
  rw [State.issueStore, issue_here h]
  exact goStore_scratch h.1.1 w m.spots

/-- What such a store leaves: its PC, its bytes, and all else as before. -/
theorem issueStore_leaves {m : MemOp} (wf : Memory.wf zeroByte (s.core g).scratch = true) (h : clearHere s g i m) (w : Nat → Word) :
    let t := s.issueStore g i m w
    (t.slot g i).pc = (s.slot g i).pc + 8 ∧ keepsRegs (s.slot g i) (t.slot g i) [] false ∧
      onlyScratch s t g (fun a => ∀ x ∈ m.spots, a < x.off ∨ x.off + m.size ≤ a) ∧
      (m.spots.Pairwise (fun x y => x.off + m.size ≤ y.off ∨ y.off + m.size ≤ x.off) → ∀ x ∈ m.spots,
        (t.core g).scratchRead x.off m.size = bytesOf m.size (w x.j).toNat) := by
  intro t
  let bytes := fun j => bytesOf m.size (w j).toNat
  let u := storeSpots s g (s.slot g i).dom bytes m.spots
  have len : ∀ j, (bytes j).length = m.size := fun j => length_bytesOf _ _
  obtain ⟨pc, regs, scratch, rest⟩ := pcNext_keeps u g i
  rw [storeSpots_slot] at pc regs
  have eq : t = u.pcNext g i := issueStore_here h w
  rw [eq]
  refine ⟨pc, regs, onlyScratch_trans (storeSpots_only _ len m.spots wf) (rest _), fun apart x hx => ?_⟩
  rw [Core.scratchRead, scratch]
  exact storeSpots_read _ len m.spots wf apart x hx

theorem st_issues {f : FmtM} (tn : turn s g i (mRegs f)) (on : (s.slot g i).guard f.pn f.pred = true) :
    execSt f s = .next (s.issueStore g i (contigOp f (s.slot g i) true [⟨0, (s.slot g i).memVa f 0⟩]) (fun _ => (s.slot g i).srcW f.data)) :=
  guardedM_on f (uses := []) tn on _

theorem zero_issues {f : FmtM} (tn : turn s g i (mRegs f)) (on : (s.slot g i).guard f.pn f.pred = true) :
    execZero f s = .next (s.issueStore g i (longOp f (s.slot g i) true) (fun _ => 0)) := guardedM_on f (uses := []) tn on _

theorem vecStore_issues {f : FmtM} (tn : turn s g i (mRegs f)) (op : Slot → MemOp) : vecStore f s op =
    .next (s.issueStore g i (op (s.slot g i)) (fun j => elemOf ((s.slot g i).readV (vIndex f.data)) (mSize f) j)) := runCore_turn tn _

end Sys2Proof.Machine

open Sys2Proof Sys2Proof.Machine

/-- Settles O32: each store issues at once and writes its elements one after another, `storeSpots`; the rest is `issueStore_leaves`. -/
theorem scratchStores : Obligations.ScratchStores := by
  intro s g i f wf sl off apart gives
  refine ⟨fun tn on => ⟨fun h => ⟨_, st_issues tn on, issueStore_leaves wf h _⟩, fun h => ⟨_, zero_issues tn on, issueStore_leaves wf h _⟩⟩,
    fun tn => ⟨fun h => ⟨_, vecStore_issues tn (fun sl => vecContig f sl true), issueStore_leaves wf h _⟩,
      fun h => ⟨_, vecStore_issues tn (fun sl => vecScatter f sl true (stridedVa f sl)), issueStore_leaves wf h _⟩,
      fun h => ⟨_, vecStore_issues tn (fun sl => vecScatter f sl true (gatherVa f sl)), issueStore_leaves wf h _⟩⟩⟩

end

section
/-! PROOFS. COPY and FILL within the core's scratch (R163, R266, R267, R269). -/

namespace Sys2Proof.Machine

variable {s t : State} {g : CoreId} {q : QueueId} {m : Cmd}

/-! ## Bytes of scratch, part by part -/

theorem length_cellsRead (c : List Host.Cell) : ∀ (n a : Nat), (cellsRead zeroByte c a n).length = n
  | 0, _ => rfl
  | n + 1, a => congrArg (· + 1) (length_cellsRead c n (a + 1))

theorem cellsRead_add (c : List Host.Cell) : ∀ (n k a : Nat), cellsRead zeroByte c a (n + k) = cellsRead zeroByte c a n ++ cellsRead zeroByte c (a + n) k
  | 0, k, a => by rw [Nat.zero_add, Nat.add_zero]; rfl
  | n + 1, k, a => by
    rw [Nat.add_right_comm, cellsRead, cellsRead_add c n k (a + 1), Nat.add_right_comm a 1 n]
    rfl

/-- A part of the bytes read is what a read of that part gives. -/
theorem cellsRead_part (c : List Host.Cell) {n i k : Nat} (a : Nat) (h : i + k ≤ n) :
    ((cellsRead zeroByte c a n).drop i).take k = cellsRead zeroByte c (a + i) k := by
  obtain ⟨r, rfl⟩ := Nat.exists_eq_add_of_le h
  rw [Nat.add_assoc, cellsRead_add, List.drop_left' (length_cellsRead ..), cellsRead_add, List.take_left' (length_cellsRead ..)]

/-! ## Bytes stored one after another -/

/-- Bytes have been stored from an offset of a core's scratch on, and nothing else of the core or of memory has changed. -/
structure StoredAt (s t : State) (g : CoreId) (at_ : Nat) (bs : List Byte) : Prop where
  core : ∃ c, t.core g = { s.core g with scratch := c }
  piece : t.piece = s.piece
  wf : Memory.wf zeroByte (t.core g).scratch = true
  only : onlyScratch s t g (fun a => a < at_ ∨ at_ + bs.length ≤ a)
  read : (t.core g).scratchRead at_ bs.length = bs

namespace StoredAt

theorem nil (at_ : Nat) (wf : Memory.wf zeroByte (s.core g).scratch = true) : StoredAt s s g at_ [] :=
  ⟨⟨_, rfl⟩, rfl, wf, onlyScratch_refl .., rfl⟩

theorem bankOk {at_ : Nat} {bs : List Byte} (h : StoredAt s t g at_ bs) (d : Dom) (va : Nat) : (t.core g).bankOk d va = (s.core g).bankOk d va := by
  obtain ⟨c, e⟩ := h.core
  rw [e]
  rfl

/-- More bytes are stored behind those. -/
theorem append {at_ : Nat} {bs l : List Byte} (h : StoredAt s t g at_ bs) (d : Dom) :
    StoredAt s (t.scratchWrite g d (at_ + bs.length) l) g at_ (bs ++ l) := by
  have write := scratchWrite_only d (at_ + bs.length) l h.wf
  obtain ⟨c, e⟩ := h.core
  refine ⟨⟨_, by rw [scratchWrite_core, e]⟩, ?_, scratchWrite_wf d _ l h.wf, ?_, ?_⟩
  · obtain ⟨r, c, w, e⟩ := storeEvent_eq (t.modCore g _) (some g) d (.scratch (at_ + bs.length)) l.length
    rw [State.scratchWrite, e]
    exact h.piece
  · rw [List.length_append]
    exact onlyScratch_trans (onlyScratch_mono h.only fun a out => by omega) (onlyScratch_mono write fun a out => by omega)
  · have first : (t.scratchWrite g d (at_ + bs.length) l |>.core g).scratchRead at_ bs.length = bs :=
      (cellsRead_congr fun x _ hi => write.2.2 x (.inl hi)).trans h.read
    have second := scratchRead_scratchWrite d (at_ + bs.length) l h.wf
    rw [Core.scratchRead] at first second ⊢
    rw [List.length_append, cellsRead_add, first, second]

end StoredAt

/-! ## Pieces in scratch -/

/-- An extent lies below 2^48 and in scratch banks of a domain (R163). -/
def Core.owns (c : Core) (d : Dom) (va len : Nat) : Prop :=
  va + len ≤ 2 ^ 48 ∧ ∀ a, va ≤ a → a < va + len → inScratch a = true ∧ c.bankOk d a = true

theorem owns_base {c : Core} {d : Dom} {va len : Nat} (h : c.owns d va len) (pos : 0 < len) : scratchBase ≤ va :=
  of_decide_eq_true (h.2 va le_rfl (by omega)).1

/-- The next piece of an extent in scratch: at most to the end of its 512-byte block (R266). -/
theorem engSpan_scratch {va len off rest : Nat} (own : (s.core g).owns m.dom va len) (lt : off < len) (a : Acc) :
    s.engSpan g q m a 512 (va + off) rest = (s, .ok (.scratch (va + off - scratchBase), min rest (512 - (va + off) % 512))) := by
  obtain ⟨below, bank⟩ := own
  obtain ⟨here, mine⟩ := bank (va + off) (by omega) (by omega)
  have place : s.engPlace g q m a (va + off) = (s, .ok (.scratch (va + off - scratchBase))) := by
    rw [State.engPlace, if_neg (by omega), if_pos here, if_pos mine]
  rw [State.engSpan, place]
  dsimp only
  rw [Nat.min_eq_left (Nat.sub_le 512 ((va + off) % 512))]

theorem engNext_scratch {va len off rest : Nat} (own : (s.core g).owns m.dom va len) (lt : off < len) :
    s.engNext g q m .read 512 (va + off) rest =
      (s, .ok ((s.core g).scratchRead (va + off - scratchBase) (min rest (512 - (va + off) % 512)))) := by
  rw [State.engNext, engSpan_scratch own lt]
  rfl

theorem owns_of_bankOk {c c' : Core} {d : Dom} {va len : Nat} (h : c.owns d va len) (same : ∀ a, c'.bankOk d a = c.bankOk d a) :
    c'.owns d va len :=
  ⟨h.1, fun a lo hi => ⟨(h.2 a lo hi).1, (same a).trans (h.2 a lo hi).2⟩⟩

/-- How many 512-byte blocks an extent touches. -/
def blocksOf (va n : Nat) : Nat := if n = 0 then 0 else (va % 512 + n + 511) / 512

theorem blocksOf_step {va n : Nat} (pos : n ≠ 0) :
    blocksOf (va + min n (512 - va % 512)) (n - min n (512 - va % 512)) + 1 ≤ blocksOf va n := by
  rw [blocksOf, blocksOf, if_neg pos]
  split <;> omega

theorem blocksOf_part {va n k : Nat} (_ : k ≤ min n (512 - va % 512)) : blocksOf (va + k) (n - k) ≤ blocksOf va n := by
  unfold blocksOf
  split <;> split <;> omega

/-! ## COPY -/

section
variable {src dst len : Nat} (own : (s.core g).owns m.dom src len) (own' : (s.core g).owns m.dom dst len)

/-- The bytes that the source holds when a COPY begins. -/
def sourceBytes (s : State) (g : CoreId) (src len : Nat) : List Byte := (s.core g).scratchRead (src - scratchBase) len

theorem length_sourceBytes : (sourceBytes s g src len).length = len := length_cellsRead ..

/-- The events that a COPY still has to come, at most: those of its reads, a block each, and for each of them and each block of the
destination a write. -/
def copyLeft (src dst len off r : Nat) : Nat :=
  2 * blocksOf (src + off + r) (len - off - r) + blocksOf (dst + off) (len - off) + if r = 0 then 0 else 1

/-- A COPY has stored `off` bytes and holds the next `r`; where a write could hide what is not read yet, all is read before the first. -/
structure Copying (s t : State) (g : CoreId) (src dst len off r : Nat) : Prop where
  stored : StoredAt s t g (dst - scratchBase) ((sourceBytes s g src len).take off)
  le : off + r ≤ len
  order : copyMeets src dst len = true → off = 0 ∨ off + r = len

/-- The bytes that a COPY holds. -/
def copyBuf (s : State) (g : CoreId) (src len off r : Nat) : List Byte := ((sourceBytes s g src len).drop off).take r

theorem length_copyBuf {off r : Nat} (le : off + r ≤ len) : (copyBuf s g src len off r).length = r := by
  rw [copyBuf, List.length_take, List.length_drop, length_sourceBytes]
  omega

include own own' in
/-- What a COPY reads next is what the source held when it began. -/
theorem copying_reads {off r k : Nat} (h : Copying s t g src dst len off r) (le : off + r + k ≤ len) (pos : 0 < len) :
    copyBuf s g src len off r ++ (t.core g).scratchRead (src + (off + r) - scratchBase) k = copyBuf s g src len off (r + k) := by
  have base := owns_base own pos
  have base' := owns_base own' pos
  have taken : ((sourceBytes s g src len).take off).length = off := by
    rw [List.length_take, length_sourceBytes]
    omega
  have same : (t.core g).scratchRead (src + (off + r) - scratchBase) k =
      cellsRead zeroByte (s.core g).scratch (src - scratchBase + (off + r)) k := by
    rw [show src - scratchBase + (off + r) = src + (off + r) - scratchBase by omega]
    refine cellsRead_congr fun x lo hi => h.stored.only.2.2 x ?_
    rw [taken]
    cases meets : copyMeets src dst len with
    | true =>
      rcases h.order meets with none | all <;> omega
    | false =>
      simp only [copyMeets, Bool.and_eq_false_iff, decide_eq_false_iff_not] at meets
      omega
  rw [same, ← cellsRead_part _ _ le, copyBuf, copyBuf, List.take_add, List.drop_drop]
  rfl

theorem copyLeft_read {off r : Nat} (more : off + r < len) :
    copyLeft src dst len off (r + min (len - off - r) (512 - (src + (off + r)) % 512)) + 1 ≤ copyLeft src dst len off r := by
  have step := blocksOf_step (va := src + (off + r)) (n := len - off - r) (by omega)
  generalize min (len - off - r) (512 - (src + (off + r)) % 512) = k at step ⊢
  rw [copyLeft, copyLeft, show src + off + (r + k) = src + (off + r) + k by omega, show len - off - (r + k) = len - off - r - k by omega,
    Nat.add_assoc src off r]
  split <;> split <;> omega

theorem copyLeft_write {off r : Nat} (holds : 0 < r) (le : off + r ≤ len) :
    copyLeft src dst len (off + min (min (len - off) (512 - (dst + off) % 512)) r) (r - min (min (len - off) (512 - (dst + off) % 512)) r) + 1 ≤
      copyLeft src dst len off r := by
  have step := blocksOf_step (va := dst + off) (n := len - off) (by omega)
  have part := blocksOf_part (va := dst + off) (n := len - off) (k := r)
  generalize min (len - off) (512 - (dst + off) % 512) = n at step part ⊢
  have le' : min n r ≤ r := Nat.min_le_right n r
  rw [copyLeft, copyLeft, if_neg (show r ≠ 0 by omega), show src + (off + min n r) + (r - min n r) = src + off + r by omega,
    show len - (off + min n r) - (r - min n r) = len - off - r by omega, ← Nat.add_assoc dst, ← Nat.sub_sub len off]
  rcases Nat.le_total n r with short | long
  · rw [Nat.min_eq_left short]
    split <;> omega
  · rw [Nat.min_eq_right long, Nat.sub_self, if_pos rfl]
    have := part long
    omega

/-- What a COPY holds is written, in part or whole. -/
theorem Copying.write {off r k : Nat} (h : Copying s t g src dst len off r) (base : scratchBase ≤ dst) (le : k ≤ r)
    (order : copyMeets src dst len = true → off + r = len) (d : Dom) :
    Copying s (t.scratchWrite g d (dst + off - scratchBase) ((copyBuf s g src len off r).take k)) g src dst len (off + k) (r - k) := by
  have within := h.le
  have more := h.stored.append (l := (copyBuf s g src len off r).take k) d
  have taken : ((sourceBytes s g src len).take off).length = off := by
    rw [List.length_take, length_sourceBytes]
    omega
  have all : (sourceBytes s g src len).take off ++ (copyBuf s g src len off r).take k = (sourceBytes s g src len).take (off + k) := by
    rw [copyBuf, List.take_take, Nat.min_eq_left le, List.take_add]
  rw [taken, all, show dst - scratchBase + off = dst + off - scratchBase by omega] at more
  exact ⟨more, by omega, fun meets => .inr (by have := order meets; omega)⟩

theorem copyBuf_drop {off r k : Nat} : (copyBuf s g src len off r).drop k = copyBuf s g src len (off + k) (r - k) := by
  rw [copyBuf, copyBuf, List.drop_take, List.drop_drop]

/-- A COPY that has stored everything. -/
theorem Copying.over {off r : Nat} (h : Copying s t g src dst len off r) (le : len ≤ off) : off = len ∧ copyBuf s g src len off r = [] ∧
    StoredAt s t g (dst - scratchBase) (sourceBytes s g src len) := by
  obtain rfl : off = len := by have := h.le; omega
  have all := h.stored
  rw [List.take_of_length_le (Nat.le_of_eq length_sourceBytes)] at all
  refine ⟨rfl, ?_, all⟩
  rw [copyBuf, List.drop_of_length_le (Nat.le_of_eq length_sourceBytes), List.take_nil]

include own own' in
/-- A COPY in scratch, within so many events: all of its bytes are stored. -/
theorem copyGo_scratch (whole : s.piece = 0) : ∀ (fuel : Nat) {t : State} {off r : Nat}, Copying s t g src dst len off r →
    copyLeft src dst len off r ≤ fuel → ∃ u, t.copyGo g q m src dst len fuel off (copyBuf s g src len off r) = (u, len, [], .done) ∧
      StoredAt s u g (dst - scratchBase) (sourceBytes s g src len) := by
  intro fuel
  induction fuel with
  | zero =>
    intro t off r h few
    have le : len ≤ off := by
      unfold copyLeft blocksOf at few
      split_ifs at few <;> omega
    obtain ⟨rfl, none, all⟩ := h.over le
    exact ⟨t, by rw [none, State.copyGo, if_pos le], all⟩
  | succ fuel ih =>
    intro t off r h few
    by_cases le : len ≤ off
    · obtain ⟨rfl, none, all⟩ := h.over le
      exact ⟨t, by rw [State.copyGo, if_pos le], all⟩
    have bank := h.stored.bankOk m.dom
    have cap : t.pieceCap 1 = 512 := if_pos (h.stored.piece.trans whole)
    have size := length_copyBuf (s := s) (g := g) (src := src) h.le
    have empty : (copyBuf s g src len off r).isEmpty = decide (r = 0) := by
      rw [Bool.eq_iff_iff, List.isEmpty_iff_length_eq_zero, size, decide_eq_true_eq]
    have within := h.le
    rw [State.copyGo, if_neg le]
    dsimp only
    rw [size, empty, cap]
    by_cases reads : (decide (off + r < len) && (decide (r = 0) || copyMeets src dst len)) = true
    · rw [if_pos reads]
      simp only [Bool.and_eq_true, Bool.or_eq_true, decide_eq_true_eq] at reads
      obtain ⟨more, first⟩ := reads
      have left := copyLeft_read (src := src) (dst := dst) more
      rw [Nat.add_assoc src off r, engNext_scratch (owns_of_bankOk own bank) more]
      dsimp only
      rw [copying_reads own own' h (by omega) (by omega)]
      exact ih ⟨h.stored, by omega, fun meets => .inl ((h.order meets).resolve_right (by omega))⟩ (by omega)
    · rw [if_neg reads]
      simp only [Bool.and_eq_true, Bool.or_eq_true, decide_eq_true_eq, not_and, not_or] at reads
      have holds : 0 < r := by omega
      have left := copyLeft_write (src := src) (dst := dst) holds within
      rw [engSpan_scratch (owns_of_bankOk own' bank) (by omega)]
      dsimp only
      rw [if_neg (by simp [Loc.isTile]), copyBuf_drop]
      refine ih (h.write (owns_base own' (by omega)) (Nat.min_le_right ..) (fun meets => ?_) m.dom) (by omega)
      by_contra short
      exact (reads (by omega)).2 meets

/-- The events of a whole COPY are within its turn. -/
theorem copyLeft_le (src dst len : Nat) : copyLeft src dst len 0 0 ≤ pieceFuel len := by
  unfold copyLeft pieceFuel blocksOf
  split_ifs <;> omega

include own own' in
theorem copyRun_scratch (wf : Memory.wf zeroByte (s.core g).scratch = true) (whole : s.piece = 0) :
    ∃ u, s.copyRun g q m src dst len 0 [] = (u, len, [], .done) ∧ StoredAt s u g (dst - scratchBase) (sourceBytes s g src len) := by
  have begins : Copying s s g src dst len 0 0 := ⟨.nil _ wf, Nat.zero_le len, fun _ => .inl rfl⟩
  rw [State.copyRun, State.turnFuel, if_pos whole]
  exact copyGo_scratch own own' whole _ begins (copyLeft_le src dst len)

end

/-! ## FILL -/

theorem owns_part {c : Core} {d : Dom} {va len k : Nat} (h : c.owns d va len) (le : k ≤ len) : c.owns d (va + k) (len - k) :=
  ⟨by have := h.1; omega, fun a lo hi => h.2 a (by omega) (by omega)⟩

/-- Bytes stored over the rest of an extent in scratch, within so many events. -/
theorem engWriteRun_scratch {dst : Nat} (all : List Byte) (own : (s.core g).owns m.dom dst all.length) : ∀ (fuel : Nat) {t : State} {k : Nat},
    StoredAt s t g (dst - scratchBase) (all.take k) → k ≤ all.length → blocksOf (dst + k) (all.length - k) ≤ fuel →
    ∃ u, t.engWriteRun g q m 512 (dst + k) fuel (all.drop k) = (u, all.length - k, .done) ∧ StoredAt s u g (dst - scratchBase) all := by
  intro fuel
  induction fuel with
  | zero =>
    intro t k h le few
    obtain rfl : k = all.length := by
      unfold blocksOf at few
      split_ifs at few <;> omega
    rw [List.take_length] at h
    exact ⟨t, by rw [List.drop_length, Nat.sub_self]; rfl, h⟩
  | succ fuel ih =>
    intro t k h le few
    by_cases ended : k = all.length
    · subst ended
      rw [List.take_length] at h
      exact ⟨t, by rw [List.drop_length, Nat.sub_self]; rfl, h⟩
    have lt : k < all.length := by omega
    have base := owns_base own (by omega)
    have some : ¬ (all.drop k).isEmpty = true := by
      rw [List.isEmpty_iff, List.drop_eq_nil_iff]
      omega
    have step := blocksOf_step (va := dst + k) (n := all.length - k) (by omega)
    rw [State.engWriteRun, if_neg some, engSpan_scratch (owns_of_bankOk own (h.bankOk m.dom)) lt, List.length_drop]
    generalize reach : min (all.length - k) (512 - (dst + k) % 512) = n at step ⊢
    have more := h.append (l := (all.drop k).take n) m.dom
    have taken : (all.take k).length = k := List.length_take_of_le le
    rw [taken, ← List.take_add, show dst - scratchBase + k = dst + k - scratchBase by omega] at more
    obtain ⟨u, run, stored⟩ := ih more (by omega) (by rw [← Nat.add_assoc, ← Nat.sub_sub]; omega)
    refine ⟨u, ?_, stored⟩
    dsimp only [State.engStore]
    rw [List.drop_drop, Nat.add_assoc, run]
    dsimp only
    rw [show n + (all.length - (k + n)) = all.length - k by omega]

/-! ## The end of a command -/

theorem core_modCmd (s : State) (g : CoreId) (q : QueueId) (pos : Fin 32) (f : Cmd → Cmd) : (s.modCmd g q pos f).core g =
    (s.core g).setQueue q ((s.core g).queues[q].map (fun m => if m.pos = pos then f m else m)) := core_setCore ..

/-- A command changed is found where it was. -/
theorem cmdAt_modCmd (s : State) (g : CoreId) (q : QueueId) (pos : Fin 32) {f : Cmd → Cmd} (same : ∀ x, (f x).pos = x.pos) :
    ((s.modCmd g q pos f).core g).cmdAt q pos = ((s.core g).cmdAt q pos).map f := by
  have keeps : ((fun m : Cmd => m.pos == pos) ∘ fun m => if m.pos = pos then f m else m) = fun m => m.pos == pos := by
    funext m
    dsimp only [Function.comp]
    split
    · rw [same]
    · rfl
  rw [core_modCmd, Core.cmdAt, Core.cmdAt, Core.setQueue]
  simp only [Fin.getElem_fin, Vector.getElem_set_self, List.find?_map, keeps]
  cases found : List.find? (fun m => m.pos == pos) (s.core g).queues[q.val] with
  | none => rfl
  | some m =>
    have at_ : m.pos = pos := by simpa using List.find?_some found
    simp [at_]

/-- A change of a command changes no byte. -/
theorem modCmd_only (s : State) (g : CoreId) (q : QueueId) (pos : Fin 32) (f : Cmd → Cmd) (out : Nat → Prop) :
    onlyScratch s (s.modCmd g q pos f) g out := by
  refine ⟨fun _ => rfl, fun h ne => congrArg Core.scratch (core_setCore_ne _ _ _ _ ne), fun off _ => ?_⟩
  rw [core_modCmd]
  rfl

/-- A command that has stored bytes in scratch and is done. -/
theorem cmdOut_stored {at_ : Nat} {bs : List Byte} {f : Cmd → Cmd} (same : ∀ x, (f x).pos = x.pos) (h : StoredAt s t g at_ bs)
    (find : (s.core g).cmdAt q m.pos = some m) :
    let u := t.cmdOut g q m f .done 0
    (u.core g).scratchRead at_ bs.length = bs ∧ onlyScratch s u g (fun a => a < at_ ∨ at_ + bs.length ≤ a) ∧
      ((u.core g).cmdAt q m.pos).map (fun x => x.st) = some (.done stOk 0) := by
  obtain ⟨c, core⟩ := h.core
  have find' : (t.core g).cmdAt q m.pos = some m := by
    rw [core]
    exact find
  refine ⟨?_, onlyScratch_trans h.only (onlyScratch_trans (modCmd_only ..) (modCmd_only ..)), ?_⟩
  · rw [State.cmdOut, core_modCmd, core_modCmd]
    exact h.read
  · rw [State.cmdOut, cmdAt_modCmd, cmdAt_modCmd _ _ _ _ same, find']
    · rfl
    · exact fun _ => rfl

end Sys2Proof.Machine

open Sys2Proof Sys2Proof.Machine

/-- Settles O52: a COPY in scratch keeps `Copying`, and so stores what the source held; a FILL stores its bytes piece by piece; either ends
within the events of its turn. -/
theorem copiesInScratch : Obligations.CopiesInScratch := by
  intro s g q m tn whole fresh empty wf mine done
  obtain ⟨_, find, _, _⟩ := id tn
  refine ⟨fun c own own' => ?_, fun c own => ?_⟩
  · obtain ⟨u, run, stored⟩ := copyRun_scratch (q := q) own own' wf whole
    have ends := cmdOut_stored (f := fun x => { x with progress := c.len.toNat, buf := [] }) (fun _ => rfl) stored find
    refine ⟨_, (runCmd_turn tn _).trans ?_, ends⟩
    dsimp only
    rw [fresh, empty, run]
  · have length : (fillBytes c.pat 0 c.len.toNat).length = c.len.toNat := by rw [fillBytes, List.length_map, List.length_range]
    have few : blocksOf c.dst.toNat (fillBytes c.pat 0 c.len.toNat).length ≤ pieceFuel c.len.toNat := by
      rw [length]
      unfold blocksOf pieceFuel
      split <;> omega
    have own' : (s.core g).owns m.dom c.dst.toNat (fillBytes c.pat 0 c.len.toNat).length := by
      rw [length]
      exact own
    obtain ⟨u, run, stored⟩ := engWriteRun_scratch (q := q) (fillBytes c.pat 0 c.len.toNat) (k := 0) own' (pieceFuel c.len.toNat)
      (.nil _ wf) (Nat.zero_le _) few
    have ends := cmdOut_stored (f := fun x => { x with progress := m.progress + c.len.toNat }) (fun _ => rfl) stored find
    refine ⟨_, (runCmd_turn tn _).trans ?_, ends⟩
    rw [List.drop_zero, Nat.add_zero, Nat.sub_zero, length] at run
    dsimp only
    rw [State.pieceCap, State.turnFuel, if_pos whole, if_pos whole, fresh, Nat.add_zero, Nat.sub_zero, run]

end

section
/-! PROOFS. Cache control, existence of tiles, tile pools and FENCE (R201, R213, R215, R216, R237 to R243, R250, R351). -/

namespace Sys2Proof.Machine

variable {s t : State} {g : CoreId} {i : SlotId}

/-! ## PREF, INVAL and FLUSH -/

theorem lenBad_isEmpty {n limit : Nat} : (lenBad n limit).isEmpty = false ↔ limit < n := by
  unfold lenBad
  split <;> simp_all

section
variable {f : FmtM} (tn : turn s g i (mRegs f)) (on : (s.slot g i).guard f.pn f.pred = true)
include tn on

theorem pref_long (long : 1024 < (s.slot g i).memLen f * mSize f) : execPref f s = .next (raise s g i (trapOf .illegal)) := by
  rw [execPref, guardedM_on f (uses := []) tn on]
  dsimp only
  rw [if_pos (lenBad_isEmpty.mpr long)]

/-- PREF that no recorded range holds back (R237, R251). -/
theorem pref_runs {rs : List (Run × Nat)} (short : (s.slot g i).memLen f * mSize f ≤ 1024)
    (free : (s.core g).sbHolds (s.slot g i).dom false (longOp f (s.slot g i) false).exts = false)
    (runs : s.prefRuns g (s.slot g i).dom (s.slot g i).isU (pageParts ((s.slot g i).memVa f 0).toNat
      ((longOp f (s.slot g i) false).spots.length * (longOp f (s.slot g i) false).size)) = (t, rs)) :
    execPref f s = .next (if ((s.core g).l1Queued (rs.map (fun x => x.1)) ||
      (s.core g).heldMeets (s.slot g i).dom false [] (runPlaces (rs.map (fun x => x.1)))) = true then t
      else (rs.foldl (fun u x => u.prefetch g (s.slot g i).dom x) t).pcNext g i) := by
  have fits : ¬ (lenBad ((s.slot g i).memLen f * mSize f) 1024).isEmpty = false := mt lenBad_isEmpty.mp (by omega)
  rw [execPref, guardedM_on f (uses := []) tn on]
  dsimp only
  rw [if_neg fits, free, if_neg Bool.false_ne_true, runs]

end

/-- The parts of the extent of FLUSH or INVAL, page by page. -/
def cacheExts (f : FmtM) (sl : Slot) : List (Nat × Nat) :=
  let m := longOp f sl true
  if m.spots.isEmpty then [] else pageParts (sl.memVa f 0).toNat (m.spots.length * m.size)

/-- FLUSH and INVAL where nothing holds them back: every check passes, and no page is awaited. -/
theorem cacheOp_goes {f : FmtM} {sl : Slot} {es : List Elem} (free : (s.core g).sbHolds sl.dom true (longOp f sl true).exts = false)
    (calm : (s.core g).acquiring sl.task.act = false)
    (good : worst ((longOp f sl true).bad ++ s.reservedPtes g sl.dom (longOp f sl true).spots ++
      misaligned (longOp f sl true).size (longOp f sl true).spots) = none)
    (look : s.lookPages g sl.dom (some (g, i, sl.task.act)) (cacheExts f sl) = (t, es, [], false))
    (clear : (s.core g).heldMeets sl.dom false (longOp f sl true).exts (runPlaces (memRuns 1 es)) = false)
    (go : State → List Elem → State) (waits : State → MemOp → State) : s.cacheOp g i f sl go waits = go t es := by
  unfold cacheExts at look
  rw [State.cacheOp]
  dsimp only
  rw [free, calm, if_neg Bool.false_ne_true, if_neg Bool.false_ne_true, good]
  dsimp only
  rw [look]
  dsimp only [worst]
  rw [clear]
  rfl

section
variable {f : FmtM} {es : List Elem} (tn : turn s g i (mRegs f)) (on : (s.slot g i).guard f.pn f.pred = true)
  (free : (s.core g).sbHolds (s.slot g i).dom true (longOp f (s.slot g i) true).exts = false)
  (calm : (s.core g).acquiring (s.slot g i).task.act = false)
  (good : worst ((longOp f (s.slot g i) true).bad ++ s.reservedPtes g (s.slot g i).dom (longOp f (s.slot g i) true).spots ++
    misaligned (longOp f (s.slot g i) true).size (longOp f (s.slot g i) true).spots) = none)
  (look : s.lookPages g (s.slot g i).dom (some (g, i, (s.slot g i).task.act)) (cacheExts f (s.slot g i)) = (t, es, [], false))
  (clear : (s.core g).heldMeets (s.slot g i).dom false (longOp f (s.slot g i) true).exts (runPlaces (memRuns 1 es)) = false)
include tn on free calm good look clear

/-- INVAL drops what it drops of the L1, and moves on (R239). -/
theorem inval_goes (ready : t.l1Waits g (memRuns 1 es) = false) :
    let l := ((memRuns 1 es).flatMap (blocks 4096 2)).foldl (fun (o : List L1Entry × List Msg) q =>
      let n := l1Inval g (t.core g).l1ways t.now (s.slot g i).dom q o.1
      (n.1, o.2 ++ n.2)) ((t.core g).l1, [])
    execInval f s = .next (((t.setCore g { t.core g with l1 := l.1 }).send l.2).pcNext g i) := by
  intro l
  rw [execInval, guardedM_on f (uses := []) tn on]
  dsimp only
  rw [cacheOp_goes free calm good look clear, if_neg (ne_true_of_eq_false ready)]

/-- FLUSH moves on where no byte is cached memory, and joins the accesses in flight where some is (R238). -/
theorem flush_goes (room : (s.slot g i).cnt.st ≠ 63) : execFlush f s = .next (if es.isEmpty then t.pcNext g i
    else ((t.pushPend g i .waitFlush es [] .discard flushOp).pcNext g i).tryPend g t.nextPend) := by
  have some : ¬ ((s.slot g i).cnt.st == 63) = true := by simpa using room
  rw [execFlush, guardedM_on f (uses := []) tn on, if_neg some, cacheOp_goes free calm good look clear]

end

/-! ## XTEST and ERASE at their instruction -/

/-- A bit of what XTEST writes (R241). -/
theorem getLsbD_xtestWord (vals : List (Nat × Word)) {k : Nat} (h : k < 64) :
    (xtestWord vals).getLsbD k = true ↔ valOf vals k = some 1 := by
  have field := packFields_field 1 (fun k => if valOf vals k = some 1 then 1 else 0) k 64 h
  rw [xtestWord, BitVec.getLsbD_ofNat, decide_eq_true h, Bool.true_and, Nat.testBit_eq_decide_div_mod_eq]
  rw [Nat.one_mul, Nat.pow_one] at field
  rw [field, decide_eq_true_eq]
  split <;> simp_all

section
variable {m : MemOp} {d : LoadDest}

/-- The last tile of XTEST at its instruction. -/
theorem xtestRun_last (sl : Slot) (vals : List (Nat × Word)) (e : Elem) : s.xtestRun g i sl m d vals [e] =
    ((s.xtestBit g sl.dom e).1.overVia g (.now i sl)).endLoad g (.now i sl) m d
      [(0, xtestWord (vals ++ [(e.j, (s.xtestBit g sl.dom e).2)]))] := rfl

/-- A tile of XTEST before the last. -/
theorem xtestRun_more (sl : Slot) (vals : List (Nat × Word)) (e : Elem) {l : List Elem} (ne : l ≠ []) : s.xtestRun g i sl m d vals (e :: l) =
    (s.xtestBit g sl.dom e).1.setTile g i ⟨l, vals ++ [(e.j, (s.xtestBit g sl.dom e).2)], []⟩ := by
  cases l with
  | nil => exact absurd rfl ne
  | cons x l => rfl

/-- What XTEST leaves at its instruction, from one tile on (R241, R351). -/
theorem xtestRun_leaves {c : Instr} {sl : Slot} {vals : List (Nat × Word)} {e : Elem} {l : List Elem} {u : State}
    (run : exec c s = .next (u.xtestRun g i sl m d vals (e :: l))) :
    let v := (u.xtestBit g sl.dom e).1
    let vals' := vals ++ [(e.j, (u.xtestBit g sl.dom e).2)]
    (l = [] → ∃ w : Word, (∀ k, k < 64 → (w.getLsbD k = true ↔ valOf vals' k = some 1)) ∧
      (let r := marked (((v.overVia g (.now i sl)).modSlot g i (fun x => x.putLoad m.size d [(0, w)])).pcNext g i) g i m.ord m.scope
       exec c s = .next (if m.ord.isAcq && m.scope.wide then r.acquireDrop g else r))) ∧
    (l ≠ [] → exec c s = .next (v.setTile g i ⟨l, vals', []⟩)) := by
  refine ⟨?_, fun ne => run.trans (congrArg _ (xtestRun_more sl vals e ne))⟩
  rintro rfl
  exact ⟨_, fun k h => getLsbD_xtestWord _ h, run.trans (congrArg _ ((xtestRun_last sl vals e).trans (endLoad_marked ..)))⟩

end

/-- What ERASE leaves at its instruction, from one tile on (R242, R351). -/
theorem eraseRun_leaves {c : Instr} {sl : Slot} {e : Elem} {l : List Elem} {u : State} (run : exec c s = .next (u.eraseRun g i sl (e :: l))) :
    (l = [] → exec c s = .next (((u.eraseElem g sl.dom e).overVia g (.now i sl)).pcNext g i)) ∧
    (l ≠ [] → exec c s = .next ((u.eraseElem g sl.dom e).setTile g i ⟨l, [], []⟩)) := by
  cases l with
  | nil => exact ⟨fun _ => run, fun ne => absurd rfl ne⟩
  | cons x l => exact ⟨fun none => (nomatch none), fun _ => run⟩

/-- An ERASE of several tiles that is at its first waits for its release (R351). -/
theorem tilesWait_iff {sl : Slot} (tile : sl.tile = none) {l : List Elem} :
    s.tilesWait g sl l = true ↔ l ≠ [] ∧ (s.core g).released sl.task.act sl.acq false = false := by
  simp [State.tilesWait, tile]

section
variable {f : FmtM} (tn : turn s g i (mRegs f)) (on : (s.slot g i).guard f.pn f.pred = true)
include tn on

/-- The access of XTEST. -/
def xtestOp (f : FmtM) (sl : Slot) : MemOp := ⟨false, .read, 8, [], lenBad (sl.memLen f) 64, [], f.ord, f.scope, true⟩

/-- The access of ERASE of a length within its limit. -/
def eraseOp (f : FmtM) (a len : Nat) : MemOp := ⟨true, .write, 1, [], [], [(a, len)], f.ord, f.scope, true⟩

/-- XTEST on several tiles goes on (R351). -/
theorem xtest_goesOn {x : TileStep} (h : (s.slot g i).tile = some x) : execXtest f s =
    .next (s.xtestRun g i (s.slot g i) (xtestOp f (s.slot g i)) (xDest f.data false) x.vals x.elems) := by
  rw [execXtest, guardedM_on f (uses := []) tn on]
  dsimp only
  rw [issue_tile h, h]
  rfl

/-- ERASE on several tiles goes on (R351). -/
theorem erase_goesOn {x : TileStep} (h : (s.slot g i).tile = some x) : execErase f s = .next (s.eraseRun g i (s.slot g i) x.elems) := by
  rw [execErase, guardedM_on f (uses := []) tn on]
  dsimp only
  rw [issue_tile h, h]

/-- XTEST that nothing holds back looks for its tiles. -/
theorem xtest_begins (free : unheld s g i (xtestOp f (s.slot g i))) (pos : 0 < (s.slot g i).memLen f) (le : (s.slot g i).memLen f ≤ 64) :
    execXtest f s = .next (s.xtestGo g (.now i (s.slot g i)) (xtestOp f (s.slot g i)) (xDest f.data false) (s.slot g i).isU
      (some (g, i, (s.slot g i).task.act)) ((s.slot g i).memVa f 0) ((s.slot g i).memLen f)) := by
  have good : worst (earlyBad s g i (xtestOp f (s.slot g i))) = none := by
    rw [earlyBad, xtestOp, lenBad_none le]
    rfl
  have tile := free.1
  rw [execXtest, guardedM_on f (uses := []) tn on]
  dsimp only
  rw [← xtestOp, issue_clear (clear_nil rfl free good), tile]
  dsimp only
  rw [if_neg (by omega)]

/-- ERASE that nothing holds back looks for its tiles, if it has any. -/
theorem erase_begins (free : unheld s g i (eraseOp f ((s.slot g i).memVa f 0).toNat ((s.slot g i).srcW f.aux).toNat))
    (le : ((s.slot g i).srcW f.aux).toNat ≤ 2 ^ 22) : execErase f s = .next (if ((s.slot g i).srcW f.aux).toNat = 0 then s.pcNext g i
      else s.eraseGo g (.now i (s.slot g i)) (eraseOp f ((s.slot g i).memVa f 0).toNat ((s.slot g i).srcW f.aux).toNat) (s.slot g i).isU
        (some (g, i, (s.slot g i).task.act)) ((s.slot g i).memVa f 0).toNat ((s.slot g i).srcW f.aux).toNat) := by
  have tile := free.1
  rw [execErase, guardedM_on f (uses := []) tn on]
  dsimp only
  rw [if_neg (by omega), ← eraseOp, issue_clear (clear_nil rfl free rfl), tile]

end

theorem remote_tileElems (ts : List TileRef) (a z : Nat) : (tileElems ts a z).any (fun e => e.loc.remote) = false := by
  rw [List.any_eq_false]
  intro e he
  obtain ⟨x, _, rfl⟩ := List.mem_map.mp he
  exact Bool.false_ne_true

/-- XTEST that has found its tiles, and that no earlier access holds back: in flight, or at its instruction. -/
theorem xtestGo_found {sl : Slot} {m : MemOp} {d : LoadDest} {who : Option (CoreId × SlotId × Nat)} {a : VA} {n : Nat} {t0 : TileRef}
    {t1 t2 : State} {r ts : List TileRef} {u : Bool} (first : s.tileOf g sl.dom .read u who a.toNat = (t1, .ok t0))
    (good : worst (t1.reservedPtes g sl.dom (pageSpots a.toNat (n * t0.region.tile))) = none) (aligned : a.toNat % t0.region.tile = 0)
    (free : (t1.core g).sbHolds sl.dom false [(a.toNat, n * t0.region.tile)] = false)
    (regions : t1.regionPages g sl.dom .read u who (some t0.region.idx) (pageSteps a.toNat (n * t0.region.tile)) = (t2, .ok r))
    (tiles : t2.tilesFrom g sl.dom .read u who t0.region.tile n a.toNat = (t, .ok ts))
    (clear : (t.core g).heldMeets sl.dom true [(a.toNat, n * t0.region.tile)] (m.places (tileElems ts a.toNat t0.region.tile)) = false) :
    s.xtestGo g (.now i sl) m d u who a n = if t.tilesLate g sl.dom m (tileElems ts a.toNat t0.region.tile) = true
      then t.flyPoint g (.now i sl) m .xtest d (tileElems ts a.toNat t0.region.tile)
      else t.xtestRun g i sl m d [] (tileElems ts a.toNat t0.region.tile) := by
  simp only [State.xtestGo, Via.dom, first, good, aligned, free, regions, tiles, clear, ne_eq, not_true_eq_false, Bool.false_eq_true, if_false]
  rfl

/-- ERASE that has found its tiles, and that no earlier access holds back: in flight, behind its release, or at its instruction. -/
theorem eraseGo_found {sl : Slot} {m : MemOp} {who : Option (CoreId × SlotId × Nat)} {a len : Nat} {t0 : TileRef} {t1 : State}
    {r ts : List TileRef} {u : Bool} (good : worst (s.reservedPtes g sl.dom (pageSpots a len)) = none)
    (regions : s.regionPages g sl.dom .write u who none (pageSteps a len) = (t1, .ok (t0 :: r))) (aligned : a % t0.region.tile = 0)
    (whole : len % t0.region.tile = 0) (tiles : t1.tilesFrom g sl.dom .write u who t0.region.tile (len / t0.region.tile) a = (t, .ok ts))
    (clear : (t.core g).heldMeets sl.dom true [(a, len)] (m.places (tileElems ts a t0.region.tile)) = false) :
    s.eraseGo g (.now i sl) m u who a len = if t.tilesLate g sl.dom m (tileElems ts a t0.region.tile) = true
      then t.flyPoint g (.now i sl) m .erase .discard (tileElems ts a t0.region.tile)
      else if t.tilesWait g sl ((tileElems ts a t0.region.tile).drop 1) = true then t
      else (t.dropOwnResv g i a len).eraseRun g i sl (tileElems ts a t0.region.tile) := by
  simp only [State.eraseGo, Via.dom, good, regions, aligned, whole, tiles, clear, ne_eq, not_true_eq_false, decide_false, Bool.or_self,
    Bool.false_eq_true, if_false]
  rfl

/-! ## POOLADD -/

section
variable {h : FmtS} (tn : turn s g i (sRegs h)) (level : (s.slot g i).isU = false)
include tn level

theorem pooladd_none (none : ((s.slot g i).srcW h.sb).toNat = 0) : execPooladd h s = .next ((s.putX g i h.dst 0).pcNext g i) := by
  rw [execPooladd, runCore_turn tn]
  dsimp only
  rw [if_neg (by omega), level, if_neg Bool.false_ne_true, if_pos none]

/-- POOLADD that finds its tiles pushes them, and counts those it has added (R243). -/
theorem pooladd_counts {l : List Nat} (le : ((s.slot g i).srcW h.sb).toNat ≤ 4096) (some : ((s.slot g i).srcW h.sb).toNat ≠ 0)
    (aligned : (((s.slot g i).srcW h.sa).setWidth 48).toNat % 2 ^ (9 + (h.imm.extractLsb' 0 3).toNat) = 0)
    (tiles : s.poolTiles g (s.slot g i).dom (2 ^ (9 + (h.imm.extractLsb' 0 3).toNat)) ((s.slot g i).srcW h.sb).toNat
      (((s.slot g i).srcW h.sa).setWidth 48).toNat = (t, .ok l))
    (performed : (t.core g).released (s.slot g i).task.act (s.slot g i).acq true = true) :
    let p := t.poolPushAll (s.slot g i).dom (h.imm.extractLsb' 0 3).toNat (h.imm.extractLsb' 3 4) l.reverse 0
    execPooladd h s = .next ((p.1.putX g i h.dst (BitVec.ofNat 64 p.2)).pcNext g i) := by
  intro p
  rw [execPooladd, runCore_turn tn]
  dsimp only
  rw [if_neg (by omega), level, if_neg Bool.false_ne_true, if_neg some, if_neg (not_not_intro aligned), tiles]
  dsimp only
  rw [performed]
  rfl

end

/-! ## FENCE -/

/-- What a FENCE waits for (R216). -/
def fenceWaits (s : State) (g : CoreId) (i : SlotId) (f : FmtF) : Prop :=
  let c := s.core g
  let act := (s.slot g i).task.act
  let mark := (s.slot g i).acq
  let engines := f.sm.extractLsb' 0 6 ≠ 0
  let undone := fun (q : QueueId) (k : Nat) => c.engineDone act q (f.pm.getLsbD (k + 1)) (f.pm.getLsbD k) = false
  (f.pm.getLsbD 7 = true ∧ (f.scope ≠ .slot ∨ engines) ∧ c.loadsDone act mark = false) ∨
    (f.pm.getLsbD 6 = true ∧ (f.scope.wide = true ∨ engines) ∧ c.released act mark (f.scope == .pod) = false) ∨
    undone 0 4 ∨ undone 1 2 ∨ undone 2 0

/-- A FENCE waits, or goes on with its acquire (R213, R215, R216). -/
theorem fence_turn {f : FmtF} (tn : turn s g i []) :
    let u := if f.scope = .slot then s else s.modSlot g i (fun x => { x with acq := s.nextPend })
    (fenceWaits s g i f → execFence f s = .next s) ∧
    (¬ fenceWaits s g i f → execFence f s = .next ((if f.sm.getLsbD 7 && f.scope.wide then u.acquireDrop g else u).pcNext g i)) := by
  intro u
  have goes : (if f.sm.getLsbD 7 then s.acquireAt g (some i) f.scope else s.acquireMark g i f.scope) =
      if f.sm.getLsbD 7 && f.scope.wide then u.acquireDrop g else u := by
    cases f.sm.getLsbD 7 <;> rfl
  refine ⟨fun waits => ?_, fun ready => ?_⟩
  · rw [execFence, runCore_turn tn]
    dsimp only
    rw [if_pos]
    unfold fenceWaits at waits
    simpa [or_assoc, and_assoc] using waits
  · rw [execFence, runCore_turn tn]
    dsimp only
    rw [if_neg, goes]
    unfold fenceWaits at ready
    simpa [or_assoc, and_assoc] using ready

end Sys2Proof.Machine

open Sys2Proof Sys2Proof.Machine

/-- Settles O35: each instruction is its own lemma; XTEST and ERASE act on one tile and keep what remains, `xtestRun_leaves` and
`eraseRun_leaves`, once they have found their tiles. -/
theorem cacheAndFence : Obligations.CacheAndFence := by
  refine ⟨?_, ?_, ?_, fun s g i f tn => fence_turn tn⟩
  · intro s t g i f tn on sl a
    refine ⟨⟨fun long => pref_long tn on long, fun rs short free runs => ?_⟩, ?_⟩
    · have goes := pref_runs tn on short free runs
      exact ⟨fun h => goes.trans (congrArg _ (if_pos h)), fun h => goes.trans (congrArg _ (if_neg (ne_true_of_eq_false h)))⟩
    · intro es m free calm room good look clear
      exact ⟨fun ready => ⟨_, _, inval_goes tn on free calm good look clear ready⟩,
        fun none => (flush_goes tn on free calm good look clear room).trans (congrArg _ (if_pos (List.isEmpty_iff.mpr none))),
        fun some => (flush_goes tn on free calm good look clear room).trans (congrArg _ (if_neg (mt List.isEmpty_iff.mp some)))⟩
  · intro s t g i f e l tn on sl who a found bit erased ended tested gone
    refine ⟨fun x tile at_ => ⟨?_, ?_⟩, ?_, ?_⟩
    · exact xtestRun_leaves (c := .xtest f) ((xtest_goesOn tn on tile).trans (by rw [at_]))
    · exact eraseRun_leaves (c := .erase f) ((erase_goesOn tn on tile).trans (by rw [at_]))
    · intro t0 t1 t2 r ts n m free pos le first good aligned held regions tiles elems clear
      rw [← elems] at clear
      have goes := (xtest_begins tn on free pos le).trans (congrArg _ (xtestGo_found first good aligned held regions tiles clear))
      rw [elems] at goes
      exact ⟨fun now => xtestRun_leaves (c := .xtest f) (goes.trans (congrArg _ (if_neg (ne_true_of_eq_false now)))),
        fun late => goes.trans (congrArg _ ((if_pos late).trans (flyPoint_now _ _ _ _ _ (elems ▸ remote_tileElems ..))))⟩
    · intro len m free le
      have begins := erase_begins tn on free le
      refine ⟨fun none => begins.trans (congrArg _ (if_pos none)), ?_⟩
      intro t0 t1 r ts some good regions aligned whole tiles elems clear
      rw [← elems] at clear
      have goes := begins.trans (congrArg _ ((if_neg some).trans (eraseGo_found good regions aligned whole tiles clear)))
      rw [elems] at goes
      refine ⟨fun late => goes.trans (congrArg _ ((if_pos late).trans (flyPoint_now _ _ _ _ _ (elems ▸ remote_tileElems ..)))),
        fun now => ?_⟩
      have here := goes.trans (congrArg _ (if_neg (ne_true_of_eq_false now)))
      refine ⟨fun ready => eraseRun_leaves (c := .erase f) (here.trans (congrArg _ (if_neg ?_))),
        fun more unready => here.trans (congrArg _ (if_pos ?_))⟩
      · rw [tilesWait_iff free.1]
        exact fun ⟨more, unready⟩ => ready.elim more (fun h => nomatch h.symm.trans unready)
      · exact (tilesWait_iff free.1).mpr ⟨more, unready⟩
  · intro s t g i h tn level sl le n tsz v
    exact ⟨pooladd_none tn level, fun l some aligned tiles performed => pooladd_counts tn level le some aligned tiles performed⟩

end


section
/-! PROOFS. The events of the coherence network and of pulls: what each of them answers where it is its turn, one lemma for each event and
outcome, and CoherenceEvents from them. -/

namespace Sys2Proof.Machine

/-- An event whose answer is known goes there. -/
theorem next_of_some {o : Option State} {s u : State} (h : o = some u) :
    (Host.Outcome.next (o.getD s) : Host.Outcome State Fault Refusal) = .next u :=
  congrArg _ (by rw [h, Option.getD_some])

/-! ## Messages -/

theorem mem_net_send {s : State} {l : List Msg} {m : Msg} (h : m ∈ l) : m ∈ (s.send l).net := by
  cases l with
  | nil => cases h
  | cons x xs => exact List.mem_append_right _ h

@[simp] theorem send_die (s : State) (l : List Msg) (d : DieId) : (s.send l).die d = s.die d := by
  unfold State.send
  split <;> rfl

@[simp] theorem setPend_die (s : State) (g : CoreId) (p : Pend) (d : DieId) : (s.setPend g p).die d = s.die d := rfl

@[simp] theorem dropThe_die (s : State) (m : Msg) (d : DieId) : (s.dropThe m).die d = s.die d := rfl

@[simp] theorem storeEvent_die (s : State) (g : Option CoreId) (d : Dom) (l : Loc) (n : Nat) (h : DieId) :
    (s.storeEvent g d l n).die h = s.die h := by
  obtain ⟨r, c, w, e⟩ := storeEvent_eq s g d l n
  rw [e]
  rfl

@[simp] theorem unshadow_die (s : State) (g : CoreId) (id : Nat) (r : Run) (d : DieId) : (s.unshadow g id r).die d = s.die d := by
  unfold State.unshadow
  repeat' split
  all_goals rfl

/-- What a slice accepts is counted there, and changes no record of owners. -/
@[simp] theorem accepted_owned (s : State) (d : DieId) (pa : Nat) : ((s.accepted d pa).die d).owned = (s.die d).owned := by
  rw [State.accepted, die_modDie]
  rfl

theorem accepts_eq_true {s : State} {d : DieId} {pa : Nat} (room : (((s.die d).sliceQ[homeSlice pa]).filter (fun x => x.2.2)).length < 32) :
    s.accepts d pa = true :=
  decide_eq_true room

/-! ## Fills -/

section
variable {s u v : State} {n : Nat} {g : CoreId} {dom : Dom} {r : Run} {grain : Nat}

theorem homeFill_serves (msg : s.net[n]? = some (.fillReq g dom r grain)) (order : s.inOrder n g r.pa = true)
    (room : s.accepts g.die r.pa = true) (served : s.fillLacks g r grain = [] ∨ s.l2ways g.die dom = 0) :
    s.homeFill n = some ((s.dropMsg n).serveFill g dom r) := by
  rcases served with h | h <;> simp [State.homeFill, msg, order, room, h]

theorem homeFill_asks (msg : s.net[n]? = some (.fillReq g dom r grain)) (order : s.inOrder n g r.pa = true)
    (room : s.accepts g.die r.pa = true) (lacks : s.fillLacks g r grain ≠ []) (ways : s.l2ways g.die dom ≠ 0) :
    s.homeFill n = some ((s.setMsg n (.farRead g dom r grain)).send (s.askGrains g dom (s.fillLacks g r grain))) := by
  simp [State.homeFill, msg, order, room, lacks]
  exact fun none => absurd none ways

theorem hbmArrive_reads (msg : s.net[n]? = some (.hbmRead g dom r)) :
    s.hbmArrive n = some ((((s.dropMsg n).hbmKeep g dom r).modDie g.die (fun x => x.portJoin g r false)).send
      [.fillResp g dom r.pa (s.cohRead r.pa r.len) true (s.badIn r)]) := by
  simp only [State.hbmArrive, msg]

theorem hbmArrive_serves (msg : s.net[n]? = some (.farRead g dom r grain)) (room : s.accepts g.die r.pa = true)
    (served : s.fillLacks g r grain = [] ∨ s.l2ways g.die dom = 0) : s.hbmArrive n = some ((s.dropMsg n).serveFill g dom r) := by
  rcases served with h | h <;> simp [State.hbmArrive, msg, room, h]

theorem fillArrive_serves {pa : Nat} {data : List Byte} {keep : Bool} {bad : List Nat}
    (msg : s.net[n]? = some (.fillResp g dom pa data keep bad)) (order : s.portTurn g ⟨pa, data.length⟩ = true) :
    let u := ((s.dropMsg n).modDie g.die (fun x => x.portLeave g ⟨pa, data.length⟩)).modCore g (fun c => c.arrived dom ⟨pa, data.length⟩)
    let v := if keep then u.fillEntry g dom pa data bad else u
    s.fillArrive n = some ((((v.core g).pend.map (fun p => p.id)).foldl (fun (s : State) id => s.fillLoad g dom pa data bad id) v).tryAll g) := by
  simp only [State.fillArrive, msg, order, Bool.not_true, Bool.false_eq_true, if_false]

theorem forwarded_supplies {o : CoreId} (msg : s.net[n]? = some (.fwdRead o g dom r)) :
    s.forwarded n = some ((s.dropMsg n).send [.fillResp g dom r.pa (s.cohRead r.pa r.len) true (s.ownedPoison o r)]) := by
  simp only [State.forwarded, msg]

end

/-! ## Registrations, recalls and write-backs -/

section
variable {s : State} {n : Nat} {g : CoreId} {r : Run} {id grain : Nat}

/-- What a registration that is done with leaves: its bytes are performed, and the acknowledgement is under way (R171). -/
def State.registered (s : State) (g : CoreId) (id : Nat) (r : Run) (grain : Nat) : State :=
  (((s.dropThe (.reg g id r grain)).accepted g.die r.pa).unshadow g id r).send [.regAck g id r]

/-- What a registration that is recorded leaves (R176). -/
def State.recorded (s : State) (g : CoreId) (id : Nat) (r : Run) (grain : Nat) : State :=
  ((s.modDie g.die (fun x => x.record g.die g r)).storeEvent none 0 (.mem r.pa 0 0) r.len).registered g id r grain

theorem regAck_mem_registered : .regAck g id r ∈ (s.registered g id r grain).net := mem_net_send (List.mem_singleton_self _)

theorem mem_owned_recorded : ⟨r.pa, r.len, g⟩ ∈ ((s.recorded g id r grain).die g.die).owned := by
  simp [State.recorded, State.registered, Die.record]

theorem register_records (msg : s.net[n]? = some (.reg g id r grain)) (order : s.inOrder n g r.pa = true)
    (room : s.accepts g.die r.pa = true) (ready : s.regNeeds g (s.pendDom g id) r grain = none) (home : visited g.die r.pa = false) :
    s.register' n = some (s.recorded g id r grain) := by
  simp [State.register', msg, order, room, ready, home, State.recorded, State.registered]

theorem register_visits (msg : s.net[n]? = some (.reg g id r grain)) (order : s.inOrder n g r.pa = true)
    (room : s.accepts g.die r.pa = true) (ready : s.regNeeds g (s.pendDom g id) r grain = none) (far : visited g.die r.pa = true)
    (ways : s.l2ways g.die (s.pendDom g id) ≠ 0) (all : (s.registerVisitor g (s.pendDom g id) r grain).2 = true) :
    s.register' n = some ((s.registerVisitor g (s.pendDom g id) r grain).1.recorded g id r grain) := by
  have pair : s.registerVisitor g (s.pendDom g id) r grain = ((s.registerVisitor g (s.pendDom g id) r grain).1, true) :=
    Prod.ext rfl all
  simp only [State.register', msg, order, room, ready, far, ways, Bool.not_true, Bool.or_self, Bool.false_eq_true, if_false]
  rw [pair]
  rfl

theorem register_through (msg : s.net[n]? = some (.reg g id r grain)) (order : s.inOrder n g r.pa = true)
    (room : s.accepts g.die r.pa = true) (ready : s.regNeeds g (s.pendDom g id) r grain = none) (far : visited g.die r.pa = true)
    (none : s.l2ways g.die (s.pendDom g id) = 0) :
    s.register' n = some ((s.registerThrough g (s.pendDom g id) r).registered g id r grain) := by
  simp [State.register', msg, order, room, ready, far, none, State.registered]

theorem regAcked_acks (msg : s.net[n]? = some (.regAck g id r)) : s.regAcked n = some ((s.dropMsg n).storeAck g id) := by
  simp only [State.regAcked, msg]

theorem recalled_answers (msg : s.net[n]? = some (.recall g r)) : ∃ u, s.recalled n = some u ∧ .dereg g r true ∈ u.net := by
  simp only [State.recalled, msg]
  exact ⟨_, rfl, mem_net_send (List.mem_append_right _ (List.mem_singleton_self _))⟩

/-- A FLUSH learns of its write-back; a write-back of no FLUSH ends there (R238). -/
def State.toldFlush (s : State) (g : CoreId) (flush : Option Nat) : State :=
  match flush with
  | some id => s.flushed g id
  | none => s

theorem wroteBack_performs {pa : Nat} {data : List Byte} {dereg back : Bool} {flush : Option Nat} {bad : List Nat}
    (msg : s.net[n]? = some (.writeBack g pa data dereg back flush bad))
    (order : (if back then s.inOrderBytes n g ⟨pa, data.length⟩ else s.inOrder n g pa) = true) (room : s.accepts g.die pa = true) :
    let u := ((s.dropMsg n).accepted g.die pa).levelWrite g.die pa data bad
    let v := if dereg then u.modDie g.die (fun d => { d with owned := ownedDrop d.owned g ⟨pa, data.length⟩ }) else u
    s.wroteBack n = some (v.toldFlush g flush) := by
  simp only [State.wroteBack, msg, order, room, Bool.not_true, Bool.or_self, Bool.false_eq_true, if_false]
  cases flush <;> rfl

theorem deregistered_drops {back : Bool} (msg : s.net[n]? = some (.dereg g r back))
    (order : (if back then s.inOrderBytes n g r else s.inOrder n g r.pa) = true) (room : s.accepts g.die r.pa = true) :
    s.deregistered n = some (((s.dropMsg n).accepted g.die r.pa).modDie g.die (fun d => { d with owned := ownedDrop d.owned g r })) := by
  simp only [State.deregistered, msg, order, room, Bool.not_true, Bool.or_self, Bool.false_eq_true, if_false]

end

/-! ## Between dies -/

section
variable {s : State} {n : Nat} {d : DieId} {dom : Dom} {q : Run}

/-- The home of a grain can answer a request for it: nothing of it is being answered, and its slice accepts. -/
def State.homeReady (s : State) (q : Run) : Prop := s.grainBusy q = false ∧ s.homeAccepts q = true

theorem serveRds_answers (msg : s.net[n]? = some (.rds d dom q)) (ready : s.homeReady q) :
    (((s.die d).grain q).isSome = true → s.serveRds n = some (((s.dropMsg n).atHome d q).dirTouch q)) ∧
    (((s.die d).grain q).isSome = false → s.l2ways d dom = 0 → s.serveRds n = some ((s.dropMsg n).atHome d q)) := by
  obtain ⟨idle, room⟩ := ready
  refine ⟨fun held => ?_, fun held none => ?_⟩
  · simp only [State.serveRds, msg, idle, room, held, Bool.not_true, Bool.or_self, Bool.false_eq_true, if_false, if_true]
  · simp only [State.serveRds, msg, idle, room, held, none, Bool.not_true, Bool.or_self, Bool.false_eq_true, if_false, if_true]

theorem serveRds_grants (msg : s.net[n]? = some (.rds d dom q)) (ready : s.homeReady q) (lacks : ((s.die d).grain q).isSome = false)
    (ways : s.l2ways d dom ≠ 0) (even : ((s.dropMsg n).atHome d q).oddGrain q = false) :
    let u := (s.dropMsg n).atHome d q
    (u.dirGet q = none → s.serveRds n = some (u.grantHome d dom q 0 false)) ∧
    (∀ e, u.dirGet q = some e → e.st = .s ∨ e.owner = none → s.serveRds n = some (u.grantHome d dom q e.dies true)) ∧
    ∀ e o, u.dirGet q = some e → e.st ≠ .s → e.owner = some o → s.serveRds n = some (u.send [.snoop o (.rds dom) d q]) := by
  obtain ⟨idle, room⟩ := ready
  intro u
  simp only [State.serveRds, msg, idle, room, lacks, ways, even, Bool.not_true, Bool.or_self, Bool.false_eq_true, if_false]
  refine ⟨fun empty => ?_, fun e found low => ?_, fun e o found high owner => ?_⟩
  · rw [empty]
  · rw [found]
    rcases e with ⟨pa, len, dies, host, owner, st⟩
    cases owner with
    | none => cases st <;> rfl
    | some o =>
      obtain rfl : st = .s := low.resolve_right nofun
      rfl
  · rw [found]
    rcases e with ⟨pa, len, dies, host, owner', st⟩
    obtain rfl : owner' = some o := owner
    cases st with
    | s => exact absurd rfl high
    | o => rfl
    | em => rfl

/-- An RDOWN that needs no grant: its die owns the grain already, or has no way of the L2 to hold it in. -/
theorem serveRdown_answers (msg : s.net[n]? = some (.rdown d dom q)) (ready : s.homeReady q) :
    ((s.die d).ownsGrain q = true → s.serveRdown n = some (((s.dropMsg n).atHome d q).dirTouch q)) ∧
    ((s.die d).ownsGrain q = false → s.l2ways d dom = 0 → s.serveRdown n = some ((s.dropMsg n).atHome d q)) := by
  obtain ⟨idle, room⟩ := ready
  refine ⟨fun held => ?_, fun held none => ?_⟩
  · simp only [State.serveRdown, msg, idle, room, held, Bool.not_true, Bool.or_self, Bool.false_eq_true, if_false, if_true]
  · simp only [State.serveRdown, msg, idle, room, held, none, Bool.not_true, Bool.or_self, Bool.false_eq_true, if_false, if_true]

section
variable (msg : s.net[n]? = some (.rdown d dom q)) (ready : s.homeReady q) (lacks : (s.die d).ownsGrain q = false)
  (ways : s.l2ways d dom ≠ 0) (even : s.oddGrain q = false)
include msg ready lacks ways even

theorem serveRdown_unheld (empty : s.dirGet q = none) :
    s.serveRdown n = some (((s.dropMsg n).atHome d q).grantHome d dom q 0 false) := by
  simp only [State.serveRdown, msg, ready.1, ready.2, lacks, ways, even, empty, Bool.not_true, Bool.or_self, Bool.false_eq_true, if_false]

theorem serveRdown_invalidates {e : DirEntry} (found : s.dirGet q = some e)
    (others : (diesOf e.dies).filter (fun h => h != d && some h != e.owner) ≠ []) :
    s.serveRdown n = some (s.send (((diesOf e.dies).filter (fun h => h != d && some h != e.owner)).map (fun h => Msg.inval h q))) := by
  simp only [State.serveRdown, msg, ready.1, ready.2, lacks, ways, even, found, Bool.not_true, Bool.or_self, Bool.false_eq_true, if_false]

theorem serveRdown_alone {e : DirEntry} (found : s.dirGet q = some e)
    (alone : (diesOf e.dies).filter (fun h => h != d && some h != e.owner) = []) :
    let u := (s.dropMsg n).atHome d q
    (e.owner = none → s.serveRdown n = some (u.grantHome d dom q 0 false)) ∧
    (e.owner = some d → s.serveRdown n = some ((u.visitorState d dom [q] .m).dirPut q (dieBit d) (some d) .em)) ∧
    ∀ o, o ≠ d → e.owner = some o → s.serveRdown n = some (u.send [.snoop o (.rdown dom) d q]) := by
  simp only [State.serveRdown, msg, ready.1, ready.2, lacks, ways, even, found, alone, Bool.not_true, Bool.or_self, Bool.false_eq_true,
    if_false]
  refine ⟨fun owner => ?_, fun owner => ?_, fun o other owner => ?_⟩ <;> rw [owner]
  · exact congrArg _ (if_pos rfl)
  · exact congrArg _ (if_neg other)

end

theorem serveRdna_reads {g : CoreId} {id : Nat} (msg : s.net[n]? = some (.rdna g id d q)) (ready : s.homeReady q)
    (unheld : ((s.dropMsg n).atHome d q).dirGet q = none) : s.serveRdna n = some (((s.dropMsg n).atHome d q).readGrain g id q) := by
  simp only [State.serveRdna, msg, ready.1, ready.2, unheld, Bool.not_true, Bool.or_self, Bool.false_eq_true, if_false]

/-- Where a forward is answered: it has crossed from the home to the owner, and from there to the die that asks. -/
theorem snooped_held {o : DieId} {why : SnoopWhy} (msg : s.net[n]? = some (.snoop o why d q))
    (held : (((((s.dropMsg n).crossed (dieOf q.pa) o).crossed o d).die o).grain q).isSome = true) :
    let u := ((s.dropMsg n).crossed (dieOf q.pa) o).crossed o d
    s.snooped n = some (match why with
      | .rds dom => if u.l2ways d dom = 0 then u else u.supply o d dom false q
      | .rdown dom => if u.l2ways d dom = 0 then u else u.supply o d dom true q
      | .rdna g id => u.readGrain g id q) := by
  simp only [State.snooped, msg, held, if_true]
  cases why <;> rfl

theorem invalidated_drops {h : DieId} (msg : s.net[n]? = some (.inval h q)) :
    s.invalidated n = some (((s.dropMsg n).crossed (dieOf q.pa) h).dropHolding h q) := by
  simp only [State.invalidated, msg]

theorem visitorEvict_drops {v : Visitor} (at_ : (s.die d).visitors[n]? = some v) :
    s.visitorEvict d n = some (s.dropHolding d ⟨v.pa, v.data.length⟩) := by
  simp only [State.visitorEvict, at_, Option.map_some]

end

/-! ## Coherence points and targets -/

section
variable {s : State} {n : Nat} {g : CoreId} {id : Nat} {p : Pend} {op : CpOp}

/-- An access that waits for nothing, and that its slices accept, is performed once it holds the grains it needs. -/
theorem pointGo_performs (evict : Bool) (free : s.pointWaits g p op = false) (room : s.pointAccepted n g p = true)
    (holds : s.pointNeeds g p op = ([], [])) :
    s.pointGo n g p op evict =
      ((((p.step.1.filterMap (s.elemSlice g p.dom)).eraseDups.foldl (fun (s : State) x => s.modDie x.1 (fun y => y.sliceCount x.2 0))
        (s.dropMsg n)).performPoint g p op evict).map (fun s => s.tryAll g)) := by
  simp only [State.pointGo, free, room, holds, Bool.not_true, Bool.or_self, Bool.false_eq_true, if_false]

theorem pointAnswer_point (msg : s.net[n]? = some (.cp g id)) (flies : (s.core g).pendOf id = some p) (kind : p.kind = .cp op) :
    s.pointAnswer n = s.pointGo n g p op false := by
  simp only [State.pointAnswer, msg, flies, kind]

theorem pointAnswer_through {pa : Nat} {data : List Byte} (msg : s.net[n]? = some (.through g id pa data))
    (order : s.inOrder n g pa = true) (room : s.accepts g.die pa = true) :
    s.pointAnswer n = some (((((s.dropMsg n).accepted g.die pa).unshadow g id ⟨pa, data.length⟩).storeFrom g.die (s.pendDom g id) pa
      data).storeAck g id) := by
  simp only [State.pointAnswer, msg, order, room, Bool.not_true, Bool.or_self, Bool.false_eq_true, if_false]

theorem resvEvict_point {u : State} (msg : s.net[n]? = some (.cp g id)) (flies : (s.core g).pendOf id = some p) (kind : p.kind = .cp .lr)
    (goes : s.pointGo n g p .lr true = some u) : s.resvEvict n = some u := by
  simp only [State.resvEvict, msg, flies, kind, goes, if_true]

/-- Its launch counts an access beyond the device no more (R344). -/
def State.ackRemote (s : State) (lid : Option Word) : State :=
  { s with launches := s.launches.map (fun l => if some l.lid = lid then { l with remote := l.remote - 1 } else l) }

/-- An access beyond the device that is acknowledged ends, if it is still under way (R224). -/
def State.endPoint (s : State) (g : CoreId) (id : Nat) : State :=
  match (s.core g).pendOf id with
  | some p => (s.finishPoint g p).tryAll g
  | none => s

theorem remoteAck_ends {lid : Option Word} (msg : s.net[n]? = some (.posted g id lid)) :
    s.remoteAck n = some (((s.dropMsg n).ackRemote lid).endPoint g id) := by
  simp only [State.remoteAck, msg]
  rfl

end

/-! ## Migration of a page -/

theorem migrate_begins {s : State} {d : Dom} {va : VA} {dst : Nat} {m : Migration} (page : s.migrationOf d va dst = some m)
    (new : ∀ x ∈ s.migrations, x.src ≠ m.src) :
    let u : State := { s with migrations := m :: s.migrations }
    s.migrate d va dst = some (if u.drained m then u.moveFrame m else u) := by
  have none : s.migrations.any (fun x => x.src == m.src) = false :=
    List.any_eq_false.mpr fun x mem => by simpa using new x mem
  simp only [State.migrate, page, none, Bool.false_eq_true, if_false]

/-! ## Pulls -/

section
variable {s : State} {n : Nat} {h : DieId} {p : Pull}

theorem execPullAttemptTimeout_early (at_ : s.pullAt n = some (h, p)) (early : s.time < p.since + 20000) :
    execPullAttemptTimeout n s = .next s := by
  simp only [execPullAttemptTimeout, State.pullTimeout, at_, early, if_true, Option.getD_none]

theorem pullTimeout_fails (at_ : s.pullAt n = some (h, p)) (late : p.since + 20000 ≤ s.time)
    (last : 3 ≤ ((s.pullWord h p.entry 3).extractLsb' 4 4).toNat) : s.pullTimeout n = some (s.pullFail h p) := by
  simp only [State.pullTimeout, at_, Nat.not_lt.mpr late, last, if_false, if_true]

/-- A pull that is made again begins its next attempt now (R365). -/
theorem pullTimeout_again (at_ : s.pullAt n = some (h, p)) (late : p.since + 20000 ≤ s.time)
    (more : ((s.pullWord h p.entry 3).extractLsb' 4 4).toNat < 3) :
    ∃ t, s.pullTimeout n = some t ∧ ∀ x ∈ (t.die h).pulls, x.dpa = p.dpa → x.since = s.time := by
  simp only [State.pullTimeout, at_, Nat.not_lt.mpr late, Nat.not_le.mpr more, if_false]
  refine ⟨_, rfl, fun x mem same => ?_⟩
  rw [die_modDie] at mem
  obtain ⟨q, -, rfl⟩ := List.mem_map.mp mem
  split at same <;> rename_i case
  · rw [if_pos case]
  · exact absurd same case

theorem pullDone_ends (at_ : s.pullAt n = some (h, p)) :
    ∃ u : State, s.pullDone n = some u.heldAll ∧ ∀ x ∈ (u.die h).pulls, x.dpa ≠ p.dpa := by
  simp only [State.pullDone, at_]
  refine ⟨_, rfl, fun x mem => ?_⟩
  rw [State.dropPull, die_modDie] at mem
  exact bne_iff_ne.mp (List.mem_filter.mp mem).2

end

end Sys2Proof.Machine

open Sys2Proof Sys2Proof.Machine

/-- Settles O53: each event's answer where it is its turn is the lemma of that event; the conditions are those that the model itself
asks. -/
theorem coherenceEvents : Obligations.CoherenceEvents := by
  refine ⟨fun s n => ⟨?fill, ?request, ?hbm, ?far, ?fwd, ?reg, ?ack, ?recalls, ?back, ?dereg, ?rds, ?rdown, ?rdna, ?snoop, ?inval, ?evict,
    ?point, ?through, ?posted, ?page⟩, fun s n h p at_ => ⟨?early, ?fails, ?again, ?done⟩⟩
  case fill => exact fun g dom pa data keep bad msg order => next_of_some (fillArrive_serves msg order)
  case request =>
    intro g dom r grain msg order room
    exact ⟨fun served => next_of_some (homeFill_serves msg order (accepts_eq_true room) served),
      fun lacks ways => next_of_some (homeFill_asks msg order (accepts_eq_true room) lacks ways)⟩
  case hbm => exact fun g dom r msg => next_of_some (hbmArrive_reads msg)
  case far => exact fun g dom r grain msg room served => next_of_some (hbmArrive_serves msg room served)
  case fwd => exact fun o g dom r msg => next_of_some (forwarded_supplies msg)
  case reg =>
    intro g id r grain msg order room dom ready
    refine ⟨fun holds => ?_, fun far none => ⟨_, next_of_some (register_through msg order room ready far none), regAck_mem_registered⟩⟩
    cases far : visited g.die r.pa with
    | false => exact ⟨_, next_of_some (register_records msg order room ready far), mem_owned_recorded, regAck_mem_registered⟩
    | true =>
      obtain ⟨ways, all⟩ := holds.resolve_left (by simp [far])
      exact ⟨_, next_of_some (register_visits msg order room ready far ways all), mem_owned_recorded, regAck_mem_registered⟩
  case ack => exact fun g id r msg => next_of_some (regAcked_acks msg)
  case recalls =>
    intro o r msg
    obtain ⟨u, goes, sent⟩ := recalled_answers msg
    exact ⟨u, next_of_some goes, sent⟩
  case back =>
    intro g pa data dereg back flush bad msg order room
    cases flush <;> exact next_of_some (wroteBack_performs msg order room)
  case dereg => exact fun g r back msg order room => next_of_some (deregistered_drops msg order room)
  case rds =>
    intro d dom q msg idle room
    obtain ⟨held, wayless⟩ := serveRds_answers msg ⟨idle, room⟩
    refine ⟨fun h => next_of_some (held h), fun h none => next_of_some (wayless h none), ?_, ?_, ?_⟩
    · exact fun ⟨lacks, ways, even⟩ empty => next_of_some ((serveRds_grants msg ⟨idle, room⟩ lacks ways even).1 empty)
    · exact fun e ⟨lacks, ways, even⟩ found low => next_of_some ((serveRds_grants msg ⟨idle, room⟩ lacks ways even).2.1 e found low)
    · exact fun e o ⟨lacks, ways, even⟩ found high owner =>
        next_of_some ((serveRds_grants msg ⟨idle, room⟩ lacks ways even).2.2 e o found high owner)
  case rdown =>
    intro d dom q msg idle room
    obtain ⟨held, wayless⟩ := serveRdown_answers msg ⟨idle, room⟩
    refine ⟨fun h => next_of_some (held h), fun h none => next_of_some (wayless h none), ?_, ?_⟩
    · exact fun ⟨lacks, ways, even⟩ empty => next_of_some (serveRdown_unheld msg ⟨idle, room⟩ lacks ways even empty)
    · intro e ⟨lacks, ways, even⟩ found others
      have alone := serveRdown_alone msg ⟨idle, room⟩ lacks ways even found
      exact ⟨fun some => next_of_some (serveRdown_invalidates msg ⟨idle, room⟩ lacks ways even found some),
        fun none owner => next_of_some ((alone none).1 owner), fun none owner => next_of_some ((alone none).2.1 owner),
        fun o none other owner => next_of_some ((alone none).2.2 o other owner)⟩
  case rdna => exact fun g id d q msg idle room unheld => next_of_some (serveRdna_reads msg ⟨idle, room⟩ unheld)
  case snoop =>
    intro o d q u held
    exact ⟨fun dom msg ways => next_of_some ((snooped_held msg held).trans (congrArg _ (if_neg ways))),
      fun dom msg ways => next_of_some ((snooped_held msg held).trans (congrArg _ (if_neg ways))),
      fun g id msg => next_of_some (snooped_held msg held)⟩
  case inval => exact fun h q msg => next_of_some (invalidated_drops msg)
  case evict => exact fun d v at_ => next_of_some (visitorEvict_drops at_)
  case point =>
    intro g id p op v msg flies kind free room holds u
    refine ⟨fun done => next_of_some ?_, ?_⟩
    · rw [pointAnswer_point msg flies kind, pointGo_performs false free room holds]
      exact congrArg _ done
    · rintro rfl done
      exact next_of_some (resvEvict_point msg flies kind ((pointGo_performs true free room holds).trans (congrArg _ done)))
  case through => exact fun g id pa data msg order room => next_of_some (pointAnswer_through msg order room)
  case posted => exact fun g id lid msg => next_of_some (remoteAck_ends msg)
  case page => exact fun d va dst m page new => next_of_some (migrate_begins page new)
  case early => exact fun early => execPullAttemptTimeout_early at_ early
  case fails => exact fun late last => next_of_some (pullTimeout_fails at_ late last)
  case again =>
    intro late more
    obtain ⟨t, goes, since⟩ := pullTimeout_again at_ late more
    exact ⟨t, next_of_some goes, since⟩
  case done =>
    obtain ⟨u, goes, gone⟩ := pullDone_ends at_
    exact ⟨u, next_of_some goes, gone⟩

end


section
/-! PROOFS. The events of control: counters, caches, host accesses and snoops, starts, flushes and halts, management, power, attestation and
errors (R180, R187, R188, R352 to R354, R360, R361, R363, R367 to R370, R374 to R378). -/

namespace Sys2Proof.Machine

/-! ## Counters and caches -/

section
variable (s : State) (g : CoreId)

@[simp] theorem core_modCore (f : Core → Core) : (s.modCore g f).core g = f (s.core g) := core_setCore ..

@[simp] theorem coreTally_l1 (c : Core) (d : Option Dom) (code : BitVec 16) (n : Nat) : (c.tally d code n).l1 = c.l1 := by
  unfold Core.tally
  split <;> rfl

@[simp] theorem coreTally_l1ctl (c : Core) (d : Option Dom) (code : BitVec 16) (n : Nat) : (c.tally d code n).l1ctl = c.l1ctl := by
  unfold Core.tally
  split <;> rfl

/-- What a core counts changes its counters only. -/
theorem tally_core (d : Option Dom) (code : BitVec 16) (n : Nat) :
    ((s.tally g d code n).core g).l1 = (s.core g).l1 ∧ ((s.tally g d code n).core g).l1ctl = (s.core g).l1ctl := by
  unfold State.tally
  split <;> simp

@[simp] theorem send_core (l : List Msg) : (s.send l).core g = s.core g := by
  unfold State.send
  split <;> rfl

/-- L1CTL.WBALL leaves no entry, and is cleared (R188). -/
theorem wball_empties (asked : (s.core g).l1ctl.getLsbD 0 = true) :
    ∃ u, s.wball g = some u ∧ (u.core g).l1 = [] ∧ (u.core g).l1ctl.getLsbD 0 = false := by
  simp only [State.wball, asked, if_true]
  refine ⟨_, rfl, ?_⟩
  refine List.foldlRecOn (motive := fun (u : State) => (u.core g).l1 = [] ∧ (u.core g).l1ctl.getLsbD 0 = false) _ _ ?_ ?_
  · simp
  · intro u clear e _
    split
    · obtain ⟨l1, l1ctl⟩ := tally_core u g (some e.dom) 0x0013 (granules e.run).length
      rwa [l1, l1ctl]
    · exact clear

/-- SFCTL1.FORCE leaves no holder of the die's memory, and is over (R187). -/
theorem force_ends (d : DieId) (busy : (s.die d).forceBusy = true) :
    ∃ u, s.force d = some u ∧ (u.die d).dir = [] ∧ (u.die d).forceBusy = false :=
  ⟨_, if_pos busy, by simp⟩

/-- A counter that has just been given an event has counted nothing (R369). -/
theorem evFresh_total (c : Core) (sel : Word) (cycle : Nat) :
    (c.evFresh sel cycle).sel = sel ∧
    (c.evFresh sel cycle).total + (if (c.evFresh sel cycle).counts 1 then BitVec.ofNat 64 cycle else 0) = 0 := by
  unfold Core.evFresh
  by_cases h : EvCtr.counts ⟨sel, 0, Vector.replicate 4 0⟩ 1 = true
  · rw [if_pos h]
    exact ⟨rfl, (congrArg _ (if_pos h)).trans (by simp)⟩
  · rw [if_neg h]
    exact ⟨rfl, (congrArg _ (if_neg h)).trans (by simp)⟩

theorem evselWrite_fresh (k : Fin 8) (w : Word) (code : eventCode (w.extractLsb' 0 16).toNat = true) :
    ∃ u, s.evselWrite g k w = some u ∧ (u.core g).ev[k].sel = w &&& 0x1FFFF ∧ (u.core g).evTotal k s.cycle = 0 := by
  obtain ⟨sel, total⟩ := evFresh_total (s.core g) (w &&& 0x1FFFF) s.cycle
  refine ⟨_, if_pos code, ?_, ?_⟩
  · simpa using sel
  · simpa [Core.evTotal] using total

theorem evcSet_total (k : Fin 8) (w : Word) : ((s.evcSet g k w).core g).evTotal k s.cycle = w := by
  simp only [State.evcSet, Core.evTotal, core_modCore, Fin.getElem_fin, Vector.getElem_set_self, EvCtr.counts]
  exact BitVec.sub_add_cancel ..

end

/-! ## Host accesses and snoops -/

section
variable {s : State} {node : BitVec 10} {pa : Nat}

theorem offsetOf_mem (low : pa < memEnd) : offsetOf pa = .mem pa := if_pos low

theorem hostAccess_reads {n : Nat} (low : pa < memEnd) (fits : pa + n ≤ memEnd) (may : reaches (s.node node) pa n = true)
    (sound : s.poisonedAt pa n = false) : s.hostAccess node pa (.read n) = s.answer node true (s.cohRead pa n) := by
  simp [State.hostAccess, offsetOf_mem low, reqStart, reqLen, may, Nat.not_lt.mpr fits, State.memAccess, sound]

theorem hostAccess_writes {data : List Byte} (low : pa < memEnd) (fits : pa + data.length ≤ memEnd)
    (may : reaches (s.node node) pa data.length = true) :
    s.hostAccess node pa (.write data) = (s.cohWrite pa data).answer node true [] := by
  simp [State.hostAccess, offsetOf_mem low, reqStart, reqLen, may, Nat.not_lt.mpr fits, State.memAccess]

/-- A host grain that no die holds is answered as not present, and as poison where a reset has lost it (R308, R360; log 63). -/
theorem snoopHost_absent (own : Bool) (host : isFabric pa = true) (unheld : s.hostGrain pa = none) :
    s.snoopHost pa own = { s with
      reports := .snoop pa false (s.lostGrains.any (fun x => decide (x.pa ≤ pa) && decide (pa < x.pa + x.len))) [] :: s.reports } := by
  simp [State.snoopHost, host, unheld]

end

/-! ## Starts -/

section
variable {s : State} {x : Starting}

/-- Only a warm start skips steps, each by its own condition (R368). -/
theorem skips_cold (cold : x.cold = true) (j : Nat) : x.skips j = false := by simp [Starting.skips, cold]

theorem skips_warm (warm : x.cold = false) : x.skips 3 = x.ctx.paramsOk ∧ x.skips 4 = x.ctx.linksUp ∧ x.skips 6 = x.ctx.eccRetained ∧
    x.skips 8 = true ∧ ∀ j, j ≠ 3 → j ≠ 4 → j ≠ 6 → j ≠ 8 → x.skips j = false := by
  refine ⟨?_, ?_, ?_, ?_, fun j three four six eight => ?_⟩
  · simp [Starting.skips, warm]
  · simp [Starting.skips, warm]
  · simp [Starting.skips, warm]
  · simp [Starting.skips, warm]
  · simp [Starting.skips, three, four, six, eight]

theorem warmStart_third {c : WarmCtx} (third : s.dev.warmFail = 3) : s.warmStart c = s.coldStart c.failedStep := if_pos third

theorem warmStart_resets {c : WarmCtx} (fewer : s.dev.warmFail ≠ 3) :
    let u := s.warmStart c
    u.dev = ⟨0, s.dev.warmFail, false⟩ ∧ u.starting = some ⟨false, { c with eccRetained := c.eccRetained && s.isFlushed }⟩ ∧ u.mem = s.mem ∧
      u.cores = State.reset.cores ∧ u.cycle = s.cycle ∧ u.time = s.time := by
  intro u
  rw [show u = _ from if_neg fewer]
  exact ⟨rfl, rfl, rfl, rfl, rfl, rfl⟩

theorem startEffect_keeps (k : Nat) : (s.startEffect k).mem = (if k = 6 then [] else s.mem) ∧ (s.startEffect k).starting = s.starting := by
  unfold State.startEffect
  split
  · exact ⟨rfl, rfl⟩
  · split <;> exact ⟨rfl, rfl⟩

theorem startNext_mem (k : Nat) : (s.startNext x k).mem = s.mem := by
  unfold State.startNext
  split <;> rfl

/-- The next step is the first one after the last that is not skipped. -/
theorem startNext_step {k j : Nat} (after : k < j) (below : j < 9) (kept : x.skips j = false)
    (first : ∀ m, k < m → m < j → x.skips m = true) :
    s.startNext x k = { s with dev := { s.dev with phase := BitVec.ofNat 8 j } } := by
  have next : (List.range 9).find? (fun j => decide (k < j) && !x.skips j) = some j := by
    refine List.find?_range_eq_some.mpr ⟨by simp [after, kept], List.mem_range.mpr below, fun m before => ?_⟩
    by_cases h : k < m
    · simp [first m h before]
    · simp [h]
  simp only [State.startNext, next]

theorem startNext_ready {k : Nat} (rest : ∀ j, k < j → j < 9 → x.skips j = true) :
    s.startNext x k = { s with dev := ⟨0x10, 0, x.cold⟩, starting := none } := by
  have next : (List.range 9).find? (fun j => decide (k < j) && !x.skips j) = none := by
    refine List.find?_range_eq_none.mpr fun j below => ?_
    by_cases h : k < j
    · simp [rest j h below]
    · simp [h]
  simp only [State.startNext, next]

/-- The step that PHASE names fails. -/
def stepFails (s : State) (x : Starting) : Prop := s.dev.phase.toNat ≠ 0 ∧ x.ctx.failedStep.map (fun j => j.val) = some s.dev.phase.toNat

theorem startStep_fails (under : s.starting = some x) (fails : stepFails s x) :
    s.startStep = { s with
      dev := { s.dev with phase := 0xFF, warmFail := if x.cold then 0 else s.dev.warmFail + 1 }, starting := none } := by
  simp only [State.startStep, under]
  exact if_pos fails

theorem startStep_goes (under : s.starting = some x) (goes : ¬ stepFails s x) :
    s.startStep = (s.startEffect s.dev.phase.toNat).startNext x s.dev.phase.toNat := by
  simp only [State.startStep, under]
  exact if_neg goes

end

/-! ## Management -/

section
variable (s : State)

theorem finOf_val {n : Nat} [NeZero n] (v : Fin n) : finOf n v.val = some v := dif_pos v.isLt

theorem execVfOffsetWrite_sets {vf : BitVec 7} {v : Fin 96} (same : vf.toNat = v.val) (time : Bool) (w : Word) :
    execVfOffsetWrite vf time w s = .next (s.vfOffset v time w) := by
  simp only [execVfOffsetWrite, same, finOf_val]

theorem nodePut_node (n : BitVec 10) (e : NodeEntry) (few : e.apertures.length ≤ 16) :
    (s.nodePut n e).node n = { e with refused := (s.node n).refused } := by
  simp [State.nodePut, State.setNode, State.node, List.take_of_length_le few]

/-- The cycle offset of each VF among the device registers (R352, R363). -/
theorem offsetOf_cycleOff (v : Fin 96) : offsetOf (0x1FD00002000 + 16 * v.val) = .cycleOff v := by
  have small := v.isLt
  have reg : 0x1FD00002000 + 16 * v.val - 0x1FD00000000 = 0x2000 + 16 * v.val := by omega
  have place : (0x2000 + 16 * v.val - 0x2000) / 16 = v.val := by omega
  rw [offsetOf, if_neg (by unfold memEnd; omega), if_neg (by omega), if_neg (by omega), if_neg (by omega), if_pos (by omega), reg, devRegister,
    if_neg (by omega), if_pos (by omega), if_pos (by omega), place, Fin.ofNat_val_eq_self]

end

/-! ## Power, attestation and errors -/

section
variable (s : State)

@[simp] theorem planOf_planPut (l : List (Nat × Int)) (v : Nat) (n : Int) : planOf (planPut l v n) v = n := by
  simp [planOf, planPut]

theorem execVoltageStep_up {vdom : Nat} (up : 0 < planOf s.voltPlan vdom) :
    execVoltageStep vdom s = .next { s with
      voltPlan := planPut s.voltPlan vdom (planOf s.voltPlan vdom - 1), volt := planPut s.volt vdom (planOf s.volt vdom + 1) } := by
  simp only [execVoltageStep, up, if_true, Int.one_ne_zero, if_false]

/-- The nonce follows the first word of a report (R377; log 7). -/
theorem execAttestationReport_nonce {vf : BitVec 7} {nonce : List Word} (vf_lt : vf.toNat < 96) (six : nonce.length = 6) :
    ∃ u l, execAttestationReport vf nonce s = .next u ∧ u.reports.head? = some (.attestation l) ∧ (l.drop 1).take 6 = nonce := by
  simp only [execAttestationReport, six, if_true, finOf, vf_lt, dif_pos]
  exact ⟨_, _, rfl, rfl, by simp [← six]⟩

/-- A sector marked as poisoned is poison for each of its bytes (R180). -/
theorem markPoison_poisonedAt (pa : Nat) : (s.markPoison [pa / 32]).poisonedAt pa 1 = true := by
  have sector : pa / 32 ∈ (s.markPoison [pa / 32]).poison := by
    by_cases h : pa / 32 ∈ s.poison <;> simp [State.markPoison, h]
  exact List.any_eq_true.mpr ⟨_, sector, by simp; omega⟩

theorem mem_l1DataError {g : CoreId} {pa : Nat} {x : L1Entry} (mem : x ∈ (s.core g).l1) (meets : x.run.meets ⟨pa / 32 * 32, 32⟩ = true) :
    x.spoil (fun j => j == pa % 4096 / 32) ∈ ((s.l1DataError g pa).core g).l1 := by
  rw [State.l1DataError, core_modCore]
  exact List.mem_map.mpr ⟨x, mem, if_pos meets⟩

end

end Sys2Proof.Machine

open Sys2Proof Sys2Proof.Machine

/-- Settles O57: the event of each clause answers what the lemma about its function says; a step of a start goes by `startStep_fails`, or by
`startStep_goes` with what `startNext` does next. -/
theorem controlEvents : Obligations.ControlEvents := by
  intro s g d node w k
  refine ⟨?wball, ?force, ?evsel, ⟨_, rfl, evcSet_total ..⟩, ?reads, ?writes, ?snoop, fun why => rfl, ?cold, ?warm, ?steps, ?skips, ?halt, ?gate,
    ?offsets, ?nodes, ?registers, rfl, ?volts, ?attest, rfl, ?error, ?coreError, ⟨_, rfl, rfl⟩⟩
  case wball =>
    intro asked
    obtain ⟨u, goes, empty⟩ := wball_empties s g asked
    exact ⟨u, next_of_some goes, empty⟩
  case force =>
    intro busy
    obtain ⟨u, goes, ended⟩ := force_ends s d busy
    exact ⟨u, next_of_some goes, ended⟩
  case evsel =>
    intro code
    obtain ⟨u, goes, fresh⟩ := evselWrite_fresh s g k w code
    exact ⟨u, next_of_some goes, fresh⟩
  case reads => exact fun pa n low fits may sound => congrArg Host.Outcome.next (hostAccess_reads low fits may sound)
  case writes => exact fun pa data low fits may => congrArg Host.Outcome.next (hostAccess_writes low fits may)
  case snoop => exact fun pa own host unheld => ⟨_, congrArg Host.Outcome.next (snoopHost_absent own host unheld), rfl⟩
  case cold => exact fun fails => ⟨_, rfl, rfl, rfl, rfl, rfl, rfl⟩
  case warm =>
    exact fun c => ⟨fun third => congrArg Host.Outcome.next (warmStart_third third), fun fewer => ⟨_, rfl, warmStart_resets fewer⟩⟩
  case steps =>
    intro x under k' u fails
    refine ⟨fun bad => ?_, fun good => ?_⟩
    · rw [show u = _ from startStep_fails under bad]
      exact ⟨rfl, rfl, rfl, fun warm => if_neg (ne_true_of_eq_false warm)⟩
    · obtain ⟨mem, starting⟩ := startEffect_keeps (s := s) k'
      rw [show u = _ from startStep_goes under good]
      refine ⟨(startNext_mem _).trans mem, fun j after below kept first => ?_, fun rest => ?_⟩
      · rw [startNext_step after below kept first]
        exact ⟨rfl, starting.trans under⟩
      · rw [startNext_ready rest]
        exact ⟨rfl, rfl, rfl, rfl⟩
  case skips => exact fun x j => ⟨fun cold => skips_cold cold j, fun warm =>
    have ⟨three, four, six, eight, others⟩ := skips_warm warm
    ⟨three, four, six, eight, others j⟩⟩
  case halt => exact fun flushed => congrArg Host.Outcome.next (if_pos flushed)
  case gate => exact fun _ ready => ⟨_, congrArg Host.Outcome.next (if_pos ready), congrArg Die.powered (die_modDie ..)⟩
  case offsets =>
    exact fun vf v same => ⟨⟨_, execVfOffsetWrite_sets s same false w, rfl⟩, ⟨_, execVfOffsetWrite_sets s same true w, rfl⟩⟩
  case nodes => exact fun e few => ⟨_, rfl, nodePut_node s node e few⟩
  case registers => exact fun v => ⟨s.vfOffset v false w, next_of_some (congrArg (s.regWrite · w) (offsetOf_cycleOff v)), rfl⟩
  case volts =>
    exact fun vdom steps => ⟨⟨_, rfl, planOf_planPut ..⟩, fun up => ⟨_, execVoltageStep_up s up, planOf_planPut .., planOf_planPut ..⟩⟩
  case attest => exact fun vf nonce vf_lt six => execAttestationReport_nonce s vf_lt six
  case error => exact fun pa => ⟨_, rfl, markPoison_poisonedAt _ pa, rfl⟩
  case coreError =>
    intro pa x mem meets
    refine ⟨_, rfl, ?_, rfl⟩
    exact (tally_core (s.l1DataError g pa) g none 0x00F0 1).1 ▸ mem_l1DataError s mem meets

end

section
/-! PROOFS. The barrier instructions, the count of arrivals, and when a phase has passed (R221, R299 to R303). -/

namespace Sys2Proof.Machine

/-! ## A barrier read back -/

theorem bar_setBar (s : State) (r : BarRef) (b : Bar) : (s.setBar r b).bar r = b := by
  cases r <;> simp [State.setBar, State.bar]

/-- A part of a die that a change keeps, where the die is the one changed. -/
theorem die_modDie_keeps {α : Type} (s : State) {d e : DieId} {f : Die → Die} (p : Die → α) (h : e = d → p (f (s.die d)) = p (s.die d)) :
    p ((s.modDie d f).die e) = p (s.die e) := by
  by_cases he : e = d
  · subst he
    exact (congrArg p (die_modDie ..)).trans (h rfl)
  · exact congrArg p (die_modDie_ne _ _ _ _ he)

theorem vector_set_fin_ne {α : Type} {n : Nat} (v : Vector α n) {i j : Fin n} (x : α) (h : j ≠ i) : (v.set i x)[j] = v[j] :=
  (vector_set_fin v i j x).trans (if_neg h)

/-- A write of one barrier leaves every other: of another unit, of another level, or of another number. -/
theorem bar_setBar_ne (s : State) {r r' : BarRef} (b : Bar) (h : r' ≠ r) : (s.setBar r b).bar r' = s.bar r' := by
  cases r <;> cases r'
  case quad.quad d q i d' q' i' =>
    refine die_modDie_keeps s (fun x => x.quadBar[q'][i']) fun hd => ?_
    by_cases hq : q' = q
    · have hi : i' ≠ i := fun hi => h (by rw [hd, hq, hi])
      subst hq
      exact (congrArg (fun v : Vector Bar 8 => v[i']) ((vector_set_fin ..).trans (if_pos rfl))).trans (vector_set_fin_ne _ _ hi)
    · exact congrArg (fun v : Vector Bar 8 => v[i']) (vector_set_fin_ne _ _ hq)
  case die.die d i d' i' =>
    exact die_modDie_keeps s (fun x => x.dieBar[i']) fun hd => vector_set_fin_ne _ _ fun hi => h (by rw [hd, hi])
  case quad.die d q i d' i' => exact die_modDie_keeps s (fun x => x.dieBar[i']) fun _ => rfl
  case die.quad d i d' q' i' => exact die_modDie_keeps s (fun x => x.quadBar[q'][i']) fun _ => rfl
  case pkg.pkg i i' => exact vector_set_fin_ne _ _ fun hi => h (congrArg _ hi)
  case pod.pod i i' => exact vector_set_fin_ne _ _ fun hi => h (congrArg _ hi)
  all_goals rfl

@[simp] theorem bar_wakePhase (s : State) (r r' : BarRef) : (s.wakePhase r).bar r' = s.bar r' := by
  unfold State.wakePhase
  split
  · rfl
  · cases r' <;> rfl

@[simp] theorem bar_reports (s : State) (l : List Report) (r : BarRef) : ({ s with reports := l } : State).bar r = s.bar r := by
  cases r <;> rfl

/-! ## When a phase has passed (R301) -/

theorem passed_behind (b : Bar) {n : Nat} (h : n < 2 ^ 32) : b.passed (b.phase - BitVec.ofNat 32 n) = true ↔ 1 ≤ n ∧ n < 2 ^ 31 := by
  have behind : (b.phase - (b.phase - BitVec.ofNat 32 n)).toNat = n := by
    rw [sub_sub_cancel, BitVec.toNat_ofNat, Nat.mod_eq_of_lt h]
  rw [Bar.passed, behind, Bool.and_eq_true, decide_eq_true_eq, decide_eq_true_eq]

/-! ## Arrivals (R300) -/

/-- A barrier after one more arrival: its phase is complete, or its count is higher. -/
def Bar.arrived (b : Bar) : Bar := if b.a + 1 = b.e then { b with a := 0, phase := b.phase + 1 } else { b with a := b.a + 1 }

theorem arrived_last {b : Bar} (h : b.a + 1 = b.e) : b.arrived = { b with a := 0, phase := b.phase + 1 } ∧ b.arrived.passed b.phase = true := by
  have new : b.arrived = { b with a := 0, phase := b.phase + 1 } := if_pos h
  have old : b.phase = b.arrived.phase - BitVec.ofNat 32 1 := by rw [new]; exact (BitVec.add_sub_cancel ..).symm
  exact ⟨new, by rw [old, passed_behind _ (by decide)]; decide⟩

theorem arrived_more {b : Bar} (h : b.a + 1 ≠ b.e) : b.arrived = { b with a := b.a + 1 } ∧ b.arrived.passed b.phase = false := by
  have new : b.arrived = { b with a := b.a + 1 } := if_neg h
  have same : b.phase = b.arrived.phase - BitVec.ofNat 32 0 := by rw [new]; exact (BitVec.sub_zero _).symm
  exact ⟨new, by rw [same, Bool.eq_false_iff, ne_eq, passed_behind _ (by decide)]; decide⟩

/-- The state after an arrival that this device counts: the last one of a phase wakes who waits for it. -/
def State.countArrival (s : State) (r : BarRef) : State :=
  if (s.bar r).a + 1 = (s.bar r).e then (s.setBar r { s.bar r with a := 0, phase := (s.bar r).phase + 1 }).wakePhase r
  else s.setBar r { s.bar r with a := (s.bar r).a + 1 }

theorem bar_countArrival (s : State) (r : BarRef) : (s.countArrival r).bar r = (s.bar r).arrived := by
  unfold State.countArrival Bar.arrived
  split
  · rw [bar_wakePhase, bar_setBar]
  · rw [bar_setBar]

theorem bar_countArrival_ne (s : State) {r r' : BarRef} (ne : r' ≠ r) : (s.countArrival r).bar r' = s.bar r' := by
  unfold State.countArrival
  split
  · rw [bar_wakePhase, bar_setBar_ne _ _ ne]
  · rw [bar_setBar_ne _ _ ne]

/-- An arrival that this device counts answers the barrier's phase; of a pod barrier it is reported as well (R300). -/
theorem barArrive_counted (s : State) {r : BarRef} (here : r.isPod = false ∨ Config.nodeNumber = 0) : (s.barArrive r).2 = (s.bar r).phase ∧
    ∀ r', (s.barArrive r).1.bar r' = (s.countArrival r).bar r' := by
  cases r with
  | pod i =>
    have first : Config.nodeNumber = 0 := here.resolve_left nofun
    have arrives : s.barArrive (.pod i) = ({ s.countArrival (.pod i) with
      reports := (if (s.bar (.pod i)).a + 1 = (s.bar (.pod i)).e then [.pod i (.passed ((s.bar (.pod i)).phase + 1))] else []) ++
        (s.countArrival (.pod i)).reports }, (s.bar (.pod i)).phase) := if_pos first
    rw [arrives]
    exact ⟨rfl, fun r' => bar_reports ..⟩
  | quad d q i => exact ⟨rfl, fun _ => rfl⟩
  | die d i => exact ⟨rfl, fun _ => rfl⟩
  | pkg i => exact ⟨rfl, fun _ => rfl⟩

/-! ## The instructions at their turn -/

variable {s s2 : State} {g : CoreId} {i : SlotId} {f : FmtS} {r : BarRef} {ph : BitVec 32}

/-- An instruction that names a barrier of its domain goes on with it (R299). -/
theorem withBar_owned {sl : Slot} {name : Word} (named : barOf g sl.task.teamBar name = some r) (owned : (s.bar r).owner = some sl.dom)
    (go : BarRef → State) : s.withBar g i sl name go = go r := by
  rw [State.withBar, named]
  exact if_neg (not_not_intro owned)

section
variable (named : barOf g (s.slot g i).task.teamBar ((s.slot g i).srcW f.sa) = some r) (owned : (s.bar r).owner = some (s.slot g i).dom)
include named owned

/-- BART writes whether the phase has passed, an acquire where it has (R221, R303). -/
theorem bart_turn (tn : turn s g i (specRegs [f.dst, f.sa, f.sb])) : execBart f s =
    .next (if (s.bar r).passed (((s.slot g i).srcW f.sb).setWidth 32) then ((s.putX g i f.dst 1).acquireDrop g).pcNext g i
      else (s.putX g i f.dst 0).pcNext g i) := by
  rw [execBart, runCore_turn tn, withBar_owned named owned]

section
variable (tn : turn s g i (specRegs [f.dst, f.sa]))
  (released : ((s.commit g i).core g).released (s.slot g i).task.act (s.slot g i).acq r.isPod = true)
  (calm : ((s.commit g i).core g).heldOf (s.slot g i).task.act = false) (arrives : (s.commit g i).barArrive r = (s2, ph))
include tn released calm arrives

omit named owned tn in
/-- An arrival that nothing holds back goes on from the state and with the phase that the barrier answers (R300). -/
theorem arriveAs_goes (dst : Spec) (go : State → BitVec 32 → State) :
    s.arriveAs g i (s.slot g i) dst r go = go (s2.putX g i dst (ph.setWidth 64)) ph := by
  rw [State.arriveAs]
  dsimp only
  rw [released, calm, arrives]
  rfl

theorem bara_turn : execBara f s = .next ((s2.putX g i f.dst (ph.setWidth 64)).pcNext g i) := by
  rw [execBara, runCore_turn tn, withBar_owned named owned, arriveAs_goes released calm arrives]

/-- BARW holds its slot at a quad's barrier until the phase has passed, and parks at a wider one (R302). -/
theorem barw_turn : execBarw f s =
    let t := s2.putX g i f.dst (ph.setWidth 64)
    .next (if r.isQuad then (if (t.bar r).passed ph then t.barGo g i else t.modSlot g i (fun x => { x with status := .barWait r ph }))
      else (t.pcNext g i).parkTask g i (.phase ((s.slot g i).srcW f.sa) r ph)) := by
  rw [execBarw, runCore_turn tn]
  dsimp only
  rw [withBar_owned named owned, arriveAs_goes released calm arrives]

end

end

/-- What an allocation whose checks pass does with the barrier found: it takes it, or writes all ones for none (R300). -/
def State.allocBar (s : State) (g : CoreId) (i : SlotId) (f : FmtS) : Option (BarRef × Nat) → State
  | none => (s.putX g i f.dst ones).pcNext g i
  | some (r, n) =>
    (((s.tellPod r (.alloc (s.slot g i).dom ((s.slot g i).srcW f.sb).toNat)).setBar r
      ⟨some (s.slot g i).dom, none, ((s.slot g i).srcW f.sb).toNat, 0, 0⟩).putX g i f.dst
        (BitVec.ofNat 64 ((((s.slot g i).srcW f.sa).extractLsb' 8 3).toNat * 256 + n))).pcNext g i

section
variable (tn : turn s g i (specRegs [f.dst, f.sa, f.sb])) (plain : ((s.slot g i).srcW f.sa).extractLsb' 11 53 = 0)
  (scope : 2 ≤ (((s.slot g i).srcW f.sa).extractLsb' 8 3).toNat ∧ (((s.slot g i).srcW f.sa).extractLsb' 8 3).toNat ≤ 5)
  (expects : 0 < ((s.slot g i).srcW f.sb).toNat ∧ ((s.slot g i).srcW f.sb).toNat < 2 ^ 20) (level : (s.slot g i).level ≠ 0)
  (pod : (((s.slot g i).srcW f.sa).extractLsb' 8 3).toNat = 5 → (s.slot g i).level = 2)
include tn plain scope expects level pod

theorem baraAlloc_turn :
    execBaraAlloc f s = .next (s.allocBar g i f (s.freeBarOf g (((s.slot g i).srcW f.sa).extractLsb' 8 3).toNat)) := by
  have legal : ¬ (((s.slot g i).srcW f.sa).extractLsb' 11 53 ≠ 0 || (((s.slot g i).srcW f.sa).extractLsb' 8 3).toNat < 2 ||
      5 < (((s.slot g i).srcW f.sa).extractLsb' 8 3).toNat || ((s.slot g i).srcW f.sb).toNat = 0 ||
      2 ^ 20 ≤ ((s.slot g i).srcW f.sb).toNat) = true := by
    obtain ⟨lo, hi⟩ := scope
    obtain ⟨pos, lt⟩ := expects
    simp only [Bool.or_eq_true, decide_eq_true_eq, plain, ne_eq, not_true_eq_false, false_or]
    omega
  have may : ¬ ((s.slot g i).isU || ((((s.slot g i).srcW f.sa).extractLsb' 8 3).toNat == 5 && (s.slot g i).level != 2)) = true := by
    rw [not_isU_of_level level]
    simpa using pod
  rw [execBaraAlloc, runCore_turn tn]
  exact congrArg _ ((if_neg legal).trans (if_neg may))

end

/-- A barrier of the domain that nothing uses becomes free again (R300). -/
theorem baraFree_turn (tn : turn s g i (specRegs [f.sa])) (plain : ((s.slot g i).srcW f.sa).extractLsb' 8 3 ≠ 6)
    (named : barOf g none ((s.slot g i).srcW f.sa) = some r) (owned : (s.bar r).owner = some (s.slot g i).dom)
    (single : (s.bar r).team = none) (unused : s.barUsed r = false) (level : (s.slot g i).level ≠ 0) :
    execBaraFree f s = .next (((s.tellPod r .free).setBar r Bar.free).pcNext g i) := by
  rw [execBaraFree, runCore_turn tn]
  dsimp only
  rw [if_neg plain, named]
  dsimp only
  rw [owned, single, unused, not_isU_of_level level, beq_self_eq_true]
  rfl

end Sys2Proof.Machine

open Sys2Proof Sys2Proof.Machine

/-- Settles O42: each instruction where its checks pass; an arrival by `barArrive_counted`, what has passed by `passed_behind`. -/
theorem barrierInstructions : Obligations.BarrierInstructions := by
  refine ⟨?_, fun s r here => ?_, fun b n h => passed_behind b h⟩
  · intro s s2 g i f r ph sl name u t
    refine ⟨fun tn named owned released calm arrives => ?_, fun tn named owned => bart_turn named owned tn, ?_, ?_⟩
    · have waits := barw_turn named owned tn released calm arrives
      exact ⟨bara_turn named owned tn released calm arrives,
        fun quad passed => waits.trans (congrArg _ ((if_pos quad).trans (if_pos passed))),
        fun quad unpassed => waits.trans (congrArg _ ((if_pos quad).trans (if_neg (ne_true_of_eq_false unpassed)))),
        fun wide => waits.trans (congrArg _ (if_neg (ne_true_of_eq_false wide)))⟩
    · intro e scope tn plain lo hi pos lt level pod
      have allocs := baraAlloc_turn tn plain ⟨lo, hi⟩ ⟨pos, lt⟩ level pod
      have answer := fun {x} (h : s.freeBarOf g scope = x) => allocs.trans (congrArg (fun x => Host.Outcome.next (s.allocBar g i f x)) h)
      exact ⟨fun full => answer full, fun n free => by cases r <;> exact answer free⟩
    · intro tn plain named owned single unused level told
      exact baraFree_turn tn plain named owned single unused level
  · obtain ⟨phase, counted⟩ := barArrive_counted s here
    refine ⟨phase, fun last => ?_, fun more => ?_, fun r' ne => (counted r').trans (bar_countArrival_ne s ne)⟩
    · rw [counted, bar_countArrival]
      exact arrived_last last
    · rw [counted, bar_countArrival]
      exact arrived_more more

end

section
/-! PROOFS. The scalar atomics on scratch at their instruction (R210, R215, R226, R244, R245). -/

namespace Sys2Proof.Machine

variable {s : State} {g : CoreId} {i : SlotId} {f : FmtM}

/-! ## The access of an atomic -/

theorem spots_atomOp (f : FmtM) (sl : Slot) (st : Bool) (a : Acc) : (atomOp f sl st a).spots = [⟨0, sl.memVa f 0⟩] := spots_word f sl st

/-- The operand of a scalar atomic: of the float type for AMOFADD. -/
def amoSrc (f : FmtM) (sl : Slot) (k : AmoKind) : Word := sl.src f.aux (if k = .fadd then floatTy (mSize f) else plainTy (mSize f))

/-- The old value that AMOCAS expects: that of its destination register. -/
def amoExpected (f : FmtM) (sl : Slot) : Word := sl.src f.data (plainTy (mSize f))

/-- A scalar atomic whose guard is 1 issues its one access (R244, R245). -/
theorem amo_issues (tn : turn s g i (mRegs f)) (on : (s.slot g i).guard f.pn f.pred = true) (k : AmoKind) :
    let sl := s.slot g i
    let m := atomOp f sl (f.data == .x 0) .both
    amoOp f s k = .next (s.issue g i m (.amo k (amoSrc f sl k) (amoExpected f sl)) (xDest f.data (f.len == 1)) (fun u late es =>
      u.goAmo g (.of late i sl) m (xDest f.data (f.len == 1)) k (amoSrc f sl k) (amoExpected f sl) es)) :=
  guardedM_on f (uses := []) tn on _

/-! ## On scratch, at its instruction -/

theorem lowBits_plainTy {sz : Nat} (h : sz ∈ [4, 8]) (w : Word) : lowBits (plainTy sz) w = BitVec.ofNat 64 (w.toNat % 2 ^ (8 * sz)) := by
  rcases List.mem_pair.mp h with rfl | rfl <;> rfl

theorem extLoad_word (sext : Bool) (w : Word) : extLoad 8 sext w = w := by
  cases sext
  · rw [extLoad_unsigned]
    exact BitVec.setWidth_eq ..
  · rw [extLoad_signed (by decide)]
    exact BitVec.signExtend_eq ..

theorem wrW_x (sl : Slot) (n : BitVec 5) (w : Word) : sl.wrW (.x n) w = sl.writeX n w := by
  have whole : extend .n64 w = w := by
    rw [extend_unsigned rfl]
    exact BitVec.setWidth_eq ..
  rw [Slot.wrW, Slot.wr, whole]

/-- The destination of an atomic takes the value extended by the form; x0 and no register take none (R73, R226). -/
theorem putLoad_xDest (sl : Slot) (d : Spec) (sext : Bool) (n : Nat) (w : Word) :
    sl.putLoad 8 (xDest d sext) [(0, extLoad n (xDest d sext).sext w)] = sl.wrW d (extLoad n sext w) := by
  cases d with
  | x r =>
    rw [wrW_x, xDest]
    split
    · next zero => rw [zero, writeX_zero, Slot.putLoad]
    · rw [LoadDest.sext, Slot.putLoad, extLoad_word]
  | c n => rfl
  | v n => rfl
  | lit n => rfl

/-- An atomic at its instruction ends: its result, what its acquire marks, the clean bytes of the L1 where it is wide, and its PC (R210, R215). -/
theorem endAtomic_now (sl : Slot) (ord : MOrd) (sc : Scope) (dest : LoadDest) (w : Word) : s.endAtomic g (.now i sl) ord sc true dest (some w) =
    let u := marked (s.modSlot g i (fun x => x.putLoad 8 dest [(0, w)])) g i ord sc
    (if sc.wide then u.acquireDrop g else u).pcNext g i := by
  rw [State.endAtomic]
  unfold marked
  cases ord.isAcq with
  | false => rfl
  | true =>
    dsimp only
    rw [if_pos rfl, State.acquireAt]
    cases sc <;> rfl

theorem poisonVia_scratch (sl : Slot) (n : Nat) (l : List Spot) : s.poisonVia g (.now i sl) n (scratchElems l) = (s, none) := by
  rw [State.poisonVia, poisonedTile_scratch, ite_self]

/-- Where no element meets poison, a place beyond the device that does not carry the operation is all that stops an atomic (R245, R247). -/
theorem badAtomic_clean {n : Nat} {es : List Elem} (clean : ∀ e ∈ es, ∀ pa mt gr, e.loc = .mem pa mt gr → s.poisonedAt pa n = false)
    (carried : Bool) : s.badAtomic n carried es = if !carried && es.any (fun e => e.loc.remote) then some (trapOf .atomunsup) else none := by
  unfold State.badAtomic
  rw [List.find?_eq_none.mpr]
  intro e he
  split
  · next pa mt gr loc => rw [clean e he pa mt gr loc]; exact Bool.false_ne_true
  · exact Bool.false_ne_true

theorem badAtomic_scratch (n : Nat) (carried : Bool) (l : List Spot) : s.badAtomic n carried (scratchElems l) = none := by
  have near : (scratchElems l).any (fun e => e.loc.remote) = false := by
    refine List.any_eq_false.mpr fun e he => ?_
    obtain ⟨off, loc⟩ := loc_scratchElems he
    rw [loc]
    exact Bool.false_ne_true
  rw [badAtomic_clean, near, Bool.and_false]
  · rfl
  · intro e he pa mt gr loc
    obtain ⟨off, here⟩ := loc_scratchElems he
    exact nomatch here.symm.trans loc

/-- What an atomic on scratch stores, if anything. -/
def State.amoStored (s : State) (g : CoreId) (d : Dom) (off n : Nat) (new : Option Word) : State :=
  match new with
  | some w => s.scratchWrite g d off (bytesOf n w.toNat)
  | none => s

theorem amoHere_scratch (d : Dom) (n : Nat) (k : AmoKind) (src expected : Word) (j : Nat) (va : VA) (off : Nat) :
    s.amoHere g d n k src expected ⟨j, va, .scratch off⟩ =
      (s.amoStored g d off n (amoNew k n (wordOf ((s.core g).scratchRead off n)) src expected), .ok (wordOf ((s.core g).scratchRead off n))) := by
  rw [State.amoHere]
  dsimp only
  cases amoNew k n (wordOf ((s.core g).scratchRead off n)) src expected <;> rfl

theorem goAmo_scratch (sl : Slot) (m : MemOp) (dest : LoadDest) (k : AmoKind) (src expected : Word) (x : Spot) :
    s.goAmo g (.now i sl) m dest k src expected (scratchElems [x]) =
      (s.amoStored g sl.dom x.off m.size (amoNew k m.size (wordOf ((s.core g).scratchRead x.off m.size)) src expected)).endAtomic g (.now i sl)
        m.ord m.scope true dest (some (extLoad m.size dest.sext (wordOf ((s.core g).scratchRead x.off m.size)))) := by
  rw [State.goAmo, poisonVia_scratch]
  dsimp only
  rw [badAtomic_scratch]
  show (match s.amoHere g sl.dom m.size k src expected ⟨x.j, x.va, .scratch x.off⟩ with
    | (s1, .error t) => s1.trapVia g (.now i sl) t
    | (s1, .ok old) => s1.endAtomic g (.now i sl) m.ord m.scope true dest (some (extLoad m.size dest.sext old))) = _
  rw [amoHere_scratch]

/-- The word of scratch that a scalar atomic of a slot finds. -/
def amoOld (s : State) (g : CoreId) (i : SlotId) (f : FmtM) : Word :=
  wordOf ((s.core g).scratchRead (((s.slot g i).memVa f 0).toNat - scratchBase) (mSize f))

/-- The state after a scalar atomic on scratch that stores `new`, or nothing. -/
def amoLeaves (s : State) (g : CoreId) (i : SlotId) (f : FmtM) (new : Option Word) : State :=
  let t0 := s.amoStored g (s.slot g i).dom (((s.slot g i).memVa f 0).toNat - scratchBase) (mSize f) new
  let t := marked (t0.putX g i f.data (extLoad (mSize f) (f.len == 1) (amoOld s g i f))) g i f.ord f.scope
  (if f.scope.wide then t.acquireDrop g else t).pcNext g i

/-- A scalar atomic on scratch: the old value goes to its destination, the new one to scratch (R244, R245). -/
theorem amoOp_here (tn : turn s g i (mRegs f)) (on : (s.slot g i).guard f.pn f.pred = true)
    (h : clearHere s g i (atomOp f (s.slot g i) (f.data == .x 0) .both)) (k : AmoKind) : amoOp f s k =
      .next (amoLeaves s g i f (amoNew k (mSize f) (amoOld s g i f) (amoSrc f (s.slot g i) k) (amoExpected f (s.slot g i)))) := by
  rw [amo_issues tn on, issue_here h, spots_atomOp]
  refine congrArg _ ((goAmo_scratch ..).trans ((endAtomic_now ..).trans ?_))
  simp only [putLoad_xDest]
  rfl

end Sys2Proof.Machine

open Sys2Proof Sys2Proof.Machine

/-- Settles O36: each atomic is `amoOp_here` for its kind; the sums are reduced to the size (`lowBits_plainTy`). -/
theorem atomicResults : Obligations.AtomicResults := by
  intro s g i f tn on sl sz va m size h off old b low int gives
  have here := amoOp_here tn on h
  have reduced := fun {e : Instr} {w : Word} (run : exec e s = .next (amoLeaves s g i f (some (lowBits (plainTy sz) w)))) =>
    run.trans (congrArg (fun x => Host.Outcome.next (amoLeaves s g i f (some x))) (lowBits_plainTy size w))
  exact ⟨reduced (e := .amoadd f) (here .add), reduced (e := .amoand f) (here .and), reduced (e := .amoor f) (here .or),
    reduced (e := .amoxor f) (here .xor), here .min, here .max, here .minn, here .maxn, here .swp, here .cas, here .fadd⟩

end

section
/-! PROOFS. Atomics, LR and SC in flight, and as one event at their coherence point (R208, R210, R232, R244 to R247). -/

namespace Sys2Proof.Machine

variable {s t : State} {g : CoreId} {i : SlotId} {f : FmtM} {m : MemOp} {x : Elem}

/-! ## One element in flight -/

theorem poisonedAt_clean (clean : s.poison = []) (pa n : Nat) : s.poisonedAt pa n = false := by
  rw [State.poisonedAt, clean]
  rfl

theorem poisonVia_clean (clean : s.poison = []) (v : Via) (n : Nat) (es : List Elem) : s.poisonVia g v n es = (s, none) := by
  rw [State.poisonVia, clean]
  rfl

theorem trapVia_of {sl : Slot} (tile : sl.tile = none) (late : Bool) (x : Trap) : t.trapVia g (.of late i sl) x = raise t g i x := by
  cases late with
  | true => rfl
  | false => exact congrArg (raise · g i x) (overVia_none tile)

/-- An element that is put off, or lies in memory, is performed in flight. -/
theorem goes_flying {late : Bool} (mem : late = false → inMem [x]) (sl : Slot) : ((Via.of late i sl).flies || !x.loc.near) = true := by
  cases late with
  | true => rfl
  | false =>
    obtain ⟨pa, mt, gr, loc⟩ := mem rfl x List.mem_cons_self
    rw [loc]
    rfl

/-- An access of one element that flies to its coherence point: counted for the launch where it is a store beyond the device (R205, R344). -/
def pointJoins (t : State) (g : CoreId) (i : SlotId) (sl : Slot) (m : MemOp) (op : CpOp) (d : LoadDest) (x : Elem) : State :=
  (onward (if m.isStore && x.loc.remote then t.remoteUp sl.task.tr else t) g i m (.cp op) [x] d).toPoint g t.nextPend

theorem flyPoint_of (late : Bool) (sl : Slot) (op : CpOp) (d : LoadDest) :
    t.flyPoint g (.of late i sl) m op d [x] = pointJoins t g i sl m op d x := by
  rw [State.flyPoint, flyVia_of, idVia_of, remoteVia_of, List.any_cons, List.any_nil, Bool.or_false]
  rfl

/-- What an atomic, LR or SC that flies comes to: ATOMUNSUP beyond the device where the operation is not carried there, and else an access in
flight (R245, R247). -/
def pointGoes (t : State) (g : CoreId) (i : SlotId) (sl : Slot) (m : MemOp) (op : CpOp) (d : LoadDest) (carried : Bool) (x : Elem) : State :=
  if x.loc.remote && !carried then raise t g i ⟨.atomunsup, 0, 0⟩ else pointJoins t g i sl m op d x

theorem badAtomic_one (clean : t.poison = []) (n : Nat) (carried : Bool) :
    t.badAtomic n carried [x] = if x.loc.remote && !carried then some (trapOf .atomunsup) else none := by
  rw [badAtomic_clean (fun _ _ _ _ _ _ => poisonedAt_clean clean _ _), List.any_cons, List.any_nil, Bool.or_false, Bool.and_comm]

/-! ## Atomics, LR and SC that fly -/

section
variable {late : Bool} {sl : Slot} (tile : sl.tile = none) (clean : t.poison = [])
include tile clean

/-- The trap of a place that does not carry the operation, or the flight: the common form of the three. -/
theorem atomic_goes {n : Nat} {carried : Bool} {op : CpOp} {d : LoadDest} {u : State} (h : u = t.flyPoint g (.of late i sl) m op d [x]) :
    (match t.badAtomic n carried [x] with
      | some r => t.trapVia g (.of late i sl) r
      | none => u) = pointGoes t g i sl m op d carried x := by
  rw [badAtomic_one clean, pointGoes]
  by_cases far : (x.loc.remote && !carried) = true
  · rw [if_pos far, if_pos far]
    exact trapVia_of tile late _
  · rw [if_neg far, if_neg far]
    exact h.trans (flyPoint_of ..)

variable (mem : late = false → inMem [x])
include mem

theorem goAmo_flies (d : LoadDest) (k : AmoKind) (src expected : Word) : t.goAmo g (.of late i sl) m d k src expected [x] =
    pointGoes t g i sl m (.amo k src expected) d (fabricCarries k m.size) x := by
  rw [State.goAmo, poisonVia_clean clean]
  exact atomic_goes tile clean (if_pos (goes_flying mem sl))

theorem goLr_flies (d : LoadDest) : t.goLr g (.of late i sl) i m d [x] = pointGoes t g i sl m .lr d false x := by
  rw [State.goLr, poisonVia_clean clean]
  exact atomic_goes tile clean (if_pos (goes_flying mem sl))

theorem goSc_flies (d : LoadDest) (val : Word) : t.goSc g (.of late i sl) i m d val [x] = pointGoes t g i sl m (.sc val) d false x := by
  rw [State.goSc, poisonVia_clean clean]
  exact atomic_goes tile clean (if_pos (goes_flying mem sl))

end

section
variable (tn : turn s g i (mRegs f)) (on : (s.slot g i).guard f.pn f.pred = true) (clean : t.poison = [])
include tn on clean

theorem amo_flies (k : AmoKind) (fl : flying s g i (atomOp f (s.slot g i) (f.data == .x 0) .both) t [x]) : amoOp f s k =
    .next (pointGoes t g i (s.slot g i) (atomOp f (s.slot g i) (f.data == .x 0) .both)
      (.amo k (amoSrc f (s.slot g i) k) (amoExpected f (s.slot g i))) (xDest f.data (f.len == 1)) (fabricCarries k (mSize f)) x) := by
  obtain ⟨late, clr, tile, mem⟩ := flying_cases fl
  rw [amo_issues tn on, issue_clearAs clr]
  exact congrArg _ (goAmo_flies tile clean mem ..)

variable (alone : (s.core g).resvBusy (s.slot g i).task.act = false)
include alone

theorem lr_flies (fl : flying s g i (atomOp f (s.slot g i) false .read) t [x]) : execLr f s =
    .next (pointGoes t g i (s.slot g i) (atomOp f (s.slot g i) false .read) .lr (xDest f.data (f.len == 1)) false x) := by
  obtain ⟨late, clr, tile, mem⟩ := flying_cases fl
  rw [execLr, guardedM_on f (uses := []) tn on]
  dsimp only
  rw [alone, if_neg Bool.false_ne_true, issue_clearAs clr, goLr_flies tile clean mem]

theorem sc_flies (fl : flying s g i (atomOp f (s.slot g i) false .write) t [x]) : execSc f s =
    .next (pointGoes t g i (s.slot g i) (atomOp f (s.slot g i) false .write) (.sc ((s.slot g i).src f.aux (plainTy (mSize f))))
      (xDest f.data false) false x) := by
  obtain ⟨late, clr, tile, mem⟩ := flying_cases fl
  rw [execSc, guardedM_on f (uses := []) tn on]
  dsimp only
  rw [alone, if_neg Bool.false_ne_true, issue_clearAs clr, goSc_flies tile clean mem]

end

/-- An instruction that goes to a coherence point, as the spec tells it: where its place carries it, and where not. -/
theorem pointGoes_leaves {e : Instr} {sl : Slot} {op : CpOp} {d : LoadDest} {carried : Bool}
    (run : exec e s = .next (pointGoes t g i sl m op d carried x)) :
    ((x.loc.remote && !carried) = false → exec e s = .next (pointJoins t g i sl m op d x)) ∧
    ((x.loc.remote && !carried) = true → exec e s = .next (raise t g i ⟨.atomunsup, 0, 0⟩)) :=
  ⟨fun near => run.trans (congrArg _ (if_neg (ne_true_of_eq_false near))), fun far => run.trans (congrArg _ (if_pos far))⟩

/-- The same of an operation that no place beyond the device carries (R247). -/
theorem pointGoes_uncarried {e : Instr} {sl : Slot} {op : CpOp} {d : LoadDest} (run : exec e s = .next (pointGoes t g i sl m op d false x)) :
    (x.loc.remote = false → exec e s = .next (pointJoins t g i sl m op d x)) ∧
    (x.loc.remote = true → exec e s = .next (raise t g i ⟨.atomunsup, 0, 0⟩)) := by
  have both := pointGoes_leaves run
  rwa [Bool.not_false, Bool.and_true] at both

/-! ## At the coherence point -/

/-- The home slice of a byte of memory, at which a reservation on it is held (R247). -/
def memHome (g : CoreId) (pa : Nat) : Option (DieId × Fin 16) := some (if isFabric pa then g.die else dieOf pa, homeSlice pa)

section
variable {p : Pend} {pa gr : Nat} {mt : BitVec 2} (loc : x.loc = .mem pa mt gr)
include loc

theorem step_mem (one : p.elems = [x]) : p.step = ([x], []) := by
  have mem : inMem [x] := fun e he => ⟨pa, mt, gr, List.mem_singleton.mp he ▸ loc⟩
  rw [Pend.step, one, splitTile_mem mem]
  rfl

theorem pointWaits_mem (one : p.elems = [x]) (ready : s.pointReady g p = true) (op : CpOp) : s.pointWaits g p op = false := by
  rw [State.pointWaits, ready, step_mem loc one, List.any_cons, List.any_nil, loc]
  simp [Loc.isTile]

/-- After an event on memory the core's own clean bytes of it go, and fills on their way do not hide it (R208). -/
theorem afterPoint_mem (d : Dom) (n : Nat) : s.afterPoint g d x n = (s.dropOwnClean g d ⟨pa, n⟩).hideFills g ⟨pa, n⟩ := by
  rw [State.afterPoint, loc]

theorem resvHome_mem (d : Dom) : s.resvHome g d x = (s, memHome g pa) := by
  rw [State.resvHome, loc]
  rfl

end

section
variable {pa gr n : Nat} {mt : BitVec 2} (device : mt ≠ 1)
include device

/-- A store at the coherence point of memory that is no host's goes to its home (R245). -/
theorem pointWrite_mem (die : DieId) (d : Dom) (w : Word) (own : Bool) :
    s.pointWrite die d (.mem pa mt gr) n w ((Loc.mem pa mt gr).needsOwn own) = s.cohWrite pa (bytesOf n w.toNat) := by
  have notHosted : (Loc.mem pa mt gr).needsOwn own = false := by
    rw [Loc.needsOwn, Loc.hosted, beq_eq_false_iff_ne.mpr device, Bool.and_false]
  rw [notHosted]
  rfl

/-- What an atomic at the coherence point stores, if anything. -/
def State.pointStored (s : State) (pa n : Nat) (new : Option Word) : State :=
  match new with
  | some w => s.cohWrite pa (bytesOf n w.toNat)
  | none => s

variable (loc : x.loc = .mem pa mt gr)
include loc

theorem amoPoint_mem (d : Dom) (k : AmoKind) (src expected : Word) : s.amoPoint g d n k src expected x =
    ((s.pointStored pa n (amoNew k n (wordOf (s.cohRead pa n)) src expected)).afterPoint g d x n, .ok (wordOf (s.cohRead pa n))) := by
  rw [State.amoPoint, loc]
  dsimp only
  cases amoNew k n (wordOf (s.cohRead pa n)) src expected with
  | none => rfl
  | some w =>
    dsimp only
    rw [pointWrite_mem device]
    rfl

end

theorem stepPoison_clean (clean : s.poison = []) (p : Pend) (op : CpOp) : s.stepPoison g p op = (s, none) := by
  rw [State.stepPoison, clean]
  rfl

/-! ## The slot of an access, and its reservation -/

theorem slotOf_congr {c c' : Core} (h : c'.slots = c.slots) (act : Nat) : c'.slotOf act = c.slotOf act := by
  unfold Core.slotOf
  rw [h]

theorem core_hideFills (r : Run) (h : CoreId) : (s.hideFills g r).core h = s.core h := by
  unfold State.hideFills
  split <;> rfl

theorem slots_dropOwnClean (d : Dom) (r : Run) : ((s.dropOwnClean g d r).core g).slots = (s.core g).slots := by
  unfold State.dropOwnClean
  dsimp only
  split
  · rfl
  · rw [send_core, core_setCore]

theorem slots_afterPoint (d : Dom) (n : Nat) : ((s.afterPoint g d x n).core g).slots = (s.core g).slots := by
  unfold State.afterPoint
  split
  · rw [core_hideFills, slots_dropOwnClean]
  · rfl

theorem cohRead_congr (h : ∀ a, t.cohByte a = s.cohByte a) : ∀ n pa, t.cohRead pa n = s.cohRead pa n
  | 0, _ => rfl
  | n + 1, pa => by rw [State.cohRead, State.cohRead, h, cohRead_congr h n]

theorem cohRead_dropReservation (i : SlotId) (pa n : Nat) : (s.dropReservation g i).cohRead pa n = s.cohRead pa n := by
  refine cohRead_congr (fun a => ?_) n pa
  unfold State.dropReservation
  split <;> rfl

theorem core_dropReservation (i : SlotId) (h : CoreId) : (s.dropReservation g i).core h = s.core h := by
  rw [State.core, dropReservation_cores]
  rfl

section
variable {p : Pend} (mine : (s.core g).slotOf p.act = some p.slot)
include mine

theorem pendSlot_mine : s.pendSlot g p = true := by
  rw [State.pendSlot, mine, beq_self_eq_true]

theorem pendSlot_afterPoint (i : SlotId) (d : Dom) (n : Nat) : ((s.dropReservation g i).afterPoint g d x n).pendSlot g p = true := by
  refine pendSlot_mine ?_
  rw [slotOf_congr (slots_afterPoint ..), core_dropReservation, mine]

end

/-! ## LR and SC at the coherence point -/

section
variable {p : Pend} {pa gr : Nat} {mt : BitVec 2} (loc : x.loc = .mem pa mt gr) (mine : (s.core g).slotOf p.act = some p.slot)
include loc mine

/-- LR at its coherence point reads, and reserves in place of the slot's earlier reservation (R246; log 74). -/
theorem lrTry_mem (room : (s.dropReservation g p.slot).resvFull (memHome g pa) = false) : s.lrTry g p x false =
    some ((((s.dropReservation g p.slot).afterPoint g p.dom x p.size).reserve g p.slot p.dom p.size x (memHome g pa)).finishPoint g
      { p with vals := [(0, wordOf (s.cohRead pa p.size))] }) := by
  have reads : (s.dropReservation g p.slot).lrPoint g p x (memHome g pa) =
      (((s.dropReservation g p.slot).afterPoint g p.dom x p.size).reserve g p.slot p.dom p.size x (memHome g pa),
        some (wordOf (s.cohRead pa p.size))) := by
    rw [State.lrPoint, loc]
    dsimp only
    rw [pendSlot_afterPoint mine, if_pos rfl, cohRead_dropReservation]
  rw [State.lrTry, resvHome_mem loc]
  dsimp only
  rw [pendSlot_mine mine, if_pos rfl, room, if_neg Bool.false_ne_true, if_neg Bool.false_ne_true, Option.map_some, reads]

theorem scPoint_fails (val : Word) (lost : s.reserved g p.slot p.dom p.size x = false) :
    s.scPoint g p val x = ((s.dropReservation g p.slot).afterPoint g p.dom x p.size, .ok 1) := by
  rw [State.scPoint, loc]
  dsimp only
  rw [pendSlot_mine mine, lost]
  rfl

theorem scPoint_stores (val : Word) (device : mt ≠ 1) (held : s.reserved g p.slot p.dom p.size x = true) : s.scPoint g p val x =
    (((s.dropReservation g p.slot).cohWrite pa (bytesOf p.size val.toNat)).afterPoint g p.dom x p.size, .ok 0) := by
  rw [State.scPoint, loc]
  dsimp only
  rw [pendSlot_mine mine, held, pointWrite_mem device]
  rfl

end

/-! ## What the coherence point answers -/

section
variable {p : Pend} {pa gr : Nat} {mt : BitVec 2} (clean : s.poison = []) (ready : s.pointReady g p = true) (one : p.elems = [x])
  (loc : x.loc = .mem pa mt gr)
include clean ready one loc

theorem performPoint_amo (k : AmoKind) (src expected : Word) (device : mt ≠ 1) : s.performPoint g p (.amo k src expected) false =
    some (((s.pointStored pa p.size (amoNew k p.size (wordOf (s.cohRead pa p.size)) src expected)).afterPoint g p.dom x p.size).posted g
      { p with vals := [(0, wordOf (s.cohRead pa p.size))] }) := by
  rw [State.performPoint, pointWaits_mem loc one ready, step_mem loc one, stepPoison_clean clean]
  dsimp only
  rw [if_neg Bool.false_ne_true, amoPoint_mem device loc]

theorem performPoint_lr : s.performPoint g p .lr false = s.lrTry g p x false := by
  rw [State.performPoint, pointWaits_mem loc one ready, step_mem loc one, stepPoison_clean clean]
  rfl

theorem performPoint_sc {val w : Word} (h : s.scPoint g p val x = (t, .ok w)) :
    s.performPoint g p (.sc val) false = some (t.finishPoint g { p with vals := [(0, w)] }) := by
  rw [State.performPoint, pointWaits_mem loc one ready, step_mem loc one, stepPoison_clean clean]
  dsimp only
  rw [if_neg Bool.false_ne_true, h]

end

end Sys2Proof.Machine

open Sys2Proof Sys2Proof.Machine

/-- Settles O37: an access that flies joins by `pointJoins`, or traps; at its coherence point each operation is one event on memory. -/
theorem atomicsInFlight : Obligations.AtomicsInFlight := by
  refine ⟨?_, ?_, ?_⟩
  · intro s t g i f x tn on clean sl sz m fl gives
    have joins := fun (e : Instr) (k : AmoKind) (run : exec e s = amoOp f s k) => pointGoes_leaves (run.trans (amo_flies tn on clean k fl))
    exact ⟨joins (.amoadd f) .add rfl, joins (.amoand f) .and rfl, joins (.amoor f) .or rfl, joins (.amoxor f) .xor rfl,
      joins (.amomin f) .min rfl, joins (.amomax f) .max rfl, joins (.amominn f) .minn rfl, joins (.amomaxn f) .maxn rfl,
      joins (.amoswp f) .swp rfl, joins (.amocas f) .cas rfl, joins (.amofadd f) .fadd rfl⟩
  · intro s t g i f x tn on clean sl gives alone
    exact ⟨fun fl => (pointGoes_uncarried (e := .lr f) (lr_flies tn on clean alone fl) :),
      fun fl => (pointGoes_uncarried (e := .sc f) (sc_flies tn on clean alone fl) :)⟩
  · intro s g p x pa mt gr clean ready one loc device old home mine stores after_ with_
    have after : ∀ u : State, u.afterPoint g p.dom x p.size = after_ u := fun u => afterPoint_mem loc p.dom p.size
    refine ⟨fun k src expected => ?_, fun own room => ?_, fun val own => ⟨fun held => ?_, fun lost => ?_⟩⟩
    · rw [performPoint_amo clean ready one loc k src expected device, after]
      rfl
    · rw [performPoint_lr clean ready one loc, lrTry_mem loc own room, after]
      rfl
    · rw [performPoint_sc clean ready one loc (scPoint_stores loc own val device held), after]
    · rw [performPoint_sc clean ready one loc (scPoint_fails loc own val lost), after]

end

section
/-! PROOFS. LR and SC on scratch at their instruction, and what places and ends a reservation (R246, R247). -/

namespace Sys2Proof.Machine

variable {s : State} {g : CoreId} {i : SlotId} {f : FmtM}

/-! ## Reservations -/

/-- The reservations that stay, where those outside `stays` are lost, if there are any. -/
theorem keep_resv (s : State) (stays : Reservation → Bool) :
    (if s.resv.isEmpty then s else { s with resv := s.resv.filter stays }).resv = s.resv.filter stays := by
  split
  · next none => rw [List.isEmpty_iff.mp none, List.filter_nil]
  · rfl

/-- The slot holds no reservation afterwards, and those of other slots stay (R246, R312). -/
theorem dropReservation_resv (s : State) (g : CoreId) (i : SlotId) :
    (s.dropReservation g i).resv = s.resv.filter (fun r => !(r.g == g && r.slot == i)) := keep_resv ..

/-- A reservation placed is held (R246). -/
theorem reserved_reserve (s : State) (g : CoreId) (i : SlotId) (d : Dom) (n : Nat) (x : Elem) (home : Option (DieId × Fin 16)) :
    (s.reserve g i d n x home).reserved g i d n x = true := by
  rw [State.reserved, State.reserve, List.any_append]
  simp

theorem reserved_dropReservation (s : State) (g : CoreId) (i : SlotId) (d : Dom) (n : Nat) (x : Elem) :
    (s.dropReservation g i).reserved g i d n x = false := by
  rw [State.reserved, dropReservation_resv]
  refine List.any_eq_false.mpr fun r hr => ?_
  have other : (r.g == g && r.slot == i) = false := (Bool.not_eq_true' _).mp (List.mem_filter.mp hr).2
  rw [other]
  exact Bool.false_ne_true

theorem wakes_resv : ∀ (hit : List Watch) (t : State), (hit.foldl (fun u x => u.wake x.cont) t).resv = t.resv
  | [], _ => rfl
  | _ :: hit, t => wakes_resv hit (t.wake _)

/-- A store event in a core's scratch ends the reservations of that core's slots on its bytes (R247). -/
theorem storeEvent_resv_scratch (s : State) (h : CoreId) (d : Dom) (a n : Nat) : (s.storeEvent (some h) d (.scratch a) n).resv =
    s.resv.filter (fun r => !(r.loc.meets r.size (.scratch a) n && some h == some r.g)) := by
  unfold State.storeEvent
  dsimp only
  split
  · exact keep_resv ..
  · exact (wakes_resv ..).trans (keep_resv ..)

/-- What is sought among the elements that stay, where the sought ones all stay or all go. -/
theorem any_filter_of_const {α : Type} {l : List α} {p q : α → Bool} {stays : Bool} (h : ∀ r, q r = true → p r = stays) :
    (l.filter p).any q = (l.any q && stays) := by
  rw [List.any_filter, Bool.and_comm, List.and_any_distrib_left]
  congr 1
  funext r
  cases hq : q r with
  | false => rw [Bool.and_false, Bool.and_false]
  | true => rw [h r hq]

/-- A store in scratch ends a reservation there exactly where it is in the same core and has a byte in common with it (R246, R247). -/
theorem reserved_scratchWrite (s : State) (g h : CoreId) (i : SlotId) (d d' : Dom) (n j off a : Nat) (va : VA) (bytes : List Byte) :
    (s.scratchWrite h d' a bytes).reserved g i d n ⟨j, va, .scratch off⟩ =
      (s.reserved g i d n ⟨j, va, .scratch off⟩ && !(g == h && decide (off < a + bytes.length) && decide (a < off + n))) := by
  rw [State.reserved, State.scratchWrite, storeEvent_resv_scratch, modCore_resv]
  refine any_filter_of_const fun r hr => ?_
  simp only [Bool.and_eq_true, beq_iff_eq] at hr
  obtain ⟨⟨⟨⟨⟨rfl, -⟩, -⟩, -⟩, rfl⟩, loc⟩ := hr
  rw [loc, Loc.meets, Option.some_beq_some, BEq.comm (a := h), Bool.and_comm, Bool.and_assoc]

/-! ## At their instruction -/

/-- What an LR leaves after its read: its result, its mark and its PC; no clean bytes go but by a wide acquire (R213, R215). -/
theorem endAtomic_keeps (sl : Slot) (ord : MOrd) (sc : Scope) (dest : LoadDest) (w : Word) : s.endAtomic g (.now i sl) ord sc false dest (some w) =
    let u := marked (s.modSlot g i (fun x => x.putLoad 8 dest [(0, w)])) g i ord sc
    (if ord.isAcq && sc.wide then u.acquireDrop g else u).pcNext g i := by
  rw [State.endAtomic]
  unfold marked
  cases ord.isAcq with
  | false => rfl
  | true =>
    dsimp only
    rw [if_pos rfl, State.acquireAt]
    cases sc <;> rfl

/-- The status of an SC goes to its destination as it is. -/
theorem putLoad_status (sl : Slot) (d : Spec) (w : Word) : sl.putLoad 8 (xDest d false) [(0, w)] = sl.wrW d w := by
  have extended := putLoad_xDest sl d false 8 w
  rwa [extLoad_word, extLoad_word] at extended

/-- An LR on scratch reserves there without a home slice (R246, R247). -/
theorem goLr_scratch (sl : Slot) (m : MemOp) (dest : LoadDest) (x : Spot) : s.goLr g (.now i sl) i m dest (scratchElems [x]) =
    (s.reserve g i sl.dom m.size ⟨x.j, x.va, .scratch (x.va.toNat - scratchBase)⟩ none).endAtomic g (.now i sl) m.ord m.scope false dest
      (some (extLoad m.size dest.sext (wordOf ((s.core g).scratchRead (x.va.toNat - scratchBase) m.size)))) := by
  rw [State.goLr, poisonVia_scratch]
  dsimp only
  rw [badAtomic_scratch]
  rfl

/-- What an SC does in scratch: it stores and gives 0 under its reservation, else it gives 1; the reservation ends either way (R246). -/
def scAnswer (s : State) (g : CoreId) (i : SlotId) (d : Dom) (n : Nat) (val : Word) (x : Spot) : State × Word :=
  if s.reserved g i d n ⟨x.j, x.va, .scratch (x.va.toNat - scratchBase)⟩ then
    ((s.dropReservation g i).scratchWrite g d (x.va.toNat - scratchBase) (bytesOf n val.toNat), 0)
  else (s.dropReservation g i, 1)

theorem scHere_scratch (d : Dom) (n : Nat) (val : Word) (x : Spot) : s.scHere g i d n val ⟨x.j, x.va, .scratch (x.va.toNat - scratchBase)⟩ =
    ((scAnswer s g i d n val x).1, .ok (scAnswer s g i d n val x).2) := by
  unfold State.scHere scAnswer
  dsimp only
  cases s.reserved g i d n ⟨x.j, x.va, .scratch (x.va.toNat - scratchBase)⟩ <;> rfl

theorem goSc_scratch {sl : Slot} {m : MemOp} {val w : Word} {x : Spot} {u : State} (answer : scAnswer s g i sl.dom m.size val x = (u, w))
    (dest : LoadDest) : s.goSc g (.now i sl) i m dest val (scratchElems [x]) = u.endAtomic g (.now i sl) m.ord m.scope true dest (some w) := by
  rw [State.goSc, poisonVia_scratch]
  dsimp only
  rw [badAtomic_scratch]
  show (match s.scHere g i sl.dom m.size val ⟨x.j, x.va, .scratch (x.va.toNat - scratchBase)⟩ with
    | (s1, .error t) => s1.trapVia g (.now i sl) t
    | (s1, .ok w) => s1.endAtomic g (.now i sl) m.ord m.scope true dest (some w)) = _
  rw [scHere_scratch, answer]

/-- The state after an LR on scratch. -/
def lrLeaves (s : State) (g : CoreId) (i : SlotId) (f : FmtM) : State :=
  let va := (s.slot g i).memVa f 0
  let u := marked ((s.reserve g i (s.slot g i).dom (mSize f) ⟨0, va, .scratch (va.toNat - scratchBase)⟩ none).putX g i f.data
    (extLoad (mSize f) (f.len == 1) (amoOld s g i f))) g i f.ord f.scope
  (if f.ord.isAcq && f.scope.wide then u.acquireDrop g else u).pcNext g i

/-- The state after an SC on scratch that has come to state `u` with status `w`. -/
def scLeaves (u : State) (g : CoreId) (i : SlotId) (f : FmtM) (w : Word) : State :=
  let r := marked (u.putX g i f.data w) g i f.ord f.scope
  (if f.scope.wide then r.acquireDrop g else r).pcNext g i

section
variable (tn : turn s g i (mRegs f)) (on : (s.slot g i).guard f.pn f.pred = true) (alone : (s.core g).resvBusy (s.slot g i).task.act = false)
include tn on alone

theorem lr_here (h : clearHere s g i (atomOp f (s.slot g i) false .read)) : execLr f s = .next (lrLeaves s g i f) := by
  rw [execLr, guardedM_on f (uses := []) tn on]
  dsimp only
  rw [alone, if_neg Bool.false_ne_true, issue_here h, spots_atomOp]
  refine congrArg _ ((goLr_scratch ..).trans ((endAtomic_keeps ..).trans ?_))
  simp only [putLoad_xDest]
  rfl

theorem sc_here (h : clearHere s g i (atomOp f (s.slot g i) false .write)) {u : State} {w : Word} (answer : scAnswer s g i (s.slot g i).dom
    (mSize f) ((s.slot g i).src f.aux (plainTy (mSize f))) ⟨0, (s.slot g i).memVa f 0⟩ = (u, w)) : execSc f s = .next (scLeaves u g i f w) := by
  rw [execSc, guardedM_on f (uses := []) tn on]
  dsimp only
  rw [alone, if_neg Bool.false_ne_true, issue_here h, spots_atomOp]
  refine congrArg _ ((goSc_scratch answer _).trans ((endAtomic_now ..).trans ?_))
  simp only [putLoad_status]
  rfl

end

end Sys2Proof.Machine

open Sys2Proof Sys2Proof.Machine

/-- Settles O38: LR and SC on scratch end at their instruction (`lr_here`, `sc_here`); a store ends a reservation by its event
(`reserved_scratchWrite`). -/
theorem loadReserveStoreConditional : Obligations.LoadReserveStoreConditional := by
  refine ⟨?_, fun s g h i d d' sz j va off a bytes home => ⟨reserved_reserve .., reserved_dropReservation .., reserved_scratchWrite ..⟩⟩
  intro s g i f tn on sl sz x ends alone
  exact ⟨fun h => lr_here tn on alone h, fun h => ⟨fun held => sc_here tn on alone h (if_pos held),
    fun lost => sc_here tn on alone h (if_neg (ne_true_of_eq_false lost))⟩⟩

end

section
/-! PROOFS. Vector atomics on scratch at their instruction, and in flight (R245, R249). -/

namespace Sys2Proof.Machine

variable {s t : State} {g : CoreId} {i : SlotId} {f : FmtM} {m : MemOp} {es : List Elem}

/-! ## The access -/

/-- The access of a vector atomic. -/
def vamoAccess (f : FmtM) (sl : Slot) : MemOp := { vecScatter f sl true (gatherVa f sl) with acc := .both }

/-- Element j of a vector atomic's source. -/
def vamoSrc (f : FmtM) (sl : Slot) (j : Nat) : Word := elemOf (sl.readV (vIndex f.data)) (mSize f) j

/-- A vector atomic issues its one access (R249). -/
theorem vamo_issues (tn : turn s g i (mRegs f)) (k : AmoKind) :
    let sl := s.slot g i
    let m := vamoAccess f sl
    vamoOp f s k = .next (s.issue g i m (.vamo k (m.spots.map (fun x => vamoSrc f sl x.j))) .discard
      (fun u late l => u.goVamo g (.of late i sl) m k (vamoSrc f sl) l)) :=
  runCore_turn tn _

/-! ## At its instruction -/

/-- At its instruction a vector atomic without tiles performs its elements in scratch, and what lies in memory flies (R249). -/
theorem goVamo_tileless {sl : Slot} {k : AmoKind} {src : Nat → Word} {u : State} (tile : sl.tile = none) (tileless : (splitTile es).2.1 = [])
    (clean : t.poisonVia g (.now i sl) m.size es = (t, none)) (carried : t.badAtomic m.size (fabricCarries k m.size) es = none)
    (near : t.vamoHere g sl.dom m.size k src (es.filter (fun e => e.loc.near)) = (u, none)) : t.goVamo g (.now i sl) m k src es =
      let far := es.filter (fun e => !e.loc.near)
      if far.isEmpty then u.pcNext g i else u.flyPoint g (.now i sl) m (.vamo (k == .fadd) (far.map (fun e => src e.j))) .discard far := by
  rw [State.goVamo, clean]
  dsimp only
  rw [carried, tileless]
  dsimp only
  rw [if_neg (by rw [State.tilesWait]; exact Bool.false_ne_true), near]
  dsimp only
  rw [overVia_none tile]
  rfl

/-! ## On scratch -/

/-- Each element in scratch takes a new value from its old one and its source, one after another. -/
def renewSpots (s : State) (g : CoreId) (d : Dom) (n : Nat) (new : Word → Word → Word) (src : Nat → Word) (l : List Spot) : State :=
  l.foldl (fun u x => u.scratchWrite g d (x.va.toNat - scratchBase)
    (bytesOf n (new (wordOf ((u.core g).scratchRead (x.va.toNat - scratchBase) n)) (src x.j)).toNat)) s

theorem near_scratchElems (l : List Spot) : ∀ e ∈ scratchElems l, e.loc.near = true := by
  intro e he
  obtain ⟨off, loc⟩ := loc_scratchElems he
  rw [loc]
  rfl

theorem vamoHere_scratch {k : AmoKind} {n : Nat} {new : Word → Word → Word} (renews : ∀ a b, amoNew k n a b 0 = some (new a b)) (d : Dom)
    (src : Nat → Word) : ∀ (l : List Spot) (s : State), s.vamoHere g d n k src (scratchElems l) = (renewSpots s g d n new src l, none)
  | [], _ => rfl
  | x :: l, s => by
    show s.vamoHere g d n k src (⟨x.j, x.va, .scratch (x.va.toNat - scratchBase)⟩ :: scratchElems l) = _
    rw [State.vamoHere, amoHere_scratch, renews]
    exact vamoHere_scratch renews d src l _

theorem goVamo_scratch {sl : Slot} {k : AmoKind} {new : Word → Word → Word} (tile : sl.tile = none)
    (renews : ∀ a b, amoNew k m.size a b 0 = some (new a b)) (src : Nat → Word) (l : List Spot) :
    s.goVamo g (.now i sl) m k src (scratchElems l) = (renewSpots s g sl.dom m.size new src l).pcNext g i := by
  have near : (scratchElems l).filter (fun e => e.loc.near) = scratchElems l := List.filter_eq_self.mpr (near_scratchElems l)
  have far : (scratchElems l).filter (fun e => !e.loc.near) = [] := List.filter_eq_nil_iff.mpr fun e he => by simp [near_scratchElems l e he]
  rw [goVamo_tileless tile (by rw [splitTile_scratch]) (poisonVia_scratch ..) (badAtomic_scratch ..)
    (by rw [near, vamoHere_scratch renews]), far]
  rfl

/-- A vector atomic on scratch: each element by what its kind makes of the old value and the source (R249). -/
theorem vamoOp_here {k : AmoKind} {new : Word → Word → Word} (tn : turn s g i (mRegs f)) (h : clearHere s g i (vamoAccess f (s.slot g i)))
    (renews : ∀ a b, amoNew k (mSize f) a b 0 = some (new a b)) : vamoOp f s k =
      .next ((renewSpots s g (s.slot g i).dom (mSize f) new (vamoSrc f (s.slot g i)) (vamoAccess f (s.slot g i)).spots).pcNext g i) := by
  rw [vamo_issues tn, issue_here h]
  exact congrArg _ (goVamo_scratch (m := vamoAccess f (s.slot g i)) h.1.1 renews ..)

/-! ## In flight -/

/-- Elements in memory are none of those that an instruction performs in scratch and tiles. -/
theorem far_inMem (mem : inMem es) : ∀ e ∈ es, e.loc.near = false := by
  intro e he
  obtain ⟨pa, mt, gr, loc⟩ := mem e he
  rw [loc]
  rfl

/-- A vector atomic that flies to its coherence points, counted for the launch where it reaches beyond the device (R205, R344). -/
def vamoJoins (t : State) (g : CoreId) (i : SlotId) (sl : Slot) (m : MemOp) (k : AmoKind) (src : Nat → Word) (es : List Elem) : State :=
  (onward (if m.isStore && es.any (fun e => e.loc.remote) then t.remoteUp sl.task.tr else t) g i m
    (.cp (.vamo (k == .fadd) (es.map (fun e => src e.j)))) es .discard).toPoint g t.nextPend

theorem vamoJoins_eq (late : Bool) (sl : Slot) (k : AmoKind) (src : Nat → Word) :
    t.flyPoint g (.of late i sl) m (.vamo (k == .fadd) (es.map (fun e => src e.j))) .discard es = vamoJoins t g i sl m k src es := by
  rw [State.flyPoint, flyVia_of, idVia_of, remoteVia_of]
  rfl

/-- What a vector atomic that flies comes to: ATOMUNSUP where an element lies beyond the device, which does not carry its kind (R245). -/
def vamoGoes (t : State) (g : CoreId) (i : SlotId) (sl : Slot) (m : MemOp) (k : AmoKind) (src : Nat → Word) (es : List Elem) : State :=
  if es.any (fun e => e.loc.remote) && !fabricCarries k m.size then raise t g i ⟨.atomunsup, 0, 0⟩ else vamoJoins t g i sl m k src es

section
variable {late : Bool} {sl : Slot} (tile : sl.tile = none) (clean : t.poison = []) (mem : late = false → inMem es) (ne : es ≠ [])
include tile clean mem ne

theorem goVamo_flies (k : AmoKind) (src : Nat → Word) : t.goVamo g (.of late i sl) m k src es = vamoGoes t g i sl m k src es := by
  have some : ¬ es.isEmpty = true := mt List.isEmpty_iff.mp ne
  have bad := badAtomic_clean (es := es) (fun _ _ _ _ _ _ => poisonedAt_clean clean _ m.size) (fabricCarries k m.size)
  rw [Bool.and_comm] at bad
  rw [vamoGoes]
  by_cases far : (es.any (fun e => e.loc.remote) && !fabricCarries k m.size) = true
  · rw [if_pos far, State.goVamo, poisonVia_clean clean]
    dsimp only
    rw [bad, if_pos far]
    exact trapVia_of tile late _
  · rw [if_neg far, ← vamoJoins_eq late]
    cases late with
    | true =>
      rw [State.goVamo, poisonVia_clean clean]
      dsimp only
      rw [bad, if_neg far]
      exact if_neg some
    | false =>
      have none : es.filter (fun e => e.loc.near) = [] := List.filter_eq_nil_iff.mpr fun e he => by simp [far_inMem (mem rfl) e he]
      have all : es.filter (fun e => !e.loc.near) = es := List.filter_eq_self.mpr fun e he => by simp [far_inMem (mem rfl) e he]
      have good : t.badAtomic m.size (fabricCarries k m.size) es = Option.none := by rw [bad, if_neg far]
      refine (goVamo_tileless (u := t) tile (by rw [splitTile_mem (mem rfl)]) (poisonVia_clean clean ..) good (by rw [none]; rfl)).trans ?_
      rw [all]
      exact if_neg some

end

theorem vamo_flies (tn : turn s g i (mRegs f)) (clean : t.poison = []) (ne : es ≠ []) (k : AmoKind)
    (fl : flying s g i (vamoAccess f (s.slot g i)) t es) : vamoOp f s k =
      .next (vamoGoes t g i (s.slot g i) (vamoAccess f (s.slot g i)) k (vamoSrc f (s.slot g i)) es) := by
  obtain ⟨late, clr, tile, mem⟩ := flying_cases fl
  rw [vamo_issues tn, issue_clearAs clr]
  exact congrArg _ (goVamo_flies tile clean mem ne k _)

/-- A vector atomic that flies, as the spec tells it: where its places carry it, and where not. -/
theorem vamoGoes_leaves {e : Instr} {sl : Slot} {k : AmoKind} {src : Nat → Word} (run : exec e s = .next (vamoGoes t g i sl m k src es)) :
    ((es.any (fun x => x.loc.remote) && !fabricCarries k m.size) = false → exec e s = .next (vamoJoins t g i sl m k src es)) ∧
    ((es.any (fun x => x.loc.remote) && !fabricCarries k m.size) = true → exec e s = .next (raise t g i ⟨.atomunsup, 0, 0⟩)) :=
  ⟨fun near => run.trans (congrArg _ (if_neg (ne_true_of_eq_false near))), fun far => run.trans (congrArg _ (if_pos far))⟩

/-- The sum of VAMOADD, reduced to the size of its elements (R244, R249). -/
def vamoSum (n : Nat) (a b : Word) : Word := BitVec.ofNat 64 ((a + b).toNat % 2 ^ (if n = 4 then 32 else 64))

theorem amoNew_add (n : Nat) (a b expected : Word) : amoNew .add n a b expected = some (vamoSum n a b) := by
  show some (lowBits (plainTy n) (a + b)) = _
  rw [lowBits, plainTy, vamoSum]
  split <;> rfl

/-- The sum of VAMOFADD, rounded to nearest. -/
def vamoFloatSum (n : Nat) (a b : Word) : Word := (addStd (floatTy n) .rne false a b).1

theorem amoNew_fadd (n : Nat) (a b expected : Word) : amoNew .fadd n a b expected = some (vamoFloatSum n a b) := rfl

end Sys2Proof.Machine

open Sys2Proof Sys2Proof.Machine

/-- Settles O39: on scratch each element takes its new value in turn (`vamoOp_here`); what flies joins by `vamoJoins`, or traps. -/
theorem vectorAtomics : Obligations.VectorAtomics := by
  intro s t g i f tn sl sz m src gives
  have both : ∀ {e : Instr} {k : AmoKind} (new : Word → Word → Word), exec e s = vamoOp f s k →
      (∀ a b, amoNew k sz a b 0 = some (new a b)) → gives e k new := fun new run renews =>
    ⟨fun h => run.trans (vamoOp_here tn h renews), fun es fl clean ne => vamoGoes_leaves (run.trans (vamo_flies tn clean ne _ fl))⟩
  exact ⟨both (e := .vamoadd f) (vamoSum sz) rfl fun a b => amoNew_add sz a b 0,
    both (e := .vamofadd f) (vamoFloatSum sz) rfl fun a b => amoNew_fadd sz a b 0⟩

end

section
/-! PROOFS. ENQ, ENQT and QSEQ (R101, R218, R254, R256). -/

namespace Sys2Proof.Machine

variable {s t : State} {g : CoreId} {i : SlotId} {f : FmtS} {tids : List (VA × Vector Word 8)} {c : Instr}

/-! ## ENQ and ENQT -/

/-- The tile command that an ENQ or ENQT of slot i names. -/
abbrev enqTcw (s : State) (g : CoreId) (i : SlotId) (f : FmtS) : Tcw := (s.slot g i).tcw f.sa

/-- The queue that an ENQ or ENQT names. -/
abbrev enqQueue (f : FmtS) : QueueId := Fin.ofNat 4 (f.imm.extractLsb' 0 2).toNat

/-- Every check of R101 passes for the ENQ or ENQT of a slot, in the order in which they are made: the fetch of its tensor entries gives `tids`
and leaves t, and the command is c. -/
structure EnqPasses (s t : State) (g : CoreId) (i : SlotId) (f : FmtS) (tids : List (VA × Vector Word 8)) (c : Instr) : Prop where
  queue : tcwQueue (enqTcw s g i f).op (enqQueue f) = true
  reserved : (enqTcw s g i f).w0.extractLsb' 48 6 = 0
  header : (enqTcw s g i f).hdr.ok = true
  fetched : s.tidFetchAll g i (tcwTids (enqTcw s g i f)) = (t, .ok tids)
  decoded : decodeTcw (enqTcw s g i f) = .ok c
  tensors : tensorsOk c tids = true
  notified : ((enqTcw s g i f).hdr.ntfy && !(t.dom (s.slot g i).dom).notify[enqQueue f].getLsbD 63) = false
  owned : t.domainFail g (s.slot g i).dom (enqTcw s g i f) (cmdRanges c tids) = none

/-- Where every check passes, only the room decides: with it the command joins its queue, without it ENQT says so and ENQ waits (R254). -/
theorem enqOp_passes (tn : turn s g i (specRegs [f.dst] ++ quadRegs f.sa)) (p : EnqPasses s t g i f tids c) (tries : Bool) :
    enqOp f s tries = .next (if (t.core g).enqFull (enqQueue f) (s.slot g i).cnt (cmdRanges c tids).length then
        (if tries then (t.putX g i f.dst 1).pcNext g i else t)
      else ((t.enqueue g i (enqQueue f) (enqTcw s g i f) (cmdRanges c tids) tids).putX g i f.dst
        (if tries then 0 else (s.slot g i).q[enqQueue f].seq + 1)).pcNext g i) := by
  obtain ⟨queue, reserved, header, fetched, decoded, tensors, notified, owned⟩ := p
  have legal : ¬ (!tcwQueue (enqTcw s g i f).op (enqQueue f) || (enqTcw s g i f).w0.extractLsb' 48 6 != 0 ||
      !(enqTcw s g i f).hdr.ok) = true := by
    rw [queue, reserved, header]
    decide
  rw [enqOp, runCore_turn tn]
  dsimp only
  rw [if_neg legal]
  simp only [fetched, decoded, tensors, notified, owned]
  rfl

/-- There is room: the command joins its queue. -/
theorem enqOp_room (tn : turn s g i (specRegs [f.dst] ++ quadRegs f.sa)) (p : EnqPasses s t g i f tids c)
    (room : (t.core g).enqFull (enqQueue f) (s.slot g i).cnt (cmdRanges c tids).length = false) (tries : Bool) :
    enqOp f s tries = .next (((t.enqueue g i (enqQueue f) (enqTcw s g i f) (cmdRanges c tids) tids).putX g i f.dst
      (if tries then 0 else (s.slot g i).q[enqQueue f].seq + 1)).pcNext g i) := by
  rw [enqOp_passes tn p, room, if_neg Bool.false_ne_true]

/-- There is no room: ENQT says so, and ENQ waits. -/
theorem enqOp_full (tn : turn s g i (specRegs [f.dst] ++ quadRegs f.sa)) (p : EnqPasses s t g i f tids c)
    (full : (t.core g).enqFull (enqQueue f) (s.slot g i).cnt (cmdRanges c tids).length = true) (tries : Bool) :
    enqOp f s tries = .next (if tries then (t.putX g i f.dst 1).pcNext g i else t) := by
  rw [enqOp_passes tn p, if_pos full]

/-! ## QSEQ -/

theorem execQseq_turn (tn : turn s g i (specRegs [f.dst])) : execQseq f s =
    .next ((if (s.slot g i).eng.getLsbD (qseqQueue f).val then (s.putX g i f.dst (s.slot g i).q[qseqQueue f].ret).acquireDrop g
      else s.putX g i f.dst (s.slot g i).q[qseqQueue f].ret).pcNext g i) := runCore_turn tn _

theorem execQseqErr_turn (tn : turn s g i (specRegs [f.dst])) : execQseqErr f s =
    .next ((s.putX g i f.dst ((s.slot g i).q[qseqQueue f].err.setWidth 64)).pcNext g i) := runCore_turn tn _

end Sys2Proof.Machine

open Sys2Proof Sys2Proof.Machine

/-- Settles O43: where the checks pass, room decides (`enqOp_room`, `enqOp_full`); QSEQ is `execQseq_turn` and `execQseqErr_turn`. -/
theorem enqueueAndQseq : Obligations.EnqueueAndQseq := by
  intro s s1 g i f sl q t
  refine ⟨?_, fun tn => ⟨execQseq_turn tn, execQseqErr_turn tn⟩⟩
  intro tids c tn queue reserved header fetched decoded tensors notified owned u
  have passes : EnqPasses s s1 g i f tids c := ⟨queue, reserved, header, fetched, decoded, tensors, notified, owned⟩
  exact ⟨fun room => ⟨enqOp_room tn passes room false, enqOp_room tn passes room true⟩,
    fun full => ⟨enqOp_full tn passes full false, enqOp_full tn passes full true⟩⟩

end

section
/-! PROOFS. Tile commands whose work is done (R258, R266 to R281). -/

namespace Sys2Proof.Machine

variable {s s1 s2 s3 t : State} {g : CoreId} {q : QueueId} {m : Cmd} {k n : Nat} {b : List Byte}

/-! ## The copy queue -/

section
variable (tn : engineTurn s g q m)
include tn

theorem execCopy_done {c : CopyCmd} (run : s.copyRun g q m c.src.toNat c.dst.toNat c.len.toNat m.progress m.buf = (t, k, b, .done)) :
    execCopy c s = .next (t.cmdOut g q m (fun x => { x with progress := k, buf := b }) .done 0) := by
  simp only [execCopy, runCmd_turn tn, run]

theorem execCopy2_done {c : Copy2Cmd} (run : s.copyRows g q m c (c.rows.toNat + 1 - m.progress / (c.rb.toNat + 1))
      (m.progress % (c.rb.toNat + 1)) m.buf = (t, k, b, .done)) :
    execCopy2 c s = .next (t.cmdOut g q m (fun x => { x with progress := k, buf := b }) .done 0) := by
  simp only [execCopy2, runCmd_turn tn, run]

theorem execFill_done {c : FillCmd} (run : s.engWriteRun g q m (s.pieceCap 1) (c.dst.toNat + m.progress) (s.turnFuel c.len.toNat)
      (fillBytes c.pat m.progress (c.len.toNat - m.progress)) = (t, k, .done)) :
    execFill c s = .next (t.cmdOut g q m (fun x => { x with progress := m.progress + k }) .done 0) := by
  simp only [execFill, runCmd_turn tn, run]

/-- Only an XCOPY that has done nothing yet checks its extents, and the checks pass (R272). -/
theorem execXcopy_done {mirror : Bool} {c : CopyCmd} (fresh : m.progress = 0 ∧ m.buf = [] → s.xcopyCheck g q m mirror c = (s1, .done))
    (begun : m.progress ≠ 0 ∨ m.buf ≠ [] → s1 = s)
    (run : s1.xcopyGo g q m mirror c (s.turnFuel c.len.toNat) m.progress m.count m.buf = (t, k, n, b, .done)) :
    execXcopy mirror c s =
      .next (t.cmdOut g q m (fun x => { x with progress := k, count := n, buf := b }) .done (BitVec.ofNat 64 n)) := by
  have checked : (if m.progress = 0 && m.buf.isEmpty then s.xcopyCheck g q m mirror c else (s, .done)) = (s1, EngOut.done) := by
    by_cases start : m.progress = 0 ∧ m.buf = []
    · rw [if_pos (by simp [start]), fresh start]
    · rw [if_neg (by simpa using start), begun (not_and_or.mp start)]
  simp only [execXcopy, runCmd_turn tn, checked, run]

theorem execAccum_done {c : AccumCmd} (run : s.accumPieces g q m c (s.turnFuel c.len.toNat) m.progress m.buf = (t, k, b, .done)) :
    execAccum c s = .next (t.cmdOut g q m (fun x => { x with progress := k, buf := b }) .done 0) := by
  simp only [execAccum, runCmd_turn tn, run]

/-- An ordered ACCUM has sent its contributions, and waits for their homes (R271). -/
theorem execAccumOrdered_sent {c : AccumCmd} (run : s.sendContribs g q m c (s.turnFuel c.len.toNat) m.sent m.buf = (t, k, b, .done)) :
    execAccumOrdered c s = .next ((t.modCmd g q m.pos (fun x => { x with sent := k, buf := [], st := .issued })).accumDone g q m.pos) := by
  simp only [execAccumOrdered, runCmd_turn tn, run]

end

/-! ## The matrix queue -/

/-- The regions of the operands are checked before the first K-block only (R275). -/
theorem mmaRun_done {c : MmaCmd} {x y : MOperand}
    (first : m.progress = 0 → s.operandOk g m x.t (x.pages (c.kb.toNat + 1)) = (s1, .done) ∧
      s1.operandOk g m y.t (y.pages (c.kb.toNat + 1)) = (s2, .done))
    (later : m.progress ≠ 0 → s2 = s)
    (blocks : s2.mmaBlocks g q m c x y (c.kb.toNat + 1) (c.kb.toNat + 1 - m.progress) m.count m.buf = (s3, k, n, b, .done))
    (skips : s3.mmaSkips g q m c.skva.toNat n = (t, .done)) : s.mmaRun g q m c x y =
      t.cmdOut g q m (fun z => { z with progress := k, count := n, buf := [] }) .done (BitVec.ofNat 64 n) := by
  by_cases zero : m.progress = 0
  · obtain ⟨okX, okY⟩ := first zero
    simp only [State.mmaRun, if_pos zero, okX, okY, blocks, skips]
  · obtain rfl := later zero
    simp only [State.mmaRun, if_neg zero, blocks, skips]

/-- Accumulator element k of an MLDA that has read the bytes of its block (R277). -/
def mldaElem (c : MldaCmd) (x : Tid) (bytes : List Byte) (k : Nat) : BitVec 32 :=
  ((roundStd .f32 .rne false (x.value (x.code ⟨c.row.toNat, 64, c.col.toNat, 64⟩ bytes (spotOf c.tr k).1 (spotOf c.tr k).2))).1).setWidth 32

/-- The code that an MSTA stores for the element in row n and column k of its block (R277). -/
def mstaCode (s : State) (g : CoreId) (m : Cmd) (c : MstaCmd) (x : Tid) (n k : Nat) : Nat :=
  x.encode (resolveMode c.mode m.frm) c.sat
    (accGet (s.core g).acc (accIndex c.acc.toNat (if c.tr then k else n) (if c.tr then n else k)))

section
variable (tn : engineTurn s g q m)
include tn

theorem execMma_two {c : MmaCmd} {x y : Tid} (two : m.tensors = [x, y]) : execMma c s =
    .next (s.mmaRun g q m c ⟨x, c.arow.toNat, c.acol.toNat, c.ta⟩ ⟨y, c.brow.toNat, c.bcol.toNat, !c.tb⟩) := by
  simp only [execMma, runCmd_turn tn, two]

theorem execMlda_done {c : MldaCmd} {x : Tid} (one : m.tensors = [x])
    (run : s.readBlock g q m x ⟨c.row.toNat, 64, c.col.toNat, 64⟩ m.progress = (t, b, .done)) : execMlda c s =
      .next ((t.modCore g (fun y => { y with acc := accPut y.acc c.acc.toNat (mldaElem c x (m.buf ++ b)) })).cmdOut g q m
        (fun y => { y with progress := x.blockLen ⟨c.row.toNat, 64, c.col.toNat, 64⟩, buf := [] }) .done 0) := by
  simp only [execMlda, runCmd_turn tn, one, run]
  rfl

theorem execMsta_done {c : MstaCmd} {x : Tid} (one : m.tensors = [x])
    (rows : s.writeRows g q m x ⟨c.row.toNat, 64, c.col.toNat, 64⟩ (mstaCode s g m c x)
      (64 - m.progress / x.span ⟨c.row.toNat, 64, c.col.toNat, 64⟩) (m.progress % x.span ⟨c.row.toNat, 64, c.col.toNat, 64⟩) = (s1, k, .done))
    (stats : s1.mstaStats g q m c.acc.toNat = (t, .done)) : execMsta c s =
      .next ((if c.clr then t.modCore g (fun y => { y with acc := accPut y.acc c.acc.toNat (fun _ => 0) }) else t).cmdOut g q m
        (fun y => { y with progress := k }) .done 0) := by
  unfold mstaCode at rows
  simp only [execMsta, runCmd_turn tn, one, rows, stats]

theorem execMzero_done (c : MzeroCmd) : execMzero c s =
    .next ((s.modCore g (fun x => { x with acc := x.acc.filter (fun e => !c.mask.getLsbD (e.1 / 4096)) })).cmdOut g q m id .done 0) :=
  runCmd_turn tn _

theorem execMsave_done {c : MsaveCmd} (run : s.engWriteRun g q m (s.pieceCap 4) (c.va.toNat + m.progress) (s.turnFuel 16384)
      ((accBytes (s.core g).acc c.acc.toNat).drop m.progress) = (t, k, .done)) :
    execMsave c s = .next (t.cmdOut g q m (fun x => { x with progress := m.progress + k }) .done 0) := by
  simp only [execMsave, runCmd_turn tn, run]

theorem execMrstr_done {c : MsaveCmd} (run : s.readSome g q m (fun _ => true) 4 (c.va.toNat + m.progress) (s.turnFuel 16384)
      (16384 - m.progress) = (t, b, .done)) : execMrstr c s =
      .next ((t.modCore g (fun x => { x with acc := accOfBytes x.acc c.acc.toNat (m.buf ++ b) })).cmdOut g q m
        (fun x => { x with progress := 16384, buf := [] }) .done 0) := by
  simp only [execMrstr, runCmd_turn tn, run]

/-! ## The gather queue -/

/-- GATHER and both forms of SCATTER, which move one row for each entry (R279). -/
theorem gatherOp_done {c : GatherCmd} {x : EntryAt} (move : CoreId → QueueId → Cmd → State → Nat → Nat → Nat → State × Nat × EngOut)
    (rows : s.entries g q m c (move g q m) (c.count.toNat + 1 - m.progress) m.count
      (if m.buf.isEmpty then none else some (numOf m.buf)) = (t, x, .done)) : gatherOp c s move =
      .next (t.cmdOut g q m (fun y => { y with progress := x.done, count := x.off, buf := x.row.elim [] (bytesOf 8) }) .done 0) := by
  rw [gatherOp, runCmd_turn tn]
  dsimp only
  rw [rows]
  cases row : x.row with
  | none => rfl
  | some k => rfl

theorem execGsum_done {c : GatherCmd} {x : SumAt}
    (run : s.sums g q m c (c.count.toNat + 1 - m.progress) ⟨m.progress, m.count, sumRunOf (gRow c) m.buf⟩ = (t, x, .done))
    (closed : x.run = none) : execGsum c s =
      .next (t.cmdOut g q m (fun y => { y with progress := x.done, count := x.segs, buf := [] }) .done (BitVec.ofNat 64 x.segs)) := by
  simp only [execGsum, runCmd_turn tn, run, closed]

/-! ## DISPATCH and SIGNAL -/

theorem execDispatch_issued (c : DispatchCmd) : execDispatch c s = .next (s.modCmd g q m.pos (fun x => { x with st := .issued })) :=
  runCmd_turn tn _

/-- A SIGNAL with no earlier command left in its queue (R281). -/
theorem execSignal_done (h : Hdr) (first : (s.core g).queues[q].takeWhile (fun x => x.pos != m.pos) = []) :
    execSignal h s = .next (s.cmdOut g q m id .done 0) := by
  rw [execSignal, runCmd_turn tn]
  dsimp only
  rw [first]
  rfl

end

end Sys2Proof.Machine

open Sys2Proof Sys2Proof.Machine

/-- Settles O51: each command's own lemma gives the state that `State.cmdOut` leaves for `done`, which is the command marked as done with its
progress. -/
theorem commandsComplete : Obligations.CommandsComplete := by
  intro s g q m tn ends upTo kept
  refine ⟨?copy, ?copy2, ?fill, ?xcopy, ?accum, ?accumOrdered, ?mma, ?mlda, ?msta, ?mzero, ?msave, ?mrstr, ?gathers, ?gsum, ?dispatch, ?signal⟩
  case copy => exact fun c t k b run => execCopy_done tn run
  case copy2 =>
    intro c t k b n run
    exact execCopy2_done tn run
  case fill => exact fun c t k run => execFill_done tn run
  case xcopy => exact fun mirror c s1 t k n b fresh begun run => execXcopy_done tn fresh begun run
  case accum => exact fun c t k b run => execAccum_done tn run
  case accumOrdered => exact fun c t k b run => execAccumOrdered_sent tn run
  case mma =>
    intro c a b s1 s2 s3 t k n b' two A B kbs first later blocks skips
    exact (execMma_two tn two).trans (congrArg _ (mmaRun_done first later blocks skips))
  case mlda =>
    intro c a t bs one b run
    exact execMlda_done tn one run
  case msta =>
    intro c a s1 t k one b z elem rows stats
    exact execMsta_done tn one rows stats
  case mzero => exact fun c => execMzero_done tn c
  case msave => exact fun c t k run => execMsave_done tn run
  case mrstr => exact fun c t bs run => execMrstr_done tn run
  case gathers =>
    intro c t x rows row at_
    exact ⟨fun run => gatherOp_done tn _ run, fun run => gatherOp_done tn _ run, fun run => gatherOp_done tn _ run⟩
  case gsum => exact fun c t x run closed => execGsum_done tn run (Option.isNone_iff_eq_none.mp closed)
  case dispatch => exact fun c => execDispatch_issued tn c
  case signal => exact fun h first => execSignal_done tn h first

end

section
/-! PROOFS. What an access at the coherence point and a change of a task's counters leave of the cores: all but the L1s, the translations held
and the event counters, and in any case the send buffers (R76, R174, R192, R372, R381). -/

namespace Sys2Proof.Machine

/-- A core without what accesses at the coherence point and translations can change of it: its L1, the translations it holds and its event
counters. -/
def Core.uncached (c : Core) : Core := { c with l1 := [], tlb := [], ev := Vector.replicate 8 ⟨0, 0, Vector.replicate 4 0⟩ }

/-- The cores, each without its L1, its held translations and its event counters. -/
def State.uncached (s : State) : Vector Core 768 := s.cores.map Core.uncached

theorem uncached_core {s t : State} (h : t.uncached = s.uncached) (g : CoreId) : (t.core g).uncached = (s.core g).uncached := by
  have at_ (u : State) : u.uncached[g] = (u.core g).uncached := Vector.getElem_map ..
  rw [← at_, h, at_]

theorem sendBuf_of_uncached {s t : State} (h : t.uncached = s.uncached) (g : CoreId) : (t.core g).sendBuf = (s.core g).sendBuf :=
  (congrArg Core.sendBuf (uncached_core h g) :)

theorem uncached_of_cores {s t : State} (h : t.cores = s.cores) : t.uncached = s.uncached :=
  congrArg (fun cores : Vector Core 768 => cores.map Core.uncached) h

theorem modCore_uncached (s : State) (g : CoreId) {f : Core → Core} (h : ∀ c, (f c).uncached = c.uncached) :
    (s.modCore g f).uncached = s.uncached := by
  have same : (f (s.core g)).uncached = (s.cores.map Core.uncached)[g] := (h _).trans (Vector.getElem_map ..).symm
  change (s.cores.set g (f (s.core g))).map Core.uncached = s.cores.map Core.uncached
  rw [Vector.map_set, same]
  exact Vector.set_getElem_self ..

theorem foldl_uncached {α : Type} {f : State → α → State} (h : ∀ s x, (f s x).uncached = s.uncached) :
    ∀ (l : List α) (s : State), (l.foldl f s).uncached = s.uncached
  | [], _ => rfl
  | x :: l, s => (foldl_uncached h l (f s x)).trans (h s x)

theorem ite_uncached {s t u : State} {c : Prop} [Decidable c] (yes : t.uncached = s.uncached) (no : u.uncached = s.uncached) :
    (if c then t else u).uncached = s.uncached := by
  split <;> assumption

/-! ## Bytes at their homes and in a die's slice: no core changes -/

theorem homeWriteByte_cores (s : State) (pa : Nat) (b : Byte) : (s.homeWriteByte pa b).cores = s.cores := by
  unfold State.homeWriteByte; split <;> rfl

theorem homeBytes_cores : ∀ (l : List Byte) (s : State) (pa : Nat), (s.homeBytes pa l).cores = s.cores
  | [], _, _ => rfl
  | b :: l, s, pa => (homeBytes_cores l _ _).trans (homeWriteByte_cores s pa b)

theorem clearPoison_cores (s : State) (pa n : Nat) : (s.clearPoison pa n).cores = s.cores := by
  unfold State.clearPoison; split <;> rfl

theorem markPoison_cores (s : State) (l : List Nat) : (s.markPoison l).cores = s.cores := by
  unfold State.markPoison; split <;> rfl

theorem homeWrite_cores (s : State) (pa : Nat) (l : List Byte) : (s.homeWrite pa l).cores = s.cores :=
  (clearPoison_cores ..).trans (homeBytes_cores l s pa)

theorem levelByte_cores (s : State) (d : DieId) (pa : Nat) (b : Byte) : (s.levelByte d pa b).cores = s.cores := by
  unfold State.levelByte
  split
  · rfl
  · exact homeWrite_cores ..

theorem levelWrite_cores (s : State) (d : DieId) (pa : Nat) (l : List Byte) (bad : List Nat) : (s.levelWrite d pa l bad).cores = s.cores := by
  refine (markPoison_cores ..).trans ((clearPoison_cores ..).trans ?_)
  split
  · exact foldl_cores (fun s _ => levelByte_cores s d _ _) _ s
  · exact homeWrite_cores ..

theorem send_cores (s : State) (l : List Msg) : (s.send l).cores = s.cores := by
  unfold State.send; split <;> rfl

theorem absorbGo_cores (r : Run) : ∀ (l : List Msg) (seen : List (CoreId × Run)) (s : State), (absorbGo r l seen s).2.cores = s.cores
  | [], _, _ => rfl
  | m :: l, seen, s => by
    have rest := absorbGo_cores r l
    unfold absorbGo
    split
    case h_2 =>
      dsimp only
      split
      · rw [rest]
        split <;> exact levelWrite_cores ..
      · exact rest ..
    case h_3 =>
      dsimp only
      split <;> exact rest ..
    all_goals exact rest ..

theorem absorb_cores (s : State) (r : Run) : (s.absorb r).cores = s.cores := by
  unfold State.absorb
  split
  · rfl
  · exact absorbGo_cores ..

theorem visitorsDrop_cores (s : State) (d : DieId) (r : Run) : (s.visitorsDrop d r).cores = s.cores := by
  unfold State.visitorsDrop
  dsimp only
  split
  · rfl
  · refine foldl_cores (fun s v => ?_) _ s
    split
    · exact homeBytes_cores ..
    · rfl

theorem forget_cores (s : State) (r : Run) : (s.forget r).cores = s.cores := by
  unfold State.forget
  split <;> split <;> rfl

theorem storeEvent_cores (s : State) (g : Option CoreId) (d : Dom) (l : Loc) (n : Nat) : (s.storeEvent g d l n).cores = s.cores := by
  obtain ⟨r, c, w, e⟩ := storeEvent_eq s g d l n
  rw [e]

theorem walkFill_cores (s : State) (h : DieId) (d : Dom) (va : VA) : (s.walkFill h d va).cores = s.cores := by
  unfold State.walkFill
  dsimp only
  split <;> rfl

/-! ## The coherence point: a recall changes an L1, and what is counted of it -/

theorem coreTally_uncached (c : Core) (d : Option Dom) (code : BitVec 16) (n : Nat) : (c.tally d code n).uncached = c.uncached := by
  unfold Core.tally; split <;> rfl

theorem tally_uncached (s : State) (g : CoreId) (d : Option Dom) (code : BitVec 16) (n : Nat) : (s.tally g d code n).uncached = s.uncached := by
  unfold State.tally
  split
  · exact modCore_uncached s g fun c => coreTally_uncached c d code n
  · rfl

theorem tallyBacks_uncached (s : State) (g : CoreId) (q : Run) : (s.tallyBacks g q).uncached = s.uncached := by
  refine foldl_uncached (fun s e => ?_) _ s
  split
  · split
    · exact tally_uncached ..
    · rfl
  · rfl

theorem recallOne_uncached (s : State) (d : DieId) (r : Run) (o : Owned) : (s.recallOne d r o).uncached = s.uncached := by
  unfold State.recallOne
  split
  · rfl
  · dsimp only
    rw [uncached_of_cores (send_cores ..), uncached_of_cores (modDie_cores ..), modCore_uncached,
      uncached_of_cores (foldl_cores (fun s p => levelWrite_cores ..) ..), tallyBacks_uncached]
    exact fun _ => rfl

theorem recallDie_uncached (s : State) (d : DieId) (r : Run) : (s.recallDie d r).uncached = s.uncached :=
  foldl_uncached (fun s _ => recallOne_uncached s d r _) _ s

theorem recallAll_uncached (s : State) (d : DieId) (r : Run) : (s.recallAll d r).uncached = s.uncached :=
  (foldl_uncached (fun _ q => (recallDie_uncached _ d q).trans (uncached_of_cores (absorb_cores ..))) _ _).trans (recallDie_uncached s d r)

theorem takeHome_uncached (s : State) (r : Run) : (s.takeHome r).uncached = s.uncached := by
  refine (uncached_of_cores ((forget_cores ..).trans (foldl_cores (fun s d => visitorsDrop_cores s d r) _ _))).trans ?_
  refine (foldl_uncached (fun s d => ?_) _ _).trans (uncached_of_cores (absorb_cores s r))
  split
  · rfl
  · exact recallAll_uncached s d r

theorem cohWrite_uncached (s : State) (pa : Nat) (l : List Byte) : (s.cohWrite pa l).uncached = s.uncached :=
  (uncached_of_cores ((storeEvent_cores ..).trans (homeWrite_cores ..))).trans (takeHome_uncached ..)

/-! ## Translation: a walk fills the translations held, and marks its entry -/

theorem tlbFill_uncached (s : State) (g : CoreId) (d : Dom) (va : VA) (l : Leaf) (a : Acc) : (s.tlbFill g d va l a).uncached = s.uncached := by
  unfold State.tlbFill
  refine ite_uncached rfl (ite_uncached rfl ?_)
  dsimp only
  rw [uncached_of_cores (modDie_cores ..), modCore_uncached]
  exact fun _ => rfl

theorem markPte_uncached (s : State) (l : Leaf) (a : Acc) : (s.markPte l a).uncached = s.uncached := by
  unfold State.markPte
  exact ite_uncached rfl (ite_uncached rfl (cohWrite_uncached ..))

theorem xlate_uncached (s : State) (g : CoreId) (d : Dom) (a : Acc) (u : Bool) (va : VA) : (s.xlate g d a u va).1.uncached = s.uncached := by
  unfold State.xlate
  extract_lets fresh held old
  clear_value old fresh
  cases old with
  | some e =>
    dsimp only
    split <;> rfl
  | none =>
    cases fresh with
    | error c => rfl
    | ok l =>
      dsimp only
      split
      · rfl
      · split
        · rfl
        · split
          · rfl
          · exact (markPte_uncached ..).trans ((tlbFill_uncached ..).trans (uncached_of_cores (walkFill_cores ..)))

theorem xlDev_uncached (s : State) (g : CoreId) (d : Dom) (a : Acc) (va : VA) : (s.xlDev g d a va).1.uncached = s.uncached := by
  have walked := xlate_uncached s g d a false va
  unfold State.xlDev
  split
  · rfl
  · split
    · next e => rw [e] at walked; exact walked
    · next e => rw [e] at walked; split <;> exact walked

/-! ## Counters of a task (R76) -/

theorem frameMod_uncached (s : State) (g : CoreId) (d : Dom) (f : VA) (n : Nat) (h : Word → Word) :
    (s.frameMod g d f n h).1.uncached = s.uncached := by
  have reached := xlDev_uncached s g d .both (frameWord f n)
  unfold State.frameMod
  split
  · next e => rw [e] at reached; exact (cohWrite_uncached ..).trans reached
  · next e => rw [e] at reached; exact reached

theorem frameUpd_uncached (s : State) (c : Cont) (u : CntUpd) : (s.frameUpd c u).1.uncached = s.uncached := by
  unfold State.frameUpd
  split
  · dsimp only
    split
    · exact frameMod_uncached ..
    · split
      · exact frameMod_uncached ..
      · exact (frameMod_uncached ..).trans (frameMod_uncached ..)
  · exact frameMod_uncached ..

theorem sendBuf_modSlot (s : State) (g : CoreId) (i : SlotId) (f : Slot → Slot) (h : CoreId) :
    ((s.modSlot g i f).core h).sendBuf = (s.core h).sendBuf := by
  by_cases same : h = g
  · rw [same, State.modSlot, State.setSlot, core_setCore]; rfl
  · exact congrArg Core.sendBuf (core_setCore_ne _ _ _ _ same)

/-- A change of a task's counters, in its slot or in its frame, takes nothing out of a send buffer and puts nothing in. -/
theorem sendBuf_count (s : State) (g : CoreId) (act : Nat) (u : CntUpd) (h : CoreId) :
    ((s.count g act u).core h).sendBuf = (s.core h).sendBuf := by
  unfold State.count
  split
  · exact sendBuf_modSlot ..
  · split
    · rfl
    · next c _ =>
      have framed := sendBuf_of_uncached (frameUpd_uncached s c u) h
      split
      · next e => rw [e] at framed; split <;> exact framed
      · next e => rw [e] at framed; exact framed

end Sys2Proof.Machine
end

section
/-! PROOFS. The events of messages and of what waits for memory (R291 to R296, R299, R321, R325 to R329, R348, R381). -/

namespace Sys2Proof.Machine

variable {s t : State} {g h : CoreId} {i : SlotId} {n : Nat} {d : Dom} {m : OutMsg}

/-- A message of core g on its way to core h. -/
def State.sent (s : State) (g h : CoreId) (tr : TaskRec) : State := { s with transit := s.transit ++ [⟨g, h, tr, false⟩] }

/-! ## Messages that leave (R291, R292, R329, R348) -/

theorem sendBuf_leaveBuffer (s : State) (g : CoreId) (n : Nat) (m : OutMsg) :
    ((s.leaveBuffer g n m).core g).sendBuf = (s.core g).sendBuf.eraseIdx n := by
  unfold State.leaveBuffer
  rw [sendBuf_count, core_modCore]
  dsimp only
  split <;> rfl

section
variable (find : (s.core g).sendBuf[n]? = some m) (may : s.mayLeave g n m = true)
include find may

theorem accept_local (target : m.target = .local_ h) (room : s.roomFor h m.tr = (t, .yes)) :
    s.accept g n = some ((t.leaveBuffer g n m).sent g h m.tr) := by
  simp only [State.accept, find, may, target, room, Bool.not_true, Bool.false_eq_true, if_false]
  rfl

theorem accept_peer {node : BitVec 10} {core : Nat} (target : m.target = .peer node core) : s.accept g n =
    some { s.leaveBuffer g n m with reports := .message node core m.tr.words :: (s.leaveBuffer g n m).reports } := by
  simp only [State.accept, find, may, target, Bool.not_true, Bool.false_eq_true, if_false]

theorem refused'_peer {node : BitVec 10} {core : Nat} (target : m.target = .peer node core) : s.refused' g n =
    some ((s.leaveBuffer g n m).noticeOwn g m.dom
      ((s.leaveBuffer g n m).noticeOf m.dom 6 m.dom 0x3FF 0 (BitVec.ofNat 64 (node.toNat * 1024 + core)) m.tr.dw0 m.tr.dw7 0)) := by
  simp only [State.refused', find, may, target, Bool.not_true, Bool.false_eq_true, if_false]

end

theorem releaseOutside_mapped {v : Word} (find : (s.core g).outside[n]? = some m) (target : m.target = .vcore v)
    (names : s.mapTarget m.dom v = some (.local_ h)) (room : s.roomFor h m.tr = (t, .yes)) : s.releaseOutside g n =
      some ((t.modCore g (fun c => { c with outside := c.outside.eraseIdx n })).sent g h m.tr) := by
  simp only [State.releaseOutside, find, target, names, room]
  rfl

/-! ## Messages that arrive (R222, R291, R295, R296) -/

theorem arrive_placed {x : Transit} (find : s.transit[n]? = some x)
    (first : (s.transit.take n).any (fun y => y.src == x.src && y.g == x.g && y.tr.dom == x.tr.dom && y.tr.vn == x.tr.vn) = false)
    (may : s.mayPlace x.g x.tr = true) (placed : s.placeMessage x.g x.tr x.barred = (t, true)) :
    s.arrive n = some { t with transit := t.transit.eraseIdx n } := by
  simp only [State.arrive, find, first, may, placed, Bool.not_true, Bool.false_eq_true, if_false]

theorem arriveFabric_placed {node : BitVec 10} {core : Nat} {ws : List Word} (peer : (s.node node).cls = .peer)
    (mask : (s.node node).mask.getLsbD (TaskRec.ofWords ws false).dom.toNat = true) (names : finOf 768 core = some h)
    (may : s.mayPlace h (TaskRec.ofWords ws false) = true) (placed : s.placeMessage h (TaskRec.ofWords ws false) false = (t, true)) :
    s.arriveFabric node core ws = some { t with reports := .answer node true [] :: t.reports } := by
  simp only [State.arriveFabric, peer, mask, names, may, placed, beq_self_eq_true, Bool.and_self, Bool.not_true, Bool.false_eq_true, if_false]

/-! ## The waystation (R295, R296) -/

theorem reload_spilling {vn : Bool} (spills : ((s.core g).rank d vn).spilling = true) (due : ((s.core g).rank d vn).retry ≤ s.cycle) :
    s.reload g d vn = some (s.wayReload g d vn) := by
  simp only [State.reload, spills, due, decide_true, Bool.and_self, if_true]

theorem wayRetry_spilling {vn : Bool} (failed : ((s.core g).rank d vn).retry ≠ 0) (due : ((s.core g).rank d vn).retry ≤ s.cycle)
    (spills : ((s.core g).rank d vn).spilling = true) :
    s.wayRetry g d vn = some ((s.setRank g { (s.core g).rank d vn with retry := 0 }).wayReload g d vn) := by
  simp only [State.wayRetry, failed, Nat.not_lt.mpr due, spills, decide_false, Bool.or_self, Bool.false_eq_true, if_false, if_true]

/-! ## Held frames (R321, R331, R381) -/

section
variable {w : FrameWait} {a : Nat} {told : Bool} (waits : (s.slot g i).status = .frameWait w a told) (within : s.overBudget g i = false)
include waits within

theorem frameProceed_freed (freed : (s.dom (s.slot g i).dom).fpFree ≠ 0) : s.frameProceed g i = some (s.retryHold g i w told) := by
  simp only [State.frameProceed, State.budgetExpire, waits, within, freed, Bool.false_eq_true, if_false, Option.getD_none]

theorem frameRetry_due (due : a ≤ s.cycle) : s.frameRetry g i = some (s.retryHold g i w told) := by
  simp only [State.frameRetry, State.budgetExpire, waits, within, Nat.not_lt.mpr due, Bool.false_eq_true, if_false, Option.getD_none]

end

/-! ## Fault records that wait (R325, R326) -/

section
variable {r : FaultRec} (room : (s.dom d).fqFull = false)
include room

theorem faultNext_notice {rest : List FqWait} (head : (s.dom d).fqWait = .notice r :: rest) (put : s.fqPut 0 d r = (t, .put)) :
    s.faultNext d = some (t.modDom d (fun x => { x with fqWait := rest })) := by
  simp only [State.faultNext, head, room, Bool.false_eq_true, if_false]
  -- the record by its own name first, not under the match, where the kernel would run `State.fqPut`
  generalize written : s.fqPut _ d r = x
  obtain rfl := written.symm.trans put
  rfl

theorem faultNext_task {rest : List FqWait} {a : AfterFault} {held : Nat} (head : (s.dom d).fqWait = .task g i :: rest)
    (waits : (s.slot g i).status = .faultWait r a held) (put : s.fqPut g d r = (t, .put)) :
    s.faultNext d = some ((t.modDom d (fun x => { x with fqWait := rest })).afterFault g i r a) := by
  simp only [State.faultNext, head, room, waits, put, Bool.false_eq_true, if_false]

end

/-- The next record is written by the event of a first write, or by that of a retry that is due. -/
theorem faultEvents_write (next : s.faultNext d = some t) : ((s.dom d).fqRetry = 0 → exec (.faultRecordWrite d) s = .next t) ∧
    ((s.dom d).fqRetry ≠ 0 → (s.dom d).fqRetry ≤ s.cycle → exec (.faultQueueRetry d) s = .next t) := by
  refine ⟨fun fresh => ?_, fun failed due => ?_⟩
  · change execFaultRecordWrite d s = _
    rw [execFaultRecordWrite, if_pos fresh, next, Option.getD_some]
  · change execFaultQueueRetry d s = _
    simp only [execFaultQueueRetry, failed, Nat.not_lt.mpr due, next, decide_false, Bool.or_self, Bool.false_eq_true, if_false, Option.getD_some]

/-! ## Pod barriers (R299) -/

section
variable {b : Fin 8}

theorem exec_podBarrier_arrival (first : Config.nodeNumber = 0) (owned : s.podBar[b].owner.isSome = true) :
    exec (.podBarrierArrival b .arrival) s = .next (s.barArrive (.pod b)).1 := congrArg _ (if_pos ⟨first, owned⟩)

theorem exec_podBarrier_passed {ph : BitVec 32} (other : Config.nodeNumber ≠ 0) : exec (.podBarrierArrival b (.passed ph)) s =
    .next ((s.setBar (.pod b) { s.podBar[b] with a := 0, phase := ph }).wakePhase (.pod b)) := congrArg _ (if_neg other)

theorem exec_podBarrier_alloc {e : Nat} (unowned : s.podBar[b].owner = none) :
    exec (.podBarrierArrival b (.alloc d e)) s = .next (s.setBar (.pod b) ⟨some d, none, e, 0, 0⟩) :=
  congrArg _ (if_neg (by rw [unowned]; exact Bool.false_ne_true))

end

end Sys2Proof.Machine

open Sys2Proof Sys2Proof.Machine

/-- Settles O55: each event's answer where it is its turn is the lemma of that event; what a message to a peer leaves of the send buffer is
`sendBuf_leaveBuffer`. -/
theorem messageEvents : Obligations.MessageEvents := by
  intro s t g i n d vn gives sent
  refine ⟨?leaves, ?released, ?arrives, ?fabric, ⟨?reload, ?wayRetry⟩, ?frames, ?faults, ?dead, fun b ph e => ⟨?counted, ?passed, ?alloc, ?free⟩⟩
  case leaves =>
    intro m find may
    refine ⟨fun h target room => next_of_some (accept_local find may target room), fun node core target =>
      ⟨⟨_, next_of_some (accept_peer find may target), rfl, sendBuf_leaveBuffer s g n m⟩, next_of_some (refused'_peer find may target)⟩⟩
  case released => exact fun m h v find target names room => next_of_some (releaseOutside_mapped find target names room)
  case arrives => exact fun m find first may placed => next_of_some (arrive_placed find first may placed)
  case fabric =>
    rintro node core ws r ⟨peer, mask⟩ h names may placed
    exact next_of_some (arriveFabric_placed peer mask names may placed)
  case reload => exact fun spills due => next_of_some (reload_spilling spills due)
  case wayRetry => exact fun failed due spills => next_of_some (wayRetry_spilling failed due spills)
  case frames =>
    intro w a told waits within
    exact ⟨fun freed => next_of_some (frameProceed_freed waits within freed), fun due => next_of_some (frameRetry_due waits within due)⟩
  case faults =>
    intro rest room drop writes
    exact ⟨fun r head put => faultEvents_write (faultNext_notice room head put),
      fun r a held head waits put => faultEvents_write (faultNext_task room head waits put)⟩
  case dead => exact fun written => next_of_some written
  case counted => exact exec_podBarrier_arrival
  case passed => exact exec_podBarrier_passed
  case alloc => exact exec_podBarrier_alloc
  case free => rfl
end

section
/-! PROOFS. SCRUB and DOMSET at level H, and what a SCRUB leaves of a domain (R338, R339, R341). -/

namespace Sys2Proof.Machine

/-! ## What is left after a SCRUB (R341) -/

section
variable (s : State) (d : Dom)

theorem scrub_unowned (b : Bar) : (b.scrub d).owner ≠ some d := by
  unfold Bar.scrub
  split
  · exact nofun
  · next other => exact other

theorem die_scrubAll (x : DieId) : (s.scrubAll d).die x = (s.die x).scrub d := Vector.getElem_map ..

/-- Every barrier, of whatever level, is scrubbed. -/
theorem bar_scrubAll (r : BarRef) : (s.scrubAll d).bar r = (s.bar r).scrub d := by
  cases r with
  | quad x q i =>
    simp only [State.bar, die_scrubAll, Die.scrub]
    exact (congrArg (fun v : Vector Bar 8 => v[i]) (Vector.getElem_map ..)).trans (Vector.getElem_map ..)
  | die x i =>
    simp only [State.bar, die_scrubAll, Die.scrub]
    exact Vector.getElem_map ..
  | pkg i => exact Vector.getElem_map ..
  | pod i => exact Vector.getElem_map ..

theorem scrubAll_conts {c : Cont} (h : c ∈ (s.scrubAll d).conts) : c.dom ≠ d := by
  have kept : c ∈ s.conts.filter (fun c => c.dom != d) := h
  simpa using (List.mem_filter.mp kept).2

theorem scrub_registry (x : Die) : (x.scrub d).registry.filter (fun t => t.dom == d) = [] := by
  simp [Die.scrub, List.filter_filter]

/-- No die counts for anything: their registries hold nothing of the domain. -/
theorem tilesOfDom_scrubAll : (s.scrubAll d).tilesOfDom d = 0 := by
  change (s.dies.map (fun x => x.scrub d)).toList.foldl (fun n x => n + (x.registry.filter (fun t => t.dom == d)).length) 0 = 0
  rw [Vector.toList_map, List.foldl_map]
  exact List.foldl_fixed' (fun x => by rw [scrub_registry, List.length_nil]) _

end

/-! ## The instructions at H -/

variable {s : State} {g : CoreId} {i : SlotId} {f : FmtS} {q : DomAsk}

theorem scrub_turn (t : turn s g i (specRegs [f.dst, f.sa])) (high : (s.slot g i).level = 2)
    (may : s.scrubRefused (((s.slot g i).srcW f.sa).setWidth 8) = false)
    (released : (s.core g).released (s.slot g i).task.act (s.slot g i).acq false = true) : exec (.scrub f) s =
      .next (((s.scrubAll (((s.slot g i).srcW f.sa).setWidth 8)).putX g i f.dst
        (BitVec.ofNat 64 (s.tilesOfDom (((s.slot g i).srcW f.sa).setWidth 8)))).pcNext g i) := by
  change execScrub f s = _
  rw [execScrub, runCore_turn t]
  simp only [may, high, released, ne_eq, not_true_eq_false, Bool.not_true, Bool.false_eq_true, if_false]

theorem domset_reads (t : turn s g i (specRegs [f.dst] ++ quadRegs f.sa)) (high : (s.slot g i).level = 2) (ask : domAsk g (s.slot g i) f = some q)
    (noA : q.wa = false) (noB : q.wb = false) :
    exec (.domset f) s = .next ((s.putX g i f.dst (s.core q.t).part[q.e].b).pcNext g i) := by
  change execDomset f s = _
  rw [execDomset, runCore_turn t]
  simp only [ask, noA, noB, high, ne_eq, not_true_eq_false, Bool.not_false, Bool.and_self, if_true, if_false]

theorem domset_writes (t : turn s g i (specRegs [f.dst] ++ quadRegs f.sa)) (high : (s.slot g i).level = 2) (ask : domAsk g (s.slot g i) f = some q)
    (writes : q.wa = true ∨ q.wb = true) (may : (s.core q.t).domRefused q = false) (noSave : q.saves (s.core q.t).part[q.e] = false)
    (noRestore : q.restores (s.core q.t).part[q.e] = false) :
    exec (.domset f) s = .next (((s.domApply q).putX g i f.dst (s.core q.t).part[q.e].b).pcNext g i) := by
  have some_word : ¬ (!q.wa && !q.wb) = true := by rcases writes with h | h <;> simp [h]
  have at_once : s.domGo g i f (s.slot g i).task.act q = ((s.domApply q).putX g i f.dst (s.core q.t).part[q.e].b).pcNext g i := by
    rw [State.domGo, noSave, noRestore]
    rfl
  change execDomset f s = _
  rw [execDomset, runCore_turn t]
  simp only [ask, some_word, may, high, ne_eq, not_true_eq_false, Bool.false_eq_true, if_false, at_once]

end Sys2Proof.Machine

open Sys2Proof Sys2Proof.Machine

/-- Settles O48: a SCRUB by what `State.scrubAll` leaves of the registries, the continuations and the barriers; a DOMSET by whether it writes. -/
theorem scrubAndDomset : Obligations.ScrubAndDomset := by
  intro s g i f high
  refine ⟨fun t may released => ⟨scrub_turn t high may released, tilesOfDom_scrubAll .., fun c => scrubAll_conts _ _, fun r => ?_⟩,
    fun q t ask => ⟨fun noA noB => domset_reads t high ask noA noB,
      fun writes may noSave noRestore => domset_writes t high ask writes may noSave noRestore⟩⟩
  exact (congrArg Bar.owner (bar_scrubAll ..)).trans_ne (scrub_unowned _ _)
end

section
/-! PROOFS. Where the record of an aborted task goes, and the fields of a fault record (R312 to R315, R322). -/

namespace Sys2Proof.Machine

/-! ## The record of an aborted task (R312 to R315) -/

section
variable {s s1 : State} {g : CoreId} {t : Task} {code : TrapCode} {r : FaultRec} {tr : TaskRec} {barred : Bool}

theorem abortReturn_sendqfull {i : Option SlotId} (h : code = .sendqfull) : s.abortReturn g i t code r = s.returnRecord g i t t.tr true := if_pos h

theorem abortReturn_dead {i : Option SlotId} (h : code ≠ .sendqfull) (last : t.tr.replay = 3) : s.abortReturn g i t code r = s.deadLetter g i t r :=
  (if_neg h).trans (if_pos last)

theorem abortReturn_again {i : Option SlotId} (h : code ≠ .sendqfull) (more : t.tr.replay ≠ 3) :
    s.abortReturn g i t code r = s.returnRecord g i t (t.tr.withReplay (t.tr.replay + 1)) false := (if_neg h).trans (if_neg more)

/-- A record of the deque goes back to its top, and its slot is left (R313). -/
theorem returnRecord_deque {i : SlotId} {e : PartId} (source : t.source = .deque) (entry : (s.core g).entryOf tr.dom = some e)
    (pushed : s.pushTop g e ⟨tr, barred, false⟩ = (s1, true)) : s.returnRecord g (some i) t tr barred = s1.leaveSlot g i .free := by
  simp only [State.returnRecord, source, entry, pushed]
  rfl

theorem leaveSlot_status (s : State) (g : CoreId) (i : SlotId) (st : SlotStatus) : ((s.leaveSlot g i st).slot g i).status = st := by rw [slot_leaveSlot]

end

/-! ## The fields of a fault record (R322) -/

/-- The number of an append is the sum of its parts, each in its place. -/
theorem append_toNat_sum {n m : Nat} (a : BitVec n) (b : BitVec m) : (a ++ b).toNat = a.toNat * 2 ^ m + b.toNat := by
  rw [BitVec.toNat_append, ← Nat.shiftLeft_add_eq_or_of_lt b.isLt, Nat.shiftLeft_eq]

theorem TrapCode.num_lt (c : TrapCode) : c.num < 2 ^ 8 := by cases c <;> decide

theorem TrapCode.hasInfo_iff (c : TrapCode) : c.hasInfo = true ↔ c ∈ [TrapCode.swtrap, .bkpt, .gate] := by cases c <;> decide

theorem TrapCode.hasAddr_iff (c : TrapCode) :
    c.hasAddr = true ↔ c ∈ [TrapCode.align, .domain, .page, .access, .allocfail, .poison, .miglost, .swtrap] := by cases c <;> decide

/-- dw0 of a fault record is its fields side by side, with 6 zero bits below the core's number. -/
theorem faultDw0_append (code : Nat) {cls : Nat} (hcls : cls < 2 ^ 2) (level : BitVec 2) (slot : SlotId) (vcore : BitVec 10) (d : Dom)
    (info : BitVec 24) : faultDw0 code cls level.toNat slot.val vcore.toNat d info =
      BitVec.ofNat 8 code ++ BitVec.ofNat 2 cls ++ level ++ BitVec.ofNat 4 slot.val ++ vcore ++ 0#6 ++ d ++ info := by
  have := slot.isLt
  apply BitVec.eq_of_toNat_eq
  simp only [faultDw0, append_toNat_sum, BitVec.toNat_ofNat]
  omega

section
variable {s : State} {g : CoreId} {i : SlotId} {t : Trap} {cls : Nat} {pc : VA} {word : Word} {frame : VA}

theorem faultOf_dw0 (hcls : cls < 4) : (s.faultOf g i t cls pc word frame).dws[0] =
    BitVec.ofNat 8 t.code.num ++ BitVec.ofNat 2 cls ++ (s.slot g i).level ++ BitVec.ofNat 4 i.val ++ s.ownNumber (s.slot g i).dom g ++ 0#6 ++
      (s.slot g i).dom ++ (if t.code ∈ [TrapCode.swtrap, .bkpt, .gate] then t.info else 0) := by
  rw [← faultDw0_append t.code.num hcls]
  simp only [State.faultOf, FaultRec.mk8, TrapCode.hasInfo_iff]
  rfl

theorem faultOf_addr : (s.faultOf g i t cls pc word frame).dws[2] =
    if t.code ∈ [TrapCode.align, .domain, .page, .access, .allocfail, .poison, .miglost, .swtrap] then t.addr else 0 := by
  simp only [State.faultOf, FaultRec.mk8, TrapCode.hasAddr_iff]
  rfl

end

end Sys2Proof.Machine

open Sys2Proof Sys2Proof.Machine

/-- Settles O50: the record's ways by the case of its abort; the fault record's first word by `faultOf_dw0`, field by field. -/
theorem trapRecords : Obligations.TrapRecords := by
  refine ⟨fun s s1 g i t code r e barred tr => ⟨abortReturn_sendqfull, abortReturn_dead, abortReturn_again,
    fun source entry pushed => ⟨returnRecord_deque source entry pushed, leaveSlot_status ..⟩⟩, ?_⟩
  intro s g i t cls pc word frame hcls
  dsimp only
  rw [faultOf_dw0 hcls]
  simp (disch := omega) only [field_low, field_high, Nat.reduceSub, field_all, BitVec.toNat_ofNat, true_and]
  exact ⟨Nat.mod_eq_of_lt t.code.num_lt, Nat.mod_eq_of_lt hcls, Nat.mod_eq_of_lt i.isLt, rfl, rfl, faultOf_addr, rfl, rfl, rfl, rfl, rfl⟩
end

section
/-! PROOFS. How a trap is taken, TRAP and BKPT (R311, R312, R317, R332). -/

namespace Sys2Proof.Machine

variable {s s1 : State} {g : CoreId} {i : SlotId} {f : FmtS} {t : Trap} {pc : VA} {word : Word}

theorem trap_turn (on : turn s g i (specRegs [f.sa])) : exec (.trap f) s =
    .next (raise s g i ⟨.swtrap, if f.sa = Spec.none then 0 else (s.slot g i).srcW f.sa, (f.imm.extractLsb' 0 16).setWidth 24⟩) := by
  change execTrap f s = _
  rw [execTrap, runCore_turn on]

theorem bkpt_turn (on : turn s g i []) : exec (.bkpt f) s = .next (raise s g i ⟨.bkpt, 0, (f.imm.extractLsb' 0 16).setWidth 24⟩) := by
  change execBkpt f s = _
  rw [execBkpt, runCore_turn on]

/-- A task that runs traps at its PC. -/
theorem raise_running (on : (s.slot g i).status = .running) : raise s g i t =
    raiseAt s g i t (s.slot g i).pc ((s.core g).wordAt (s.slot g i).dom (s.slot g i).pc) := by
  have here : (s.slot g i).insnPc = (s.slot g i).pc := by simp only [Slot.insnPc, on]
  rw [raise, here]

/-- What an abort-class trap discards: the loads in flight, the uncommitted messages and the reservation (R311, R312). -/
def State.trapDiscards (s : State) (g : CoreId) (i : SlotId) : State :=
  ((s.dropLoads g i).dropUncommitted g (s.slot g i).task.act).dropReservation g i

/-- An abort-class trap whose record the fault queue takes. -/
theorem raiseAt_aborts (cls : t.code.cls ≠ 1)
    (put : (s.trapDiscards g i).fqTry g (s.slot g i).dom ((s.trapDiscards g i).faultOf g i t 0 pc word 0) = (s1, .put)) :
    raiseAt s g i t pc word = s1.abortSlot g i t.code (s.slot g i).heldFrame ((s.trapDiscards g i).faultOf g i t 0 pc word 0) := by
  rw [State.trapDiscards] at put ⊢
  simp only [raiseAt, cls, if_false, put]

/-- A suspension with a frame whose record the fault queue takes (R317). -/
theorem suspended_leaves {fr : VA} {s3 : State}
    (put : ((s.addCont g i fr .now true).modSlot g i (fun x => { x with task := { x.task with act := 0 } })).fqTry g (s.slot g i).dom
      (s.faultOf g i t 1 pc word fr) = (s3, .put)) : s.suspended g i fr t pc word = s3.finishSuspend g i := by
  simp only [State.suspended, put]

/-- A suspend-class trap that finds a frame: the context is saved, and the suspension follows (R317). -/
theorem raiseAt_suspends {fr : VA} (cls : t.code.cls = 1)
    (saved : (s.dropLoads g i).trySave g i (.suspend t pc word none) (resumePc t pc) 1 .now = (s1, .saved fr)) :
    raiseAt s g i t pc word = s1.suspended g i fr t pc word := by
  simp only [raiseAt, cls, if_true, State.suspendTask, saved]

end Sys2Proof.Machine

open Sys2Proof Sys2Proof.Machine

/-- Settles O49: TRAP and BKPT at their turn, and the action of either class. -/
theorem trapsTaken : Obligations.TrapsTaken := by
  intro s s1 g i f t pc word
  refine ⟨trap_turn, bkpt_turn, raise_running, fun cls put => raiseAt_aborts cls put, ?_⟩
  rintro cls fr s2 s3 saved rfl put
  exact (raiseAt_suspends cls saved).trans (suspended_leaves put)
end
